-- ==== Sys2Proof/Word.lean ====
section
/-! DEFINITION. The word types of the machine. Bit 0 is the least significant bit (00 R4). -/
namespace Sys2Proof

/-- A 64-bit register, address or CSR. -/
abbrev Word := BitVec 64
abbrev Byte := BitVec 8
/-- A vector register: 4,096 bits, byte k in bits [8k + 7 : 8k] (05 R142). -/
abbrev VReg := BitVec 4096
/-- An entry of the mask stack (01 Table 6). -/
abbrev MaskEntry := BitVec 1024
/-- An accumulator: 16 x 16 binary64, element (i, j) in the 64 bits from 64 (16 i + j) (13 R326, 18 R425). -/
abbrev Tile := BitVec 16384
/-- The seven sticky bits of FLAGS[6:0] (02 R74). -/
abbrev Flg := BitVec 7

end Sys2Proof
end

