-- ==== Sys2Proof/Config.lean ====
section
/-! DEFINITION. What an implementation fixes, and the free values: constants without a body, of which nothing can
be proved but that they are values (DESIGN CHOICE, safe: notes/assumptions/5.md). -/
namespace Sys2Proof.Config

/-- The hardware entropy source (02 R73, 06 R183): the n-th value drawn since package reset. -/
opaque entropy : Nat → BitVec 64
/-- FWVER, the version of an image (22 Table 2); no step reads it. -/
opaque fwver : BitVec 512 → BitVec 64
/-- The anti-rollback SVN in the fuses at manufacture, and the flash images at manufacture with their SVN (22 R501). -/
opaque fusedSvn : BitVec 16
opaque svn : BitVec 16
opaque imageA : BitVec 512
opaque imageB : BitVec 512
/-- Whether an image's signature verifies against a key whose hash is fused, and whether the signed image asks for the
fused SVN to be raised (22 R501). -/
opaque imageSigned : BitVec 512 → Bool
opaque imageRaises : BitVec 512 → Bool
/-- SHAKE256-512 of the boot ROM, and the extension of a measurement by a hash (22 R501). -/
opaque romHash : BitVec 512
opaque extend : BitVec 512 → BitVec 512 → BitVec 512
/-- A byte of a frame whose key slot was destroyed at draw n: which of the writes before it had reached the stack (22 R499). -/
opaque keyedByte : Nat → Nat → BitVec 8
/-- A granule written as `d` under the key of identity `w`, as it reads under that of identity `r`: AES-256-XTS with the
granule's number as tweak (22 R497). An identity is the draw that gave the key plus 1, or 0 for no key. -/
opaque garbled : (w r granule : Nat) → (d : BitVec 256) → BitVec 256
/-- What the board reads of a sensor, a temperature or the power, at draw n (22 R506). -/
opaque sensor : Nat → BitVec 64
/-- The hash of measurement block 3 or 4 over what it measures: 22 R502 names the content and no encoding of it. -/
opaque measurement : (block : Nat) → (content : List Nat) → BitVec 512
/-- The answer to an SPDM request for a block that 22 R502 does not name, at draw n. -/
opaque spdmAnswer : Nat → BitVec 512
/-- The region key that the entropy source gives at the n-th fill (22 R497); no instruction reads it. -/
opaque regionKey : Nat → BitVec 512

/-- A byte of the areas of a context image that the device lays out for itself (18 Table 3, R512): of save n, for
tile t, at an offset. -/
opaque imageByte : Nat → Nat → Nat → BitVec 8

/-- The order of MIN or MAX of a sketch that holds a NaN pattern against a value: 06 R174 orders no NaN. (DESIGN CHOICE, safe: notes/assumptions/25.md.) -/
opaque nanBound : Nat → Nat → Bool

/-- Device memory in bytes, 768 GiB (00 R1, 10 R261). -/
def devBytes : Nat := 768 * 2 ^ 30
/-- Cores per die and per package (00 R1). -/
def coresPerDie : Nat := 64
def cores : Nat := 256
/-- Bytes of a core's pool: 128 banks of 32 KiB (01 R29). -/
def bankBytes : Nat := 32768
def poolBytes : Nat := 128 * bankBytes
/-- Bytes of the instruction buffer (01 R42). -/
def imageBytes : Nat := 131072

end Sys2Proof.Config
end

