-- ==== Sys2Proof/Syntax.lean ====
section
/-! DEFINITION. The instructions: one constructor per row of spec/opcode_table.json, in its order.

A syllable's constructor carries its register and immediate fields as the bit strings the encoding gives
them (03 R86 to R89; the letters are the table's); bit 31, S, belongs to the bundle and stands in `Syllable`.
A micro-op carries the fields of 13 Table 6, a command entry those of 09 Table 4 and the queue it stands in.
Every other row is an event: what the device, its firmware, the host or a peer does as one step; its
constructor carries the operands the spec gives the event. -/
namespace Sys2Proof

/-- What the host, firmware or the board does that has no row of its own (09 R236; 10 R267, R279; 15 R406;
18 R433, R438; 20 R454; 22 R495, R496). -/
inductive HostReg where
  /-- BASE, LOG2N and EN of a queue register block in the BAR0 of a function, and the block's FN, which firmware alone
  writes. -/
  | qbase (fn : BitVec 5) (q : BitVec 6) | qlog2n (fn : BitVec 5) (q : BitVec 6) | qen (fn : BitVec 5) (q : BitVec 6)
  | qfn (q : BitVec 6)
  /-- AGEK of a die (09 R254). -/
  | agek (die : BitVec 2)
  /-- Root of a function's page tables (10 R267), retag journal base (10 R279), access-counter queue (15 R406). -/
  | root (fn : BitVec 5) | retag (fn : BitVec 5) | notifq (fn : BitVec 5)
  /-- Replay journal base and capacity (18 R438), egress journal base (18 R433), replay mode (18 R440). -/
  | journal (fn : BitVec 5) | journalCap (fn : BitVec 5) | egress (fn : BitVec 5) | replay (fn : BitVec 5)
  /-- RIDX of the notification block (22 R495); the ARG, TAG, CMD and reserved words of the mailbox (22 Table 4). -/
  | ridx (fn : BitVec 5) | arg (fn : BitVec 5) (k : BitVec 2) | tag (fn : BitVec 5) | cmd (fn : BitVec 5)
  | mbRsv (fn : BitVec 5) (k : BitVec 1)
  /-- Virtual function enabled, the mask bit of a function's MSI-X vector, and the base-2 logarithm of the bytes of its BAR2
  (22 R493 to R495). -/
  | vfEnable (fn : BitVec 5) | msixMask (fn : BitVec 5) | bar2Size (fn : BitVec 5)
  /-- A word of the reserved bits of a notification control block (15 Table 5; 22 R495). -/
  | noteRsv (fn : BitVec 5) (k : BitVec 3)
  /-- Not a register of the device: the runtime asks through the Puppeteer for a migration of the page at `va` to that at
  the value (15 R409); another package of the pod owes chunks or is hot, 1, or no longer, 0 (21 R472). -/
  | migrate (fn : BitVec 5) (va : BitVec 64) | podPause
  /-- Not a write: a configuration request that reads the class code (22 R493, R501), and the board's controller, which
  reads what the value names (22 R506). -/
  | configRead (fn : BitVec 5) | boardRead
  /-- Breakpoint units of the core in focus (20 R454). -/
  | bpctl (u : BitVec 2) | bpval (u : BitVec 2)
  deriving DecidableEq, Repr

/-- Where an uncorrectable error strikes (18 R430): a granule of device memory, or bytes of the pool of the core
in focus (scratchpad, register-file and accumulator banks are banks of that pool, 01 R30). -/
inductive ErrSite where
  | device (addr : Nat) | pool (addr : Nat)
  deriving DecidableEq, Repr

/-- A request from outside at a device or virtual address (21 R465, 22 R494). -/
inductive PeerReq where
  | read (addr : BitVec 64) (n : Nat)
  | write (addr : BitVec 64) (bytes : List (BitVec 8))
  | atomic (addr : BitVec 64) (op : BitVec 4) (wide : Bool) (data cmp : BitVec 64)
  /-- A transaction of any other type. -/
  | other (addr : BitVec 64) (type : Nat)
  deriving DecidableEq, Repr

/-- A queue's register block as a function's BAR0 shows it (22 R494). -/
structure BlockAt where
  fn : BitVec 5
  q : BitVec 6
  deriving DecidableEq, Repr

/-- A launch: the function that it belongs to and its LID (21 R476). -/
structure LaunchId where
  fn : BitVec 5
  lid : BitVec 64
  deriving DecidableEq, Repr

/-- What a notification carries beside its words: its payload, and for TYPE 3 which of the slot's stop records, the newest
first, goes before it (22 R495). -/
structure NotePayload where
  bits : BitVec 256
  nth : Nat := 0
  deriving DecidableEq, Repr

/-- A chunk that another package of the pod sends to a port of this one (21 R478, R481): the member's seat by its gang's
LID and phase number, gang and tile, the bytes, where they go, the step, the FLAG, RED and the spaces, whether it is the
last, the sending package, and what that package calls the chunk. -/
structure FarChunk where
  lid : BitVec 64
  phnum : BitVec 16
  fn : BitVec 5
  gang : BitVec 16
  tile : BitVec 6
  bytes : List (BitVec 8)
  ra : Int
  step : Nat
  flag : BitVec 64
  red : Nat
  rsp : Bool
  fsp : Bool
  last : Bool
  pkg : BitVec 10
  ref : Nat
  deriving DecidableEq, Repr

/-- The chunk that arrives at a port: the k-th on its way from this package, or one of another package. -/
inductive ChunkSrc where
  | own (k : Nat) | far (c : FarChunk)
  deriving DecidableEq, Repr

/-- Every instruction of the opcode table. -/
inductive Instr where
  | nop
  | endTask
  | svc (d a : BitVec 5)
  | trap (n : BitVec 10)
  | csrr (d : BitVec 5) (c : BitVec 8)
  | csrw (a : BitVec 5) (c : BitVec 8)
  | csrs (a : BitVec 5) (c : BitVec 8)
  | csrc (a : BitVec 5) (c : BitVec 8)
  | yield
  | drain
  | clogrd (d a : BitVec 5)
  | rjmark (a : BitVec 5)
  | rescnt (d : BitVec 5)
  | add (d a b : BitVec 5)
  | sub (d a b : BitVec 5)
  | and (d a b : BitVec 5)
  | or (d a b : BitVec 5)
  | xor (d a b : BitVec 5)
  | andn (d a b : BitVec 5)
  | sll (d a b : BitVec 5)
  | srl (d a b : BitVec 5)
  | sra (d a b : BitVec 5)
  | min (d a b : BitVec 5)
  | max (d a b : BitVec 5)
  | minu (d a b : BitVec 5)
  | maxu (d a b : BitVec 5)
  | adds (d a b : BitVec 5)
  | subs (d a b : BitVec 5)
  | sel (d a b : BitVec 5) (p : BitVec 4)
  | cmpeq (p : BitVec 4) (a b : BitVec 5)
  | cmpne (p : BitVec 4) (a b : BitVec 5)
  | cmplt (p : BitVec 4) (a b : BitVec 5)
  | cmpltu (p : BitVec 4) (a b : BitVec 5)
  | cmple (p : BitVec 4) (a b : BitVec 5)
  | cmpleu (p : BitVec 4) (a b : BitVec 5)
  | addi (d a : BitVec 5) (i : BitVec 12)
  | andi (d a : BitVec 5) (i : BitVec 12)
  | ori (d a : BitVec 5) (i : BitVec 12)
  | xori (d a : BitVec 5) (i : BitVec 12)
  | slli (d a : BitVec 5) (n : BitVec 6)
  | srli (d a : BitVec 5) (n : BitVec 6)
  | srai (d a : BitVec 5) (n : BitVec 6)
  | shlor (d a : BitVec 5) (i : BitVec 12)
  | movi (d : BitVec 5) (i : BitVec 12)
  | cmpeqi (p : BitVec 4) (a : BitVec 5) (i : BitVec 12)
  | cmplti (p : BitVec 4) (a : BitVec 5) (i : BitVec 12)
  | cmpltui (p : BitVec 4) (a : BitVec 5) (i : BitVec 12)
  | mul (d a b : BitVec 5)
  | mulh (d a b : BitVec 5)
  | mulhu (d a b : BitVec 5)
  | div (d a b : BitVec 5)
  | divu (d a b : BitVec 5)
  | rem (d a b : BitVec 5)
  | remu (d a b : BitVec 5)
  | clz (d a : BitVec 5)
  | ctz (d a : BitVec 5)
  | popc (d a : BitVec 5)
  | brev (d a : BitVec 5)
  | bswap (d a : BitVec 5)
  | rol (d a b : BitVec 5)
  | ror (d a b : BitVec 5)
  | extu (d a b : BitVec 5)
  | exts (d a b : BitVec 5)
  | fadd (d a b : BitVec 5) (r : BitVec 3) (t : BitVec 2)
  | fsub (d a b : BitVec 5) (r : BitVec 3) (t : BitVec 2)
  | fmul (d a b : BitVec 5) (r : BitVec 3) (t : BitVec 2)
  | fma (d a b : BitVec 5) (r : BitVec 3) (t : BitVec 2)
  | fmin (d a b : BitVec 5) (t : BitVec 2)
  | fmax (d a b : BitVec 5) (t : BitVec 2)
  | fdiv (d a b : BitVec 5) (r : BitVec 3) (t : BitVec 2)
  | fsqrt (d a : BitVec 5) (r : BitVec 3) (t : BitVec 2)
  | fcvt (d a : BitVec 5) (c : BitVec 2) (r : BitVec 3) (t : BitVec 2)
  | fcvti (d a b : BitVec 5) (r : BitVec 3) (t : BitVec 2)
  | fcvtn (d a b : BitVec 5) (r : BitVec 3) (t : BitVec 2)
  | icvtf (d a b : BitVec 5) (r : BitVec 3) (t : BitVec 2)
  | ncvtf (d a b : BitVec 5) (r : BitVec 3) (t : BitVec 2)
  | fcmpeq (p : BitVec 4) (a b : BitVec 5) (t : BitVec 2)
  | fcmplt (p : BitVec 4) (a b : BitVec 5) (t : BitVec 2)
  | fcmple (p : BitVec 4) (a b : BitVec 5) (t : BitVec 2)
  | fneg (d a : BitVec 5) (t : BitVec 2)
  | fabs (d a : BitVec 5) (t : BitVec 2)
  | beq (a b : BitVec 5) (d : BitVec 13)
  | bne (a b : BitVec 5) (d : BitVec 13)
  | blt (a b : BitVec 5) (d : BitVec 13)
  | bge (a b : BitVec 5) (d : BitVec 13)
  | bltu (a b : BitVec 5) (d : BitVec 13)
  | bgeu (a b : BitVec 5) (d : BitVec 13)
  | bp (p : BitVec 4) (d : BitVec 13)
  | bnp (p : BitVec 4) (d : BitVec 13)
  | j (d : BitVec 16)
  | call (d : BitVec 16)
  | jr (a : BitVec 5) (d : BitVec 16)
  | callr (a : BitVec 5) (d : BitVec 16)
  | loop (a : BitVec 5) (d : BitVec 16)
  | loopRot (a : BitVec 5) (n : BitVec 2) (d : BitVec 16)
  | loopRot58 (a : BitVec 5) (n : BitVec 2) (d : BitVec 16)
  | mpushAll
  | mdup
  | mpop
  | mand
  | mor
  | mxor
  | mandn
  | mnot
  | melse
  | mpushP (p : BitVec 4)
  | mcnt (d : BitVec 5)
  | many (p : BitVec 4)
  | pand (d a b : BitVec 4) (i : BitVec 1)
  | por (d a b : BitVec 4) (i : BitVec 1)
  | pxor (d a b : BitVec 4) (i : BitVec 1)
  | pandn (d a b : BitVec 4) (i : BitVec 1)
  | pnz (p : BitVec 4) (a : BitVec 5)
  | prd (d : BitVec 5)
  | guard (p : BitVec 4) (m : BitVec 8)
  | mskip (n : BitVec 8)
  | ld (d a : BitVec 5) (c : BitVec 2) (z : BitVec 3) (i : BitVec 9)
  | st (t a : BitVec 5) (c : BitVec 2) (z : BitVec 3) (i : BitVec 9)
  | ldg (d a : BitVec 5) (c : BitVec 2) (z : BitVec 3) (i : BitVec 9)
  | stg (t a : BitVec 5) (z : BitVec 3) (i : BitVec 9)
  | amswap (d a b : BitVec 5) (p w : BitVec 1) (c : BitVec 3) (o : BitVec 2)
  | amcas (d a b : BitVec 5) (p w : BitVec 1) (c : BitVec 3) (o : BitVec 2)
  | amadd (d a b : BitVec 5) (p w : BitVec 1) (c : BitVec 3) (o : BitVec 2)
  | amand (d a b : BitVec 5) (p w : BitVec 1) (c : BitVec 3) (o : BitVec 2)
  | amor (d a b : BitVec 5) (p w : BitVec 1) (c : BitVec 3) (o : BitVec 2)
  | amxor (d a b : BitVec 5) (p w : BitVec 1) (c : BitVec 3) (o : BitVec 2)
  | ammin (d a b : BitVec 5) (p w : BitVec 1) (c : BitVec 3) (o : BitVec 2)
  | ammax (d a b : BitVec 5) (p w : BitVec 1) (c : BitVec 3) (o : BitVec 2)
  | amminu (d a b : BitVec 5) (p w : BitVec 1) (c : BitVec 3) (o : BitVec 2)
  | ammaxu (d a b : BitVec 5) (p w : BitVec 1) (c : BitVec 3) (o : BitVec 2)
  | waddF64 (a b : BitVec 5) (p : BitVec 1) (c : BitVec 3) (o : BitVec 2)
  | waddF32 (a b : BitVec 5) (p : BitVec 1) (c : BitVec 3) (o : BitVec 2)
  | waddF16 (a b : BitVec 5) (p : BitVec 1) (c : BitVec 3) (o : BitVec 2)
  | waddBf16 (a b : BitVec 5) (p : BitVec 1) (c : BitVec 3) (o : BitVec 2)
  | waddI64 (a b : BitVec 5) (p : BitVec 1) (c : BitVec 3) (o : BitVec 2)
  | wrd (d a : BitVec 5) (p w : BitVec 1) (c : BitVec 3) (o : BitVec 2)
  | atomicExecution
  | fence (c : BitVec 3)
  | bind (a b : BitVec 5) (p : BitVec 1)
  | unbind (a : BitVec 5)
  | sealRange (a b : BitVec 5)
  | unsealRange (a b : BitVec 5)
  | sealCompletion (fn : BitVec 5) (base : BitVec 64)
  | unsealCompletion (fn : BitVec 5) (base : BitVec 64)
  | binit (c a b : BitVec 5) (p : BitVec 1)
  | arrb (d a : BitVec 5) (p : BitVec 1) (c : BitVec 3)
  | waitph (a b : BitVec 5) (p : BitVec 1) (c : BitVec 3)
  | barrierObjectUpdate (sp : BitVec 1) (addr bytes : BitVec 64) (arr : BitVec 1)
  | globalWritePerformed
  | vadd (d a b : BitVec 6) (t : BitVec 3) (k : BitVec 1)
  | vsub (d a b : BitVec 6) (t : BitVec 3) (k : BitVec 1)
  | vadds (d a b : BitVec 6) (t : BitVec 3) (k : BitVec 1)
  | vsubs (d a b : BitVec 6) (t : BitVec 3) (k : BitVec 1)
  | vmin (d a b : BitVec 6) (t : BitVec 3) (k : BitVec 1)
  | vmax (d a b : BitVec 6) (t : BitVec 3) (k : BitVec 1)
  | vmul (d a b : BitVec 6) (t : BitVec 3) (k : BitVec 1)
  | vmulh (d a b : BitVec 6) (t : BitVec 3) (k : BitVec 1)
  | vand (d a b : BitVec 6) (t : BitVec 3) (k : BitVec 1)
  | vor (d a b : BitVec 6) (t : BitVec 3) (k : BitVec 1)
  | vxor (d a b : BitVec 6) (t : BitVec 3) (k : BitVec 1)
  | vandn (d a b : BitVec 6) (t : BitVec 3) (k : BitVec 1)
  | vsll (d a b : BitVec 6) (t : BitVec 3) (k : BitVec 1)
  | vsrl (d a b : BitVec 6) (t : BitVec 3) (k : BitVec 1)
  | vsra (d a b : BitVec 6) (t : BitVec 3) (k : BitVec 1)
  | vcmp (c : BitVec 3) (a b : BitVec 6) (t : BitVec 3) (k : BitVec 1)
  | vfadd (d a b : BitVec 6) (t : BitVec 3) (k : BitVec 1)
  | vfsub (d a b : BitVec 6) (t : BitVec 3) (k : BitVec 1)
  | vfmul (d a b : BitVec 6) (t : BitVec 3) (k : BitVec 1)
  | vfmin (d a b : BitVec 6) (t : BitVec 3) (k : BitVec 1)
  | vfmax (d a b : BitVec 6) (t : BitVec 3) (k : BitVec 1)
  | vfdiv (d a b : BitVec 6) (t : BitVec 3) (k : BitVec 1)
  | vfsqrt (d a : BitVec 6) (t : BitVec 3)
  | vfrsqrt (d a : BitVec 6) (t : BitVec 3)
  | vfexp2 (d a : BitVec 6) (t : BitVec 3)
  | vflog2 (d a : BitVec 6) (t : BitVec 3)
  | vfneg (d a : BitVec 6) (t : BitVec 3)
  | vfabs (d a : BitVec 6) (t : BitVec 3)
  | vfcmp (c : BitVec 3) (a b : BitVec 6) (t : BitVec 3) (k : BitVec 1)
  | vfma (d a b : BitVec 6) (t : BitVec 3) (k : BitVec 1)
  | vfnma (d a b : BitVec 6) (t : BitVec 3) (k : BitVec 1)
  | vfmsub (d a b : BitVec 6) (t : BitVec 3) (k : BitVec 1)
  | vfmaw (d a b : BitVec 6) (t : BitVec 3) (k : BitVec 1)
  | vmac (d a b : BitVec 6) (t : BitVec 3) (k : BitVec 1)
  | vmacw (d a b : BitVec 6) (t : BitVec 3) (k : BitVec 1)
  | vcvt (d a : BitVec 6) (r : BitVec 3) (x : BitVec 1) (m : BitVec 2) (c e : BitVec 3) (l : BitVec 2)
  | vgf2mm (d a b : BitVec 6)
  | vpdep (d a b : BitVec 6)
  | vpext (d a b : BitVec 6)
  | vbperm (d a b : BitVec 6)
  | vpopc (d a : BitVec 6)
  | vperm (d a b : BitVec 6) (w : BitVec 3)
  | vbcast (d : BitVec 6) (b : BitVec 5) (w : BitVec 3)
  | vbcaste (d a : BitVec 6) (b : BitVec 5) (w : BitVec 3)
  | vslideup (d a : BitVec 6) (b : BitVec 5) (w : BitVec 3)
  | vslidedn (d a : BitVec 6) (b : BitVec 5) (w : BitVec 3)
  | vins (d : BitVec 6) (a b : BitVec 5) (w : BitVec 3)
  | vext (d : BitVec 5) (a : BitVec 6) (b : BitVec 5) (w : BitVec 3)
  | vilv (d a b : BitVec 6) (w : BitVec 3)
  | vdilv (d a b : BitVec 6) (w : BitVec 3)
  | vredsum (d : BitVec 5) (a : BitVec 6) (t : BitVec 3)
  | vredmin (d : BitVec 5) (a : BitVec 6) (t : BitVec 3)
  | vredmax (d : BitVec 5) (a : BitVec 6) (t : BitVec 3)
  | vredand (d : BitVec 5) (a : BitVec 6) (t : BitVec 3)
  | vredor (d : BitVec 5) (a : BitVec 6) (t : BitVec 3)
  | vredxor (d : BitVec 5) (a : BitVec 6) (t : BitVec 3)
  | vfredsum (d : BitVec 5) (a : BitVec 6) (t : BitVec 3)
  | vfredmin (d : BitVec 5) (a : BitVec 6) (t : BitVec 3)
  | vfredmax (d : BitVec 5) (a : BitVec 6) (t : BitVec 3)
  | vfredmaxa (d : BitVec 5) (a : BitVec 6) (t : BitVec 3)
  | qsinit (a b : BitVec 5)
  | hhinit (b : BitVec 5)
  | dcinit (a b : BitVec 5)
  | qsadd (a : BitVec 6) (b : BitVec 5) (t : BitVec 3)
  | hhadd (a : BitVec 6) (b : BitVec 5) (t : BitVec 3)
  | hhaddw (w a : BitVec 6) (b : BitVec 5)
  | dcadd (a : BitVec 6) (b : BitVec 5) (t : BitVec 3)
  | qsmrg (a b : BitVec 5)
  | hhmrg (a b : BitVec 5)
  | dcmrg (a b : BitVec 5)
  | qsquant (d a b : BitVec 5)
  | hhtop (d : BitVec 6) (a b : BitVec 5)
  | dcest (d b : BitVec 5)
  | summaryResultLanding
  | vld (d : BitVec 6) (a : BitVec 5) (c : BitVec 2) (i : BitVec 9)
  | vldB (d : BitVec 6) (a : BitVec 5) (c : BitVec 2) (z : BitVec 3) (i : BitVec 9)
  | vst (t : BitVec 6) (a : BitVec 5) (c : BitVec 2) (i : BitVec 9)
  | vldg (d : BitVec 6) (a : BitVec 5) (c : BitVec 2) (i : BitVec 9)
  | vldgB (d : BitVec 6) (a : BitVec 5) (c : BitVec 2) (z : BitVec 3) (i : BitVec 9)
  | vstg (t : BitVec 6) (a : BitVec 5) (i : BitVec 9)
  | vgath (d : BitVec 6) (a : BitVec 5) (c : BitVec 2) (z : BitVec 3) (v : BitVec 6)
  | vscat (t : BitVec 6) (a : BitVec 5) (c : BitVec 2) (z : BitVec 3) (v : BitVec 6)
  | vgathg (d : BitVec 6) (a : BitVec 5) (c : BitVec 2) (z : BitVec 3) (v : BitVec 6)
  | vscatg (t : BitVec 6) (a : BitVec 5) (z : BitVec 3) (v : BitVec 6)
  | resultLanding
  | storeEffect
  | globalLoadReply (k : Nat)
  | translationReply
  | invalidation (fn : BitVec 5) (va : BitVec 64) (psz : BitVec 2)
  | invalidationComplete (fn : BitVec 5) (va : BitVec 64) (psz : BitVec 2)
  | mxcall (a b : BitVec 5) (n : BitVec 8)
  | mxparm (a : BitVec 5) (n : BitVec 3)
  | mxrcfg (a b : BitVec 5) (r : BitVec 4)
  | mxrpush (a : BitVec 5) (r : BitVec 4)
  | mxrstat (d : BitVec 5) (r : BitVec 4)
  | mxrda (a : BitVec 5) (q : BitVec 2) (d : BitVec 6)
  | mxwra (a : BitVec 5) (q : BitVec 2) (v : BitVec 6)
  | mxdset (m : BitVec 8)
  | mxdclr (m : BitVec 8)
  | mxdrd (d : BitVec 5)
  | mxuld (a b : BitVec 5)
  | routineStart
  | mend
  | mpass (ra rb : BitVec 4) (xc xp xq : BitVec 3) (fmt : BitVec 4) (ck za : BitVec 1)
  | mscale (ra rb : BitVec 4) (xc xp xq : BitVec 3) (fmt : BitVec 4) (za : BitVec 1)
  | mzero (xc : BitVec 3)
  | mout (xc xq : BitVec 3) (fmt : BitVec 4) (sat : BitVec 1) (rm mpr : BitVec 3)
  | mckz (xc : BitVec 3)
  | mckout (xc xq mpr : BitVec 3)
  | mpopMicroOp (ra : BitVec 4)
  | macc (xc xp : BitVec 3)
  | midle (imm : BitVec 16)
  | mldi (xc : BitVec 3) (sel : BitVec 1) (mpr : BitVec 3) (mpf : BitVec 2) (imm : BitVec 16)
  | maddi (xc : BitVec 3) (imm : BitVec 16)
  | mloop (xc : BitVec 3)
  | mnext
  | ldgeom (a : BitVec 5) (n : BitVec 4)
  | stgeom (a : BitVec 5) (n : BitVec 4)
  | cpyin (a b : BitVec 5) (n o : BitVec 4)
  | cpyout (a b : BitVec 5) (n : BitVec 4)
  | cpyloop (a b : BitVec 5) (n : BitVec 4)
  | wtagAll (a : BitVec 5)
  | wtagAny (a : BitVec 5)
  | ffr (a d : BitVec 5)
  | tcnt (a d : BitVec 5)
  | localCopyBeat
  | taggedCopyCompletion (t : BitVec 6)
  | loopingIterationLanding (t : BitVec 6)
  | coll (a b : BitVec 5) (t : BitVec 6)
  | crank (d b : BitVec 5)
  | crankg (d b : BitVec 5)
  | cplan (d : BitVec 5)
  | walkerChunkRead (t : BitVec 6)
  | chunkArrival (c : ChunkSrc)
  | collectiveCompletion (t : BitVec 6)
  | send (a x : BitVec 5)
  | sendv (a : BitVec 5) (v : BitVec 6)
  | recv (h : BitVec 4) (b d : BitVec 5)
  | recvv (h : BitVec 4) (b : BitVec 5) (d : BitVec 6)
  | arrive (c : BitVec 3)
  | wait (c : BitVec 3)
  | nstv (a : BitVec 5) (m : BitVec 2) (v : BitVec 6)
  | messageArrival (ch : BitVec 4) (k : Nat)
  | barrierGenerationComplete (scope : BitVec 3) (key : Nat)
  | pcfg (a b : BitVec 5)
  | probe (d b : BitVec 5) (p : BitVec 4)
  | plook (d b : BitVec 5) (p : BitVec 4)
  | pinv (b : BitVec 5)
  | pinva
  | probeFillLanding (slot : Nat)
  | haulset (a b c : BitVec 5)
  | haulend
  | blaze (a : BitVec 5)
  | migrate (a b : BitVec 5) (t : BitVec 6)
  | haulstat (d : BitVec 5)
  | haulActionCompletion (idx : Nat)
  | migrationInvalidated (t : BitVec 6)
  | migrationCopyDone (t : BitVec 6)
  | migrationComplete (t : BitVec 6)
  | tagset (a b : BitVec 5)
  | tagsetz (a b : BitVec 5)
  | tagget (a d : BitVec 5)
  | dtrace (a : BitVec 5)
  | lpcrd (a d : BitVec 5)
  | dinjA (a b : BitVec 5)
  | dinjM (a b : BitVec 5) (m : BitVec 2)
  | dinjgM (a b : BitVec 5) (m : BitVec 2)
  | dbrk
  | traceSample
  | preciseStop (code : BitVec 8) (sub : BitVec 16)
  | streamCompletion
  | phaseCommit (launch : LaunchId) (phase : BitVec 16)
  | queueNop (q : BitVec 6)
  | launch (q : BitVec 6) (phase : BitVec 16) (desc lid argp : BitVec 64)
  | phaseEnd (q : BitVec 6) (last : BitVec 1)
  | condSkip (q : BitVec 6) (cond : BitVec 3) (n : BitVec 32) (word val mask : BitVec 64)
  | jump (q : BitVec 6) (off : BitVec 64)
  | queueCall (q : BitVec 6) (sub : BitVec 64)
  | queueReturn (q : BitVec 6)
  | waitValue (q : BitVec 6) (cond : BitVec 3) (word val mask : BitVec 64)
  | waitValueReread (q : BitVec 6)
  | writeValue (q : BitVec 6) (commit notify : BitVec 1) (tag : BitVec 32) (word val : BitVec 64)
  | checkpoint (q : BitVec 6) (point : BitVec 32) (list : BitVec 64)
  | checkpointCopiesDone (q : BitVec 6) (failed : BitVec 1)
  | digest (q : BitVec 6) (list result : BitVec 64)
  | tail (block : BlockAt) (v : BitVec 64)
  | rst (block : BlockAt)
  | registerWrite (reg : HostReg) (v : BitVec 64)
  | write (die : BitVec 2) (slot : BitVec 6) (rcd : BitVec 1024) (plan : List (BitVec 192))
  | arm (die : BitVec 2) (slot : BitVec 6) (rcd : BitVec 1024) (plan : List (BitVec 192))
  | disarm (die : BitVec 2) (slot : BitVec 6)
  | stop (die : BitVec 2) (slot : BitVec 6)
  | resume (die : BitVec 2) (slot : BitVec 6) (corner : Option (BitVec 6))
  | release (die : BitVec 2) (slot : BitVec 6)
  | placement (die : BitVec 2) (slot : BitVec 6)
  | agingLevel (die : BitVec 2) (slot : BitVec 6)
  | saveDone (die : BitVec 2) (slot : BitVec 6)
  | discardDone (die : BitVec 2) (slot : BitVec 6)
  | answer (fn : BitVec 5) (tag v : BitVec 64)
  | recover (fn : BitVec 5) (point : BitVec 64)
  | mailboxStop (fn : BitVec 5) (slotId : BitVec 64)
  | mailboxResume (fn : BitVec 5) (slotId corner : BitVec 64)
  | mailboxRelease (fn : BitVec 5) (slotId : BitVec 64)
  | planload (fn : BitVec 5) (slot addr : BitVec 64)
  | planact (fn : BitVec 5) (slot : BitVec 64)
  | debug (fn : BitVec 5) (word target : BitVec 64)
  | peerwin (fn : BitVec 5) (base bytes who : BitVec 64)
  | puppeteerNotification (fn : BitVec 5) (type : BitVec 8) (arg tag : BitVec 32) (addr v : BitVec 64) (payload : NotePayload)
  | stackCriticalTemperature (stack : BitVec 4)
  | stackSelfRefreshExit (stack : BitVec 4)
  | laneRatioSwitch (stack : BitVec 4) (code : BitVec 3)
  | correctedError (die : BitVec 2)
  | uncorrectableError (site : ErrSite)
  | slotBoundary
  | linkRetry (port : BitVec 5)
  | frameEnd
  | pauseEnd
  | pauseLimit (port : BitVec 5)
  | peerRequest (who : BitVec 10) (fn : BitVec 5) (req : PeerReq)
  | peerErrorResponse (store : BitVec 1) (port : BitVec 5)
  | bar2Access (fn : BitVec 5) (ide : BitVec 1) (req : PeerReq)
  | keySlotFill (fn : BitVec 5) (slot : BitVec 6) (pages : List (BitVec 64))
  | tdiLeavesRun (fn : BitVec 5) (err : BitVec 1)
  | spdmRequest (fn : BitVec 5) (offered : BitVec 1) (block : BitVec 8)
  | conventionalReset
  | functionLevelReset (fn : BitVec 5)
  | clockStep (up : BitVec 1)
  | thermalTrip
  | powerCapSet (watts : BitVec 16)
  | flashUpdate (image : BitVec 1) (svn : BitVec 16) (hash : BitVec 512)
  | digestComplete (q : BitVec 6)
  | recoveryCopiesDone (fn : BitVec 5)
  | puppeteerServiceAnswer (tag v : BitVec 64)
  | tdispRequest (fn : BitVec 5) (req : BitVec 2)
  deriving DecidableEq, Repr

/-- One syllable of a bundle: S and the instruction, or the major of a word that no form has (03 R86, R93). -/
structure Syllable where
  stop : Bool
  major : BitVec 5
  op : Option Instr
  deriving DecidableEq, Repr

end Sys2Proof
end

