-- ==== Sys2Proof/Machine/Legal.lean ====
section
/-! DEFINITION. Which syllables, micro-ops and command entries are legal once their fixed fields have been
decoded: the reserved codes and forbidden registers of 03 R93 that a field can hold. An illegal syllable raises
fault 0x01, sub-code 0 (04 R115); an illegal micro-op fault 0x0E, sub-code 0x50 (13 R345); an illegal entry queue
fault 1 (09 R240). -/
namespace Sys2Proof.Machine

/-- Width in bits of an integer element type (03 Table 4). -/
def intWidth (t : BitVec 3) : Nat := if t.toNat < 2 then 8 else if t.toNat < 4 then 16 else if t.toNat < 6 then 32 else 4

/-- An even integer type code is signed (03 Table 4). -/
def intSigned (t : BitVec 3) : Bool := t.toNat % 2 = 0

/-- Width in bits of a floating element type, codes 0 to 5 (03 Table 4). -/
def fpWidth (t : BitVec 3) : Nat :=
  match t.toNat with | 0 => 32 | 1 => 16 | 2 => 16 | 3 => 8 | 4 => 8 | _ => 64

/-- Width in bits of a width code of major 17 (05 R162). -/
def permWidth (w : BitVec 3) : Nat :=
  match w.toNat with | 0 => 8 | 1 => 16 | 2 => 32 | 3 => 64 | _ => 4

/-- The CSR numbers of 04 Table 13. -/
def csrListed (c : BitVec 8) : Bool := decide (c.toNat < 0x0C) || decide (0x10 ≤ c.toNat ∧ c.toNat ≤ 0x18)

/-- A scalar-b form names xb in [12:8] and has bit 13 clear (05 R146). -/
def vbLegal (b : BitVec 6) (k : BitVec 1) : Bool := k == 0 || decide (b.toNat < 32)

/-- The floating types of majors 13 and 14 (05 R152). -/
def vfpType (t : BitVec 3) : Bool := decide (t.toNat < 3) || t == 5

def rmLegal (r : BitVec 3) : Bool := decide (r.toNat < 6)
def scopeLegal (c : BitVec 3) : Bool := decide (c.toNat < 6)
/-- ARRIVE and WAIT: no LANE (08 R233). -/
def barScopeLegal (c : BitVec 3) : Bool := decide (0 < c.toNat ∧ c.toNat < 6)
def group (v : BitVec 6) (r : Nat) : Bool := v.toNat % r == 0

/-- Widths of the source and destination sides of a conversion (05 Table 4). -/
def cvtWidths (l : BitVec 2) (s d : BitVec 3) : Nat × Nat :=
  match l.toNat with
  | 0 => (fpWidth s, fpWidth d)
  | 1 => (fpWidth s, intWidth d)
  | 2 => (intWidth s, fpWidth d)
  | _ => (intWidth s, intWidth d)

/-- A conversion that is exact by definition: a floating widening, or a widening of integers (05 R159). -/
def cvtExact (l : BitVec 2) (s d : BitVec 3) : Bool :=
  (l == 0 || l == 3) && s != 6 && d != 6 && decide ((cvtWidths l s d).1 < (cvtWidths l s d).2)
    || l == 3 && decide ((cvtWidths l s d).1 < (cvtWidths l s d).2)

/-- 05 R156, R157, R159, R160. (DEDUCED, unsafe: notes/assumptions/13.md.) -/
def cvtLegal (vd va : BitVec 6) (rm : BitVec 3) (mxw : BitVec 2) (s d : BitVec 3) (l : BitVec 2) : Bool :=
  rmLegal rm &&
  if l == 0 && (s == 6 || d == 6) then
    mxw != 3 && (s == 6 && d == 0 || d == 6 && s == 0)
  else
    let ws := (cvtWidths l s d).1
    let wd := (cvtWidths l s d).2
    (mxw == 0 || s == 6 || d == 6) &&
    (match l.toNat with
      | 0 => decide (s.toNat < 6) && decide (d.toNat < 6) && s != d
      | 1 => decide (s.toNat < 6)
      | 2 => decide (d.toNat < 6)
      | _ => s != d && (cvtExact l s d || rm == 5)) &&
    decide (max ws wd < 8 * min ws wd) &&
    (if ws < wd then group vd (wd / ws) else group va (ws / wd))

/-- A matrix format code of 13 Table 2. -/
def fmtLegal (f : BitVec 4) : Bool := decide (f.toNat < 9)
def fmtIsMx (f : BitVec 4) : Bool := decide (4 ≤ f.toNat ∧ f.toNat ≤ 6)

/-- Legality of an instruction whose fixed fields are as its row has them. -/
def legal : Instr → Bool
  | .csrr _ c => csrListed c
  | .csrw _ c => csrListed c
  | .csrs _ c => csrListed c
  | .csrc _ c => csrListed c
  | .fadd _ _ _ r _ => rmLegal r
  | .fsub _ _ _ r _ => rmLegal r
  | .fmul _ _ _ r _ => rmLegal r
  | .fma _ _ _ r _ => rmLegal r
  | .fdiv _ _ _ r _ => rmLegal r
  | .fsqrt _ _ r _ => rmLegal r
  | .fcvt _ _ c r t => rmLegal r && c != t
  | .fcvti _ _ _ r _ => rmLegal r
  | .fcvtn _ _ _ r _ => rmLegal r
  | .icvtf _ _ _ r _ => rmLegal r
  | .ncvtf _ _ _ r _ => rmLegal r
  | .mskip n => n != 0
  | .ld _ _ _ z _ => z != 7
  | .ldg _ _ _ z _ => z != 7
  | .st _ _ _ z _ => z.toNat % 2 == 0
  | .stg _ _ z _ => z.toNat % 2 == 0
  | .amswap _ _ _ _ _ c _ => scopeLegal c
  | .amcas _ _ _ _ _ c _ => scopeLegal c
  | .amadd _ _ _ _ _ c _ => scopeLegal c
  | .amand _ _ _ _ _ c _ => scopeLegal c
  | .amor _ _ _ _ _ c _ => scopeLegal c
  | .amxor _ _ _ _ _ c _ => scopeLegal c
  | .ammin _ _ _ _ _ c _ => scopeLegal c
  | .ammax _ _ _ _ _ c _ => scopeLegal c
  | .amminu _ _ _ _ _ c _ => scopeLegal c
  | .ammaxu _ _ _ _ _ c _ => scopeLegal c
  | .waddF64 _ _ _ c _ => scopeLegal c
  | .waddF32 _ _ _ c _ => scopeLegal c
  | .waddF16 _ _ _ c _ => scopeLegal c
  | .waddBf16 _ _ _ c _ => scopeLegal c
  | .waddI64 _ _ _ c _ => scopeLegal c
  | .wrd _ _ _ _ c _ => scopeLegal c
  | .fence c => scopeLegal c
  | .arrb _ _ _ c => scopeLegal c
  | .waitph _ _ _ c => scopeLegal c
  | .vadd _ _ b _ k => vbLegal b k
  | .vsub _ _ b _ k => vbLegal b k
  | .vadds _ _ b _ k => vbLegal b k
  | .vsubs _ _ b _ k => vbLegal b k
  | .vmin _ _ b _ k => vbLegal b k
  | .vmax _ _ b _ k => vbLegal b k
  | .vmul _ _ b _ k => vbLegal b k
  | .vmulh _ _ b _ k => vbLegal b k
  | .vand _ _ b _ k => vbLegal b k
  | .vor _ _ b _ k => vbLegal b k
  | .vxor _ _ b _ k => vbLegal b k
  | .vandn _ _ b _ k => vbLegal b k
  | .vsll _ _ b _ k => vbLegal b k
  | .vsrl _ _ b _ k => vbLegal b k
  | .vsra _ _ b _ k => vbLegal b k
  | .vcmp c _ b _ k => vbLegal b k && decide (c.toNat < 6)
  | .vfadd _ _ b t k => vbLegal b k && vfpType t
  | .vfsub _ _ b t k => vbLegal b k && vfpType t
  | .vfmul _ _ b t k => vbLegal b k && vfpType t
  | .vfmin _ _ b t k => vbLegal b k && vfpType t
  | .vfmax _ _ b t k => vbLegal b k && vfpType t
  | .vfdiv _ _ b t k => vbLegal b k && vfpType t
  | .vfsqrt _ _ t => vfpType t
  | .vfrsqrt _ _ t => vfpType t
  | .vfexp2 _ _ t => vfpType t
  | .vflog2 _ _ t => vfpType t
  | .vfneg _ _ t => vfpType t
  | .vfabs _ _ t => vfpType t
  | .vfcmp c _ b t k => vbLegal b k && vfpType t && c != 7
  | .vfma _ _ b t k => vbLegal b k && vfpType t
  | .vfnma _ _ b t k => vbLegal b k && vfpType t
  | .vfmsub _ _ b t k => vbLegal b k && vfpType t
  | .vfmaw d _ b t k => vbLegal b k && decide (t.toNat < 3) && group d 2
  | .vmac _ _ b _ k => vbLegal b k
  | .vmacw d _ b t k => vbLegal b k && (decide (t.toNat < 2) || decide (5 < t.toNat)) && group d 4
  | .vcvt d a r _ m c e l => cvtLegal d a r m c e l
  | .vperm _ _ b w => decide (w.toNat < 4) && (w != 0 || group b 2)
  | .vbcast _ _ w => decide (w.toNat < 5)
  | .vbcaste _ _ _ w => decide (w.toNat < 5)
  | .vslideup _ _ _ w => decide (w.toNat < 5)
  | .vslidedn _ _ _ w => decide (w.toNat < 5)
  | .vins _ _ _ w => decide (w.toNat < 5)
  | .vext _ _ _ w => decide (w.toNat < 5)
  | .vilv d _ _ w => decide (w.toNat < 5) && group d 2
  | .vdilv d _ _ w => decide (w.toNat < 5) && group d 2
  | .vfredsum _ _ t => decide (t.toNat < 6)
  | .vfredmin _ _ t => decide (t.toNat < 6)
  | .vfredmax _ _ t => decide (t.toNat < 6)
  | .vfredmaxa _ _ t => decide (t.toNat < 6)
  | .qsadd _ _ t => decide (t.toNat < 3)
  | .hhadd _ _ t => t == 3 || t == 5
  | .dcadd _ _ t => t == 3 || t == 5
  | .vldB _ _ _ z _ => decide (1 ≤ z.toNat ∧ z.toNat ≤ 4)
  | .vldgB _ _ _ z _ => decide (1 ≤ z.toNat ∧ z.toNat ≤ 4)
  | .vgath _ _ _ z _ => decide (z.toNat < 3)
  | .vgathg _ _ _ z _ => decide (z.toNat < 3)
  | .vscat _ _ _ z _ => decide (3 ≤ z.toNat ∧ z.toNat ≤ 5)
  | .vscatg _ _ z _ => decide (3 ≤ z.toNat ∧ z.toNat ≤ 5)
  | .cpyin _ _ _ o => decide (o.toNat < 12)
  | .arrive c => barScopeLegal c
  | .wait c => barScopeLegal c
  | .dinjM _ _ m => decide (m.toNat < 2)
  | .dinjgM _ _ m => decide (m.toNat < 2)
  | .mpass _ _ _ _ _ f ck za => fmtLegal f && (!fmtIsMx f || ck == 0 && za == 0)
  | .mscale _ _ _ _ _ f _ => fmtIsMx f
  | .mout _ _ f _ rm _ => decide (f.toNat < 6) && rmLegal rm
  | .midle imm => imm != 0
  | .condSkip _ c _ _ _ _ => decide (c.toNat < 6)
  | .waitValue _ c _ _ _ => decide (c.toNat < 6)
  | _ => true

end Sys2Proof.Machine
end

