-- ==== Sys2Proof/Decode.lean ====
section
/-! DEFINITION. Reading instructions from their words, and writing them.

`decodeOp` reads a syllable's bits [30:0] by 03 R86 to R91 and the encoding table of its family; a word that no
form has, or that breaks a "must be 0" field, is refused, and the bundle that holds it raises fault 0x01
(03 R93). `decodeMicro` reads a word of the microprogram store (13 Table 5) and `decodeEntry` a command entry
(09 Table 2). The other rows of the opcode table are events and have no encoding.

The decoders are marked noncomputable because Lean's runtime has no tags for more than 245 constructors with
fields, and `Instr` has one constructor per row; every one has a body, which Lean's kernel evaluates. -/
namespace Sys2Proof

/-- The field of `n` bits of `w` from bit `lo`, as a number. -/
def fld (w lo n : Nat) : Nat := w / 2 ^ lo % 2 ^ n

/-- The field of `n` bits of `w` from bit `lo`, as bits. -/
def bf (w lo : Nat) (n : Nat) : BitVec n := BitVec.ofNat n (w / 2 ^ lo)

/-- Major 0. -/
def decodeMajor0 (w : Nat) : Option Instr :=
  if fld w 0 26 = 0 then some .nop
  else if fld w 0 26 = 1 then some .endTask
  else if fld w 0 16 = 2 then some (.svc (bf w 21 5) (bf w 16 5))
  else if fld w 0 11 = 3 ∧ fld w 21 5 = 0 then some (.trap (bf w 11 10))
  else if fld w 8 13 = 1 then some (.csrr (bf w 21 5) (bf w 0 8))
  else if fld w 8 8 = 2 ∧ fld w 21 5 = 0 then some (.csrw (bf w 16 5) (bf w 0 8))
  else if fld w 8 8 = 3 ∧ fld w 21 5 = 0 then some (.csrs (bf w 16 5) (bf w 0 8))
  else if fld w 8 8 = 4 ∧ fld w 21 5 = 0 then some (.csrc (bf w 16 5) (bf w 0 8))
  else if fld w 0 26 = 4 then some .yield
  else if fld w 0 26 = 5 then some .drain
  else if fld w 0 16 = 6 then some (.clogrd (bf w 21 5) (bf w 16 5))
  else if fld w 0 16 = 7 ∧ fld w 21 5 = 0 then some (.rjmark (bf w 16 5))
  else if fld w 0 21 = 8 then some (.rescnt (bf w 21 5))
  else none

/-- Major 1. -/
def decodeMajor1 (w : Nat) : Option Instr :=
  if fld w 0 11 = 0 then some (.add (bf w 21 5) (bf w 16 5) (bf w 11 5))
  else if fld w 0 11 = 16 then some (.sub (bf w 21 5) (bf w 16 5) (bf w 11 5))
  else if fld w 0 11 = 32 then some (.and (bf w 21 5) (bf w 16 5) (bf w 11 5))
  else if fld w 0 11 = 48 then some (.or (bf w 21 5) (bf w 16 5) (bf w 11 5))
  else if fld w 0 11 = 64 then some (.xor (bf w 21 5) (bf w 16 5) (bf w 11 5))
  else if fld w 0 11 = 80 then some (.andn (bf w 21 5) (bf w 16 5) (bf w 11 5))
  else if fld w 0 11 = 96 then some (.sll (bf w 21 5) (bf w 16 5) (bf w 11 5))
  else if fld w 0 11 = 112 then some (.srl (bf w 21 5) (bf w 16 5) (bf w 11 5))
  else if fld w 0 11 = 128 then some (.sra (bf w 21 5) (bf w 16 5) (bf w 11 5))
  else if fld w 0 11 = 144 then some (.min (bf w 21 5) (bf w 16 5) (bf w 11 5))
  else if fld w 0 11 = 160 then some (.max (bf w 21 5) (bf w 16 5) (bf w 11 5))
  else if fld w 0 11 = 176 then some (.minu (bf w 21 5) (bf w 16 5) (bf w 11 5))
  else if fld w 0 11 = 192 then some (.maxu (bf w 21 5) (bf w 16 5) (bf w 11 5))
  else if fld w 0 11 = 208 then some (.adds (bf w 21 5) (bf w 16 5) (bf w 11 5))
  else if fld w 0 11 = 224 then some (.subs (bf w 21 5) (bf w 16 5) (bf w 11 5))
  else if fld w 4 7 = 15 then some (.sel (bf w 21 5) (bf w 16 5) (bf w 11 5) (bf w 0 4))
  else if fld w 0 11 = 256 ∧ fld w 25 1 = 0 then some (.cmpeq (bf w 21 4) (bf w 16 5) (bf w 11 5))
  else if fld w 0 11 = 272 ∧ fld w 25 1 = 0 then some (.cmpne (bf w 21 4) (bf w 16 5) (bf w 11 5))
  else if fld w 0 11 = 288 ∧ fld w 25 1 = 0 then some (.cmplt (bf w 21 4) (bf w 16 5) (bf w 11 5))
  else if fld w 0 11 = 304 ∧ fld w 25 1 = 0 then some (.cmpltu (bf w 21 4) (bf w 16 5) (bf w 11 5))
  else if fld w 0 11 = 320 ∧ fld w 25 1 = 0 then some (.cmple (bf w 21 4) (bf w 16 5) (bf w 11 5))
  else if fld w 0 11 = 336 ∧ fld w 25 1 = 0 then some (.cmpleu (bf w 21 4) (bf w 16 5) (bf w 11 5))
  else none

/-- Major 2. -/
def decodeMajor2 (w : Nat) : Option Instr :=
  if fld w 12 4 = 0 then some (.addi (bf w 21 5) (bf w 16 5) (bf w 0 12))
  else if fld w 12 4 = 1 then some (.andi (bf w 21 5) (bf w 16 5) (bf w 0 12))
  else if fld w 12 4 = 2 then some (.ori (bf w 21 5) (bf w 16 5) (bf w 0 12))
  else if fld w 12 4 = 3 then some (.xori (bf w 21 5) (bf w 16 5) (bf w 0 12))
  else if fld w 6 10 = 256 then some (.slli (bf w 21 5) (bf w 16 5) (bf w 0 6))
  else if fld w 6 10 = 320 then some (.srli (bf w 21 5) (bf w 16 5) (bf w 0 6))
  else if fld w 6 10 = 384 then some (.srai (bf w 21 5) (bf w 16 5) (bf w 0 6))
  else if fld w 12 4 = 7 then some (.shlor (bf w 21 5) (bf w 16 5) (bf w 0 12))
  else if fld w 12 9 = 8 then some (.movi (bf w 21 5) (bf w 0 12))
  else if fld w 12 4 = 9 ∧ fld w 25 1 = 0 then some (.cmpeqi (bf w 21 4) (bf w 16 5) (bf w 0 12))
  else if fld w 12 4 = 10 ∧ fld w 25 1 = 0 then some (.cmplti (bf w 21 4) (bf w 16 5) (bf w 0 12))
  else if fld w 12 4 = 11 ∧ fld w 25 1 = 0 then some (.cmpltui (bf w 21 4) (bf w 16 5) (bf w 0 12))
  else none

/-- Major 3. -/
def decodeMajor3 (w : Nat) : Option Instr :=
  if fld w 0 11 = 0 then some (.mul (bf w 21 5) (bf w 16 5) (bf w 11 5))
  else if fld w 0 11 = 16 then some (.mulh (bf w 21 5) (bf w 16 5) (bf w 11 5))
  else if fld w 0 11 = 32 then some (.mulhu (bf w 21 5) (bf w 16 5) (bf w 11 5))
  else if fld w 0 11 = 48 then some (.div (bf w 21 5) (bf w 16 5) (bf w 11 5))
  else if fld w 0 11 = 64 then some (.divu (bf w 21 5) (bf w 16 5) (bf w 11 5))
  else if fld w 0 11 = 80 then some (.rem (bf w 21 5) (bf w 16 5) (bf w 11 5))
  else if fld w 0 11 = 96 then some (.remu (bf w 21 5) (bf w 16 5) (bf w 11 5))
  else if fld w 0 16 = 128 then some (.clz (bf w 21 5) (bf w 16 5))
  else if fld w 0 16 = 144 then some (.ctz (bf w 21 5) (bf w 16 5))
  else if fld w 0 16 = 160 then some (.popc (bf w 21 5) (bf w 16 5))
  else if fld w 0 16 = 176 then some (.brev (bf w 21 5) (bf w 16 5))
  else if fld w 0 16 = 192 then some (.bswap (bf w 21 5) (bf w 16 5))
  else if fld w 0 11 = 208 then some (.rol (bf w 21 5) (bf w 16 5) (bf w 11 5))
  else if fld w 0 11 = 224 then some (.ror (bf w 21 5) (bf w 16 5) (bf w 11 5))
  else if fld w 0 11 = 240 then some (.extu (bf w 21 5) (bf w 16 5) (bf w 11 5))
  else if fld w 0 11 = 256 then some (.exts (bf w 21 5) (bf w 16 5) (bf w 11 5))
  else none

/-- Major 4. -/
def decodeMajor4 (w : Nat) : Option Instr :=
  if fld w 0 6 = 0 then some (.fadd (bf w 21 5) (bf w 16 5) (bf w 11 5) (bf w 8 3) (bf w 6 2))
  else if fld w 0 6 = 1 then some (.fsub (bf w 21 5) (bf w 16 5) (bf w 11 5) (bf w 8 3) (bf w 6 2))
  else if fld w 0 6 = 2 then some (.fmul (bf w 21 5) (bf w 16 5) (bf w 11 5) (bf w 8 3) (bf w 6 2))
  else if fld w 0 6 = 3 then some (.fma (bf w 21 5) (bf w 16 5) (bf w 11 5) (bf w 8 3) (bf w 6 2))
  else if fld w 0 6 = 4 ∧ fld w 8 3 = 5 then some (.fmin (bf w 21 5) (bf w 16 5) (bf w 11 5) (bf w 6 2))
  else if fld w 0 6 = 5 ∧ fld w 8 3 = 5 then some (.fmax (bf w 21 5) (bf w 16 5) (bf w 11 5) (bf w 6 2))
  else if fld w 0 6 = 6 then some (.fdiv (bf w 21 5) (bf w 16 5) (bf w 11 5) (bf w 8 3) (bf w 6 2))
  else if fld w 0 6 = 7 ∧ fld w 11 5 = 0 then some (.fsqrt (bf w 21 5) (bf w 16 5) (bf w 8 3) (bf w 6 2))
  else if fld w 0 6 = 8 ∧ fld w 13 3 = 0 then some (.fcvt (bf w 21 5) (bf w 16 5) (bf w 11 2) (bf w 8 3) (bf w 6 2))
  else if fld w 0 6 = 9 then some (.fcvti (bf w 21 5) (bf w 16 5) (bf w 11 5) (bf w 8 3) (bf w 6 2))
  else if fld w 0 6 = 10 then some (.fcvtn (bf w 21 5) (bf w 16 5) (bf w 11 5) (bf w 8 3) (bf w 6 2))
  else if fld w 0 6 = 11 then some (.icvtf (bf w 21 5) (bf w 16 5) (bf w 11 5) (bf w 8 3) (bf w 6 2))
  else if fld w 0 6 = 12 then some (.ncvtf (bf w 21 5) (bf w 16 5) (bf w 11 5) (bf w 8 3) (bf w 6 2))
  else if fld w 0 6 = 13 ∧ fld w 8 3 = 5 ∧ fld w 25 1 = 0 then some (.fcmpeq (bf w 21 4) (bf w 16 5) (bf w 11 5) (bf w 6 2))
  else if fld w 0 6 = 14 ∧ fld w 8 3 = 5 ∧ fld w 25 1 = 0 then some (.fcmplt (bf w 21 4) (bf w 16 5) (bf w 11 5) (bf w 6 2))
  else if fld w 0 6 = 15 ∧ fld w 8 3 = 5 ∧ fld w 25 1 = 0 then some (.fcmple (bf w 21 4) (bf w 16 5) (bf w 11 5) (bf w 6 2))
  else if fld w 0 6 = 16 ∧ fld w 8 8 = 5 then some (.fneg (bf w 21 5) (bf w 16 5) (bf w 6 2))
  else if fld w 0 6 = 17 ∧ fld w 8 8 = 5 then some (.fabs (bf w 21 5) (bf w 16 5) (bf w 6 2))
  else none

/-- Major 5. -/
def decodeMajor5 (w : Nat) : Option Instr :=
  if fld w 13 3 = 0 then some (.beq (bf w 21 5) (bf w 16 5) (bf w 0 13))
  else if fld w 13 3 = 1 then some (.bne (bf w 21 5) (bf w 16 5) (bf w 0 13))
  else if fld w 13 3 = 2 then some (.blt (bf w 21 5) (bf w 16 5) (bf w 0 13))
  else if fld w 13 3 = 3 then some (.bge (bf w 21 5) (bf w 16 5) (bf w 0 13))
  else if fld w 13 3 = 4 then some (.bltu (bf w 21 5) (bf w 16 5) (bf w 0 13))
  else if fld w 13 3 = 5 then some (.bgeu (bf w 21 5) (bf w 16 5) (bf w 0 13))
  else if fld w 13 8 = 6 ∧ fld w 25 1 = 0 then some (.bp (bf w 21 4) (bf w 0 13))
  else if fld w 13 8 = 7 ∧ fld w 25 1 = 0 then some (.bnp (bf w 21 4) (bf w 0 13))
  else none

/-- Major 6. -/
def decodeMajor6 (w : Nat) : Option Instr :=
  if fld w 16 10 = 0 then some (.j (bf w 0 16))
  else if fld w 16 10 = 4 then some (.call (bf w 0 16))
  else if fld w 16 5 = 8 then some (.jr (bf w 21 5) (bf w 0 16))
  else if fld w 16 5 = 12 then some (.callr (bf w 21 5) (bf w 0 16))
  else if fld w 16 5 = 16 then some (.loop (bf w 21 5) (bf w 0 16))
  else if fld w 18 3 = 5 then some (.loopRot (bf w 21 5) (bf w 16 2) (bf w 0 16))
  else if fld w 18 3 = 6 then some (.loopRot58 (bf w 21 5) (bf w 16 2) (bf w 0 16))
  else none

/-- Major 7. (DEDUCED, unsafe: notes/assumptions/64.md.) -/
def decodeMajor7 (w : Nat) : Option Instr :=
  if fld w 0 26 = 0 then some .mpushAll
  else if fld w 0 26 = 1 then some .mdup
  else if fld w 0 26 = 2 then some .mpop
  else if fld w 0 26 = 3 then some .mand
  else if fld w 0 26 = 4 then some .mor
  else if fld w 0 26 = 5 then some .mxor
  else if fld w 0 26 = 6 then some .mandn
  else if fld w 0 26 = 7 then some .mnot
  else if fld w 0 26 = 8 then some .melse
  else if fld w 0 16 = 9 ∧ fld w 20 6 = 0 then some (.mpushP (bf w 16 4))
  else if fld w 0 21 = 10 then some (.mcnt (bf w 21 5))
  else if fld w 0 21 = 11 ∧ fld w 25 1 = 0 then some (.many (bf w 21 4))
  else if fld w 0 2 = 0 ∧ fld w 3 8 = 32 ∧ fld w 15 1 = 0 ∧ fld w 20 1 = 0 ∧ fld w 25 1 = 0 then some (.pand (bf w 21 4) (bf w 16 4) (bf w 11 4) (bf w 2 1))
  else if fld w 0 2 = 1 ∧ fld w 3 8 = 32 ∧ fld w 15 1 = 0 ∧ fld w 20 1 = 0 ∧ fld w 25 1 = 0 then some (.por (bf w 21 4) (bf w 16 4) (bf w 11 4) (bf w 2 1))
  else if fld w 0 2 = 2 ∧ fld w 3 8 = 32 ∧ fld w 15 1 = 0 ∧ fld w 20 1 = 0 ∧ fld w 25 1 = 0 then some (.pxor (bf w 21 4) (bf w 16 4) (bf w 11 4) (bf w 2 1))
  else if fld w 0 2 = 3 ∧ fld w 3 8 = 32 ∧ fld w 15 1 = 0 ∧ fld w 20 1 = 0 ∧ fld w 25 1 = 0 then some (.pandn (bf w 21 4) (bf w 16 4) (bf w 11 4) (bf w 2 1))
  else if fld w 0 16 = 512 ∧ fld w 25 1 = 0 then some (.pnz (bf w 21 4) (bf w 16 5))
  else if fld w 0 21 = 768 then some (.prd (bf w 21 5))
  else if fld w 20 6 = 0 ∧ fld w 11 5 = 0 ∧ fld w 8 3 = 4 then some (.guard (bf w 16 4) (bf w 0 8))
  else if fld w 8 18 = 5 then some (.mskip (bf w 0 8))
  else none

/-- Major 8. -/
def decodeMajor8 (w : Nat) : Option Instr :=
  if fld w 14 1 = 0 ∧ fld w 25 1 = 0 then some (.ld (bf w 20 5) (bf w 15 5) (bf w 12 2) (bf w 9 3) (bf w 0 9))
  else if fld w 14 1 = 1 ∧ fld w 25 1 = 0 then some (.ldg (bf w 20 5) (bf w 15 5) (bf w 12 2) (bf w 9 3) (bf w 0 9))
  else none

/-- Major 9. -/
def decodeMajor9 (w : Nat) : Option Instr :=
  if fld w 14 1 = 0 ∧ fld w 25 1 = 0 then some (.st (bf w 20 5) (bf w 15 5) (bf w 12 2) (bf w 9 3) (bf w 0 9))
  else if fld w 12 3 = 4 ∧ fld w 25 1 = 0 then some (.stg (bf w 20 5) (bf w 15 5) (bf w 9 3) (bf w 0 9))
  else none

/-- Major 10. -/
def decodeMajor10 (w : Nat) : Option Instr :=
  if fld w 6 4 = 0 then some (.amswap (bf w 21 5) (bf w 16 5) (bf w 11 5) (bf w 10 1) (bf w 5 1) (bf w 2 3) (bf w 0 2))
  else if fld w 6 4 = 1 then some (.amcas (bf w 21 5) (bf w 16 5) (bf w 11 5) (bf w 10 1) (bf w 5 1) (bf w 2 3) (bf w 0 2))
  else if fld w 6 4 = 2 then some (.amadd (bf w 21 5) (bf w 16 5) (bf w 11 5) (bf w 10 1) (bf w 5 1) (bf w 2 3) (bf w 0 2))
  else if fld w 6 4 = 3 then some (.amand (bf w 21 5) (bf w 16 5) (bf w 11 5) (bf w 10 1) (bf w 5 1) (bf w 2 3) (bf w 0 2))
  else if fld w 6 4 = 4 then some (.amor (bf w 21 5) (bf w 16 5) (bf w 11 5) (bf w 10 1) (bf w 5 1) (bf w 2 3) (bf w 0 2))
  else if fld w 6 4 = 5 then some (.amxor (bf w 21 5) (bf w 16 5) (bf w 11 5) (bf w 10 1) (bf w 5 1) (bf w 2 3) (bf w 0 2))
  else if fld w 6 4 = 6 then some (.ammin (bf w 21 5) (bf w 16 5) (bf w 11 5) (bf w 10 1) (bf w 5 1) (bf w 2 3) (bf w 0 2))
  else if fld w 6 4 = 7 then some (.ammax (bf w 21 5) (bf w 16 5) (bf w 11 5) (bf w 10 1) (bf w 5 1) (bf w 2 3) (bf w 0 2))
  else if fld w 6 4 = 8 then some (.amminu (bf w 21 5) (bf w 16 5) (bf w 11 5) (bf w 10 1) (bf w 5 1) (bf w 2 3) (bf w 0 2))
  else if fld w 6 4 = 9 then some (.ammaxu (bf w 21 5) (bf w 16 5) (bf w 11 5) (bf w 10 1) (bf w 5 1) (bf w 2 3) (bf w 0 2))
  else if fld w 5 5 = 20 ∧ fld w 21 5 = 0 then some (.waddF64 (bf w 16 5) (bf w 11 5) (bf w 10 1) (bf w 2 3) (bf w 0 2))
  else if fld w 5 5 = 22 ∧ fld w 21 5 = 0 then some (.waddF32 (bf w 16 5) (bf w 11 5) (bf w 10 1) (bf w 2 3) (bf w 0 2))
  else if fld w 5 5 = 24 ∧ fld w 21 5 = 0 then some (.waddF16 (bf w 16 5) (bf w 11 5) (bf w 10 1) (bf w 2 3) (bf w 0 2))
  else if fld w 5 5 = 26 ∧ fld w 21 5 = 0 then some (.waddBf16 (bf w 16 5) (bf w 11 5) (bf w 10 1) (bf w 2 3) (bf w 0 2))
  else if fld w 5 5 = 28 ∧ fld w 21 5 = 0 then some (.waddI64 (bf w 16 5) (bf w 11 5) (bf w 10 1) (bf w 2 3) (bf w 0 2))
  else if fld w 6 4 = 15 ∧ fld w 11 5 = 0 then some (.wrd (bf w 21 5) (bf w 16 5) (bf w 10 1) (bf w 5 1) (bf w 2 3) (bf w 0 2))
  else none

/-- Major 11. -/
def decodeMajor11 (w : Nat) : Option Instr :=
  if fld w 0 2 = 0 ∧ fld w 5 21 = 0 then some (.fence (bf w 2 3))
  else if fld w 0 5 = 0 ∧ fld w 6 5 = 1 ∧ fld w 21 5 = 0 then some (.bind (bf w 16 5) (bf w 11 5) (bf w 5 1))
  else if fld w 0 16 = 128 ∧ fld w 21 5 = 0 then some (.unbind (bf w 16 5))
  else if fld w 0 11 = 224 ∧ fld w 21 5 = 0 then some (.sealRange (bf w 16 5) (bf w 11 5))
  else if fld w 0 11 = 288 ∧ fld w 21 5 = 0 then some (.unsealRange (bf w 16 5) (bf w 11 5))
  else if fld w 0 5 = 0 ∧ fld w 6 5 = 5 then some (.binit (bf w 21 5) (bf w 16 5) (bf w 11 5) (bf w 5 1))
  else if fld w 0 2 = 0 ∧ fld w 6 10 = 6 then some (.arrb (bf w 21 5) (bf w 16 5) (bf w 5 1) (bf w 2 3))
  else if fld w 0 2 = 0 ∧ fld w 6 5 = 7 ∧ fld w 21 5 = 0 then some (.waitph (bf w 16 5) (bf w 11 5) (bf w 5 1) (bf w 2 3))
  else none

/-- Major 12. -/
def decodeMajor12 (w : Nat) : Option Instr :=
  if fld w 0 4 = 0 then some (.vadd (bf w 20 6) (bf w 14 6) (bf w 8 6) (bf w 5 3) (bf w 4 1))
  else if fld w 0 4 = 1 then some (.vsub (bf w 20 6) (bf w 14 6) (bf w 8 6) (bf w 5 3) (bf w 4 1))
  else if fld w 0 4 = 2 then some (.vadds (bf w 20 6) (bf w 14 6) (bf w 8 6) (bf w 5 3) (bf w 4 1))
  else if fld w 0 4 = 3 then some (.vsubs (bf w 20 6) (bf w 14 6) (bf w 8 6) (bf w 5 3) (bf w 4 1))
  else if fld w 0 4 = 4 then some (.vmin (bf w 20 6) (bf w 14 6) (bf w 8 6) (bf w 5 3) (bf w 4 1))
  else if fld w 0 4 = 5 then some (.vmax (bf w 20 6) (bf w 14 6) (bf w 8 6) (bf w 5 3) (bf w 4 1))
  else if fld w 0 4 = 6 then some (.vmul (bf w 20 6) (bf w 14 6) (bf w 8 6) (bf w 5 3) (bf w 4 1))
  else if fld w 0 4 = 7 then some (.vmulh (bf w 20 6) (bf w 14 6) (bf w 8 6) (bf w 5 3) (bf w 4 1))
  else if fld w 0 4 = 8 then some (.vand (bf w 20 6) (bf w 14 6) (bf w 8 6) (bf w 5 3) (bf w 4 1))
  else if fld w 0 4 = 9 then some (.vor (bf w 20 6) (bf w 14 6) (bf w 8 6) (bf w 5 3) (bf w 4 1))
  else if fld w 0 4 = 10 then some (.vxor (bf w 20 6) (bf w 14 6) (bf w 8 6) (bf w 5 3) (bf w 4 1))
  else if fld w 0 4 = 11 then some (.vandn (bf w 20 6) (bf w 14 6) (bf w 8 6) (bf w 5 3) (bf w 4 1))
  else if fld w 0 4 = 12 then some (.vsll (bf w 20 6) (bf w 14 6) (bf w 8 6) (bf w 5 3) (bf w 4 1))
  else if fld w 0 4 = 13 then some (.vsrl (bf w 20 6) (bf w 14 6) (bf w 8 6) (bf w 5 3) (bf w 4 1))
  else if fld w 0 4 = 14 then some (.vsra (bf w 20 6) (bf w 14 6) (bf w 8 6) (bf w 5 3) (bf w 4 1))
  else if fld w 0 4 = 15 ∧ fld w 23 3 = 0 then some (.vcmp (bf w 20 3) (bf w 14 6) (bf w 8 6) (bf w 5 3) (bf w 4 1))
  else none

/-- Major 13. -/
def decodeMajor13 (w : Nat) : Option Instr :=
  if fld w 0 4 = 0 then some (.vfadd (bf w 20 6) (bf w 14 6) (bf w 8 6) (bf w 5 3) (bf w 4 1))
  else if fld w 0 4 = 1 then some (.vfsub (bf w 20 6) (bf w 14 6) (bf w 8 6) (bf w 5 3) (bf w 4 1))
  else if fld w 0 4 = 2 then some (.vfmul (bf w 20 6) (bf w 14 6) (bf w 8 6) (bf w 5 3) (bf w 4 1))
  else if fld w 0 4 = 3 then some (.vfmin (bf w 20 6) (bf w 14 6) (bf w 8 6) (bf w 5 3) (bf w 4 1))
  else if fld w 0 4 = 4 then some (.vfmax (bf w 20 6) (bf w 14 6) (bf w 8 6) (bf w 5 3) (bf w 4 1))
  else if fld w 0 4 = 5 then some (.vfdiv (bf w 20 6) (bf w 14 6) (bf w 8 6) (bf w 5 3) (bf w 4 1))
  else if fld w 0 5 = 6 ∧ fld w 8 6 = 0 then some (.vfsqrt (bf w 20 6) (bf w 14 6) (bf w 5 3))
  else if fld w 0 5 = 7 ∧ fld w 8 6 = 0 then some (.vfrsqrt (bf w 20 6) (bf w 14 6) (bf w 5 3))
  else if fld w 0 5 = 8 ∧ fld w 8 6 = 0 then some (.vfexp2 (bf w 20 6) (bf w 14 6) (bf w 5 3))
  else if fld w 0 5 = 9 ∧ fld w 8 6 = 0 then some (.vflog2 (bf w 20 6) (bf w 14 6) (bf w 5 3))
  else if fld w 0 5 = 10 ∧ fld w 8 6 = 0 then some (.vfneg (bf w 20 6) (bf w 14 6) (bf w 5 3))
  else if fld w 0 5 = 11 ∧ fld w 8 6 = 0 then some (.vfabs (bf w 20 6) (bf w 14 6) (bf w 5 3))
  else if fld w 0 4 = 12 ∧ fld w 23 3 = 0 then some (.vfcmp (bf w 20 3) (bf w 14 6) (bf w 8 6) (bf w 5 3) (bf w 4 1))
  else none

/-- Major 14. -/
def decodeMajor14 (w : Nat) : Option Instr :=
  if fld w 0 4 = 0 then some (.vfma (bf w 20 6) (bf w 14 6) (bf w 8 6) (bf w 5 3) (bf w 4 1))
  else if fld w 0 4 = 1 then some (.vfnma (bf w 20 6) (bf w 14 6) (bf w 8 6) (bf w 5 3) (bf w 4 1))
  else if fld w 0 4 = 2 then some (.vfmsub (bf w 20 6) (bf w 14 6) (bf w 8 6) (bf w 5 3) (bf w 4 1))
  else if fld w 0 4 = 3 then some (.vfmaw (bf w 20 6) (bf w 14 6) (bf w 8 6) (bf w 5 3) (bf w 4 1))
  else if fld w 0 4 = 4 then some (.vmac (bf w 20 6) (bf w 14 6) (bf w 8 6) (bf w 5 3) (bf w 4 1))
  else if fld w 0 4 = 5 then some (.vmacw (bf w 20 6) (bf w 14 6) (bf w 8 6) (bf w 5 3) (bf w 4 1))
  else none

/-- Major 15. -/
def decodeMajor15 (w : Nat) : Option Instr :=
  some (.vcvt (bf w 20 6) (bf w 14 6) (bf w 11 3) (bf w 10 1) (bf w 8 2) (bf w 5 3) (bf w 2 3) (bf w 0 2))

/-- Major 16. -/
def decodeMajor16 (w : Nat) : Option Instr :=
  if fld w 0 8 = 0 then some (.vgf2mm (bf w 20 6) (bf w 14 6) (bf w 8 6))
  else if fld w 0 8 = 1 then some (.vpdep (bf w 20 6) (bf w 14 6) (bf w 8 6))
  else if fld w 0 8 = 2 then some (.vpext (bf w 20 6) (bf w 14 6) (bf w 8 6))
  else if fld w 0 8 = 3 then some (.vbperm (bf w 20 6) (bf w 14 6) (bf w 8 6))
  else if fld w 0 14 = 4 then some (.vpopc (bf w 20 6) (bf w 14 6))
  else none

/-- Major 17. -/
def decodeMajor17 (w : Nat) : Option Instr :=
  if fld w 0 5 = 0 then some (.vperm (bf w 20 6) (bf w 14 6) (bf w 8 6) (bf w 5 3))
  else if fld w 0 5 = 1 ∧ fld w 13 7 = 0 then some (.vbcast (bf w 20 6) (bf w 8 5) (bf w 5 3))
  else if fld w 0 5 = 2 ∧ fld w 13 1 = 0 then some (.vbcaste (bf w 20 6) (bf w 14 6) (bf w 8 5) (bf w 5 3))
  else if fld w 0 5 = 3 ∧ fld w 13 1 = 0 then some (.vslideup (bf w 20 6) (bf w 14 6) (bf w 8 5) (bf w 5 3))
  else if fld w 0 5 = 4 ∧ fld w 13 1 = 0 then some (.vslidedn (bf w 20 6) (bf w 14 6) (bf w 8 5) (bf w 5 3))
  else if fld w 0 5 = 5 ∧ fld w 13 1 = 0 ∧ fld w 19 1 = 0 then some (.vins (bf w 20 6) (bf w 14 5) (bf w 8 5) (bf w 5 3))
  else if fld w 0 5 = 6 ∧ fld w 13 1 = 0 ∧ fld w 25 1 = 0 then some (.vext (bf w 20 5) (bf w 14 6) (bf w 8 5) (bf w 5 3))
  else if fld w 0 5 = 7 then some (.vilv (bf w 20 6) (bf w 14 6) (bf w 8 6) (bf w 5 3))
  else if fld w 0 5 = 8 then some (.vdilv (bf w 20 6) (bf w 14 6) (bf w 8 6) (bf w 5 3))
  else none

/-- Major 18. -/
def decodeMajor18 (w : Nat) : Option Instr :=
  if fld w 0 5 = 0 ∧ fld w 8 6 = 0 ∧ fld w 25 1 = 0 then some (.vredsum (bf w 20 5) (bf w 14 6) (bf w 5 3))
  else if fld w 0 5 = 1 ∧ fld w 8 6 = 0 ∧ fld w 25 1 = 0 then some (.vredmin (bf w 20 5) (bf w 14 6) (bf w 5 3))
  else if fld w 0 5 = 2 ∧ fld w 8 6 = 0 ∧ fld w 25 1 = 0 then some (.vredmax (bf w 20 5) (bf w 14 6) (bf w 5 3))
  else if fld w 0 5 = 3 ∧ fld w 8 6 = 0 ∧ fld w 25 1 = 0 then some (.vredand (bf w 20 5) (bf w 14 6) (bf w 5 3))
  else if fld w 0 5 = 4 ∧ fld w 8 6 = 0 ∧ fld w 25 1 = 0 then some (.vredor (bf w 20 5) (bf w 14 6) (bf w 5 3))
  else if fld w 0 5 = 5 ∧ fld w 8 6 = 0 ∧ fld w 25 1 = 0 then some (.vredxor (bf w 20 5) (bf w 14 6) (bf w 5 3))
  else if fld w 0 5 = 8 ∧ fld w 8 6 = 0 ∧ fld w 25 1 = 0 then some (.vfredsum (bf w 20 5) (bf w 14 6) (bf w 5 3))
  else if fld w 0 5 = 9 ∧ fld w 8 6 = 0 ∧ fld w 25 1 = 0 then some (.vfredmin (bf w 20 5) (bf w 14 6) (bf w 5 3))
  else if fld w 0 5 = 10 ∧ fld w 8 6 = 0 ∧ fld w 25 1 = 0 then some (.vfredmax (bf w 20 5) (bf w 14 6) (bf w 5 3))
  else if fld w 0 5 = 11 ∧ fld w 8 6 = 0 ∧ fld w 25 1 = 0 then some (.vfredmaxa (bf w 20 5) (bf w 14 6) (bf w 5 3))
  else none

/-- Major 19. -/
def decodeMajor19 (w : Nat) : Option Instr :=
  if fld w 0 9 = 0 ∧ fld w 14 6 = 0 ∧ fld w 25 1 = 0 then some (.qsinit (bf w 20 5) (bf w 9 5))
  else if fld w 0 9 = 1 ∧ fld w 14 12 = 0 then some (.hhinit (bf w 9 5))
  else if fld w 0 9 = 2 ∧ fld w 14 6 = 0 ∧ fld w 25 1 = 0 then some (.dcinit (bf w 20 5) (bf w 9 5))
  else if fld w 0 6 = 4 ∧ fld w 20 6 = 0 then some (.qsadd (bf w 14 6) (bf w 9 5) (bf w 6 3))
  else if fld w 0 6 = 5 ∧ fld w 20 6 = 0 then some (.hhadd (bf w 14 6) (bf w 9 5) (bf w 6 3))
  else if fld w 0 9 = 326 then some (.hhaddw (bf w 20 6) (bf w 14 6) (bf w 9 5))
  else if fld w 0 6 = 7 ∧ fld w 20 6 = 0 then some (.dcadd (bf w 14 6) (bf w 9 5) (bf w 6 3))
  else if fld w 0 9 = 8 ∧ fld w 14 6 = 0 ∧ fld w 25 1 = 0 then some (.qsmrg (bf w 20 5) (bf w 9 5))
  else if fld w 0 9 = 9 ∧ fld w 14 6 = 0 ∧ fld w 25 1 = 0 then some (.hhmrg (bf w 20 5) (bf w 9 5))
  else if fld w 0 9 = 10 ∧ fld w 14 6 = 0 ∧ fld w 25 1 = 0 then some (.dcmrg (bf w 20 5) (bf w 9 5))
  else if fld w 0 9 = 12 ∧ fld w 19 1 = 0 ∧ fld w 25 1 = 0 then some (.qsquant (bf w 20 5) (bf w 14 5) (bf w 9 5))
  else if fld w 0 9 = 13 ∧ fld w 19 1 = 0 then some (.hhtop (bf w 20 6) (bf w 14 5) (bf w 9 5))
  else if fld w 0 9 = 14 ∧ fld w 14 6 = 0 ∧ fld w 25 1 = 0 then some (.dcest (bf w 20 5) (bf w 9 5))
  else none

/-- Major 20. -/
def decodeMajor20 (w : Nat) : Option Instr :=
  if fld w 9 3 = 0 ∧ fld w 14 1 = 0 then some (.vld (bf w 20 6) (bf w 15 5) (bf w 12 2) (bf w 0 9))
  else if fld w 14 1 = 0 then some (.vldB (bf w 20 6) (bf w 15 5) (bf w 12 2) (bf w 9 3) (bf w 0 9))
  else if fld w 9 3 = 0 ∧ fld w 14 1 = 1 then some (.vldg (bf w 20 6) (bf w 15 5) (bf w 12 2) (bf w 0 9))
  else if fld w 14 1 = 1 then some (.vldgB (bf w 20 6) (bf w 15 5) (bf w 12 2) (bf w 9 3) (bf w 0 9))
  else none

/-- Major 21. -/
def decodeMajor21 (w : Nat) : Option Instr :=
  if fld w 9 3 = 0 ∧ fld w 14 1 = 0 then some (.vst (bf w 20 6) (bf w 15 5) (bf w 12 2) (bf w 0 9))
  else if fld w 9 6 = 32 then some (.vstg (bf w 20 6) (bf w 15 5) (bf w 0 9))
  else none

/-- Major 22. -/
def decodeMajor22 (w : Nat) : Option Instr :=
  if fld w 0 3 = 0 ∧ fld w 14 1 = 0 ∧ fld w 9 3 < 3 then some (.vgath (bf w 20 6) (bf w 15 5) (bf w 12 2) (bf w 9 3) (bf w 3 6))
  else if fld w 0 3 = 0 ∧ fld w 14 1 = 0 ∧ 3 ≤ fld w 9 3 then some (.vscat (bf w 20 6) (bf w 15 5) (bf w 12 2) (bf w 9 3) (bf w 3 6))
  else if fld w 0 3 = 0 ∧ fld w 14 1 = 1 ∧ fld w 9 3 < 3 then some (.vgathg (bf w 20 6) (bf w 15 5) (bf w 12 2) (bf w 9 3) (bf w 3 6))
  else if fld w 0 3 = 0 ∧ fld w 12 3 = 4 ∧ 3 ≤ fld w 9 3 then some (.vscatg (bf w 20 6) (bf w 15 5) (bf w 9 3) (bf w 3 6))
  else none

/-- Major 23. -/
noncomputable def decodeMajor23 (w : Nat) : Option Instr :=
  if fld w 8 8 = 0 then some (.mxcall (bf w 21 5) (bf w 16 5) (bf w 0 8))
  else if fld w 3 18 = 32 then some (.mxparm (bf w 21 5) (bf w 0 3))
  else if fld w 4 12 = 32 then some (.mxrcfg (bf w 21 5) (bf w 16 5) (bf w 0 4))
  else if fld w 4 17 = 48 then some (.mxrpush (bf w 21 5) (bf w 0 4))
  else if fld w 4 17 = 64 then some (.mxrstat (bf w 21 5) (bf w 0 4))
  else if fld w 8 13 = 5 then some (.mxrda (bf w 21 5) (bf w 6 2) (bf w 0 6))
  else if fld w 8 13 = 6 then some (.mxwra (bf w 21 5) (bf w 6 2) (bf w 0 6))
  else if fld w 8 18 = 7 then some (.mxdset (bf w 0 8))
  else if fld w 8 18 = 8 then some (.mxdclr (bf w 0 8))
  else if fld w 0 21 = 2304 then some (.mxdrd (bf w 21 5))
  else if fld w 0 16 = 2560 then some (.mxuld (bf w 21 5) (bf w 16 5))
  else none

/-- Major 24. -/
noncomputable def decodeMajor24 (w : Nat) : Option Instr :=
  if fld w 4 17 = 0 then some (.ldgeom (bf w 21 5) (bf w 0 4))
  else if fld w 4 17 = 16 then some (.stgeom (bf w 21 5) (bf w 0 4))
  else if fld w 8 8 = 2 then some (.cpyin (bf w 21 5) (bf w 16 5) (bf w 4 4) (bf w 0 4))
  else if fld w 0 4 = 0 ∧ fld w 8 8 = 3 then some (.cpyout (bf w 21 5) (bf w 16 5) (bf w 4 4))
  else if fld w 0 4 = 0 ∧ fld w 8 8 = 4 then some (.cpyloop (bf w 21 5) (bf w 16 5) (bf w 4 4))
  else if fld w 0 21 = 1280 then some (.wtagAll (bf w 21 5))
  else if fld w 0 21 = 1536 then some (.wtagAny (bf w 21 5))
  else if fld w 5 16 = 56 then some (.ffr (bf w 21 5) (bf w 0 5))
  else if fld w 5 16 = 64 then some (.tcnt (bf w 21 5) (bf w 0 5))
  else none

/-- Major 25. -/
noncomputable def decodeMajor25 (w : Nat) : Option Instr :=
  if fld w 6 10 = 0 then some (.coll (bf w 21 5) (bf w 16 5) (bf w 0 6))
  else if fld w 0 16 = 256 then some (.crank (bf w 21 5) (bf w 16 5))
  else if fld w 0 16 = 384 then some (.crankg (bf w 21 5) (bf w 16 5))
  else if fld w 0 21 = 512 then some (.cplan (bf w 21 5))
  else none

/-- Major 26. -/
noncomputable def decodeMajor26 (w : Nat) : Option Instr :=
  if fld w 5 16 = 0 then some (.send (bf w 21 5) (bf w 0 5))
  else if fld w 6 15 = 4 then some (.sendv (bf w 21 5) (bf w 0 6))
  else if fld w 5 11 = 16 ∧ fld w 25 1 = 0 then some (.recv (bf w 21 4) (bf w 16 5) (bf w 0 5))
  else if fld w 6 10 = 12 ∧ fld w 25 1 = 0 then some (.recvv (bf w 21 4) (bf w 16 5) (bf w 0 6))
  else if fld w 3 23 = 128 then some (.arrive (bf w 0 3))
  else if fld w 3 23 = 160 then some (.wait (bf w 0 3))
  else if fld w 6 10 = 24 ∧ fld w 18 3 = 0 then some (.nstv (bf w 21 5) (bf w 16 2) (bf w 0 6))
  else none

/-- Major 27. -/
noncomputable def decodeMajor27 (w : Nat) : Option Instr :=
  if fld w 0 16 = 0 then some (.pcfg (bf w 21 5) (bf w 16 5))
  else if fld w 4 12 = 16 then some (.probe (bf w 21 5) (bf w 16 5) (bf w 0 4))
  else if fld w 4 12 = 32 then some (.plook (bf w 21 5) (bf w 16 5) (bf w 0 4))
  else if fld w 0 16 = 768 ∧ fld w 21 5 = 0 then some (.pinv (bf w 16 5))
  else if fld w 0 26 = 1024 then some .pinva
  else if fld w 5 11 = 128 then some (.haulset (bf w 21 5) (bf w 16 5) (bf w 0 5))
  else if fld w 0 26 = 4352 then some .haulend
  else if fld w 0 21 = 4608 then some (.blaze (bf w 21 5))
  else if fld w 6 10 = 76 then some (.migrate (bf w 21 5) (bf w 16 5) (bf w 0 6))
  else if fld w 0 21 = 5120 then some (.haulstat (bf w 21 5))
  else none

/-- Major 28. -/
noncomputable def decodeMajor28 (w : Nat) : Option Instr :=
  if fld w 0 16 = 0 then some (.tagset (bf w 21 5) (bf w 16 5))
  else if fld w 0 16 = 256 then some (.tagsetz (bf w 21 5) (bf w 16 5))
  else if fld w 5 16 = 16 then some (.tagget (bf w 21 5) (bf w 0 5))
  else none

/-- Major 29. -/
noncomputable def decodeMajor29 (w : Nat) : Option Instr :=
  if fld w 0 21 = 0 then some (.dtrace (bf w 21 5))
  else if fld w 5 16 = 8 then some (.lpcrd (bf w 21 5) (bf w 0 5))
  else if fld w 0 16 = 512 then some (.dinjA (bf w 21 5) (bf w 16 5))
  else if fld w 2 14 = 192 then some (.dinjM (bf w 21 5) (bf w 16 5) (bf w 0 2))
  else if fld w 2 14 = 193 then some (.dinjgM (bf w 21 5) (bf w 16 5) (bf w 0 2))
  else if fld w 0 26 = 1024 then some .dbrk
  else none

/-- The instruction of the syllable whose bits [30:0] are those of `w` (bit 31 is S and is not read). -/
noncomputable def decodeOp (w : Nat) : Option Instr :=
  match fld w 26 5 with
  | 0 => decodeMajor0 w
  | 1 => decodeMajor1 w
  | 2 => decodeMajor2 w
  | 3 => decodeMajor3 w
  | 4 => decodeMajor4 w
  | 5 => decodeMajor5 w
  | 6 => decodeMajor6 w
  | 7 => decodeMajor7 w
  | 8 => decodeMajor8 w
  | 9 => decodeMajor9 w
  | 10 => decodeMajor10 w
  | 11 => decodeMajor11 w
  | 12 => decodeMajor12 w
  | 13 => decodeMajor13 w
  | 14 => decodeMajor14 w
  | 15 => decodeMajor15 w
  | 16 => decodeMajor16 w
  | 17 => decodeMajor17 w
  | 18 => decodeMajor18 w
  | 19 => decodeMajor19 w
  | 20 => decodeMajor20 w
  | 21 => decodeMajor21 w
  | 22 => decodeMajor22 w
  | 23 => decodeMajor23 w
  | 24 => decodeMajor24 w
  | 25 => decodeMajor25 w
  | 26 => decodeMajor26 w
  | 27 => decodeMajor27 w
  | 28 => decodeMajor28 w
  | 29 => decodeMajor29 w
  | _ => none

/-- A syllable as it stands in a bundle (03 R86). -/
noncomputable def decodeSyllable (w : BitVec 32) : Syllable :=
  { stop := w.getLsbD 31, major := bf w.toNat 26 5, op := decodeOp w.toNat }

/-- A micro-op word (13 Table 5, Table 6): fields that the micro-op does not use must be 0. -/
noncomputable def decodeMicro (w : BitVec 64) : Option Instr :=
  let n := w.toNat
  match fld n 59 5 with
  | 0 => if fld n 0 59 = 0 then some .mend else none
  | 1 => if fld n 0 36 = 0 then some (.mpass (bf n 55 4) (bf n 51 4) (bf n 48 3) (bf n 45 3) (bf n 42 3) (bf n 38 4) (bf n 37 1) (bf n 36 1)) else none
  | 2 => if fld n 0 36 = 0 ∧ fld n 37 1 = 0 then some (.mscale (bf n 55 4) (bf n 51 4) (bf n 48 3) (bf n 45 3) (bf n 42 3) (bf n 38 4) (bf n 36 1)) else none
  | 3 => if fld n 0 48 = 0 ∧ fld n 51 8 = 0 then some (.mzero (bf n 48 3)) else none
  | 4 => if fld n 0 29 = 0 ∧ fld n 36 2 = 0 ∧ fld n 45 3 = 0 ∧ fld n 51 8 = 0 then some (.mout (bf n 48 3) (bf n 42 3) (bf n 38 4) (bf n 35 1) (bf n 32 3) (bf n 29 3)) else none
  | 5 => if fld n 0 48 = 0 ∧ fld n 51 8 = 0 then some (.mckz (bf n 48 3)) else none
  | 6 => if fld n 0 29 = 0 ∧ fld n 32 10 = 0 ∧ fld n 45 3 = 0 ∧ fld n 51 8 = 0 then some (.mckout (bf n 48 3) (bf n 42 3) (bf n 29 3)) else none
  | 7 => if fld n 0 55 = 0 then some (.mpopMicroOp (bf n 55 4)) else none
  | 8 => if fld n 0 45 = 0 ∧ fld n 51 8 = 0 then some (.macc (bf n 48 3) (bf n 45 3)) else none
  | 9 => if fld n 16 43 = 0 then some (.midle (bf n 0 16)) else none
  | 10 => if fld n 16 10 = 0 ∧ fld n 32 16 = 0 ∧ fld n 51 8 = 0 then some (.mldi (bf n 48 3) (bf n 26 1) (bf n 29 3) (bf n 27 2) (bf n 0 16)) else none
  | 11 => if fld n 16 32 = 0 ∧ fld n 51 8 = 0 then some (.maddi (bf n 48 3) (bf n 0 16)) else none
  | 12 => if fld n 0 48 = 0 ∧ fld n 51 8 = 0 then some (.mloop (bf n 48 3)) else none
  | 13 => if fld n 0 59 = 0 then some .mnext else none
  | _ => none

/-- A command entry of queue `q` (09 Table 2, Table 4): a field that Table 4 marks 0 must be 0. -/
noncomputable def decodeEntry (q : BitVec 6) (w : BitVec 256) : Option Instr :=
  let n := w.toNat
  match fld n 0 8 with
  | 0 => if fld n 8 248 = 0 then some (.queueNop q) else none
  | 1 => if fld n 8 8 = 0 ∧ fld n 32 32 = 0 then some (.launch q (bf n 16 16) (bf n 64 64) (bf n 128 64) (bf n 192 64)) else none
  | 2 => if fld n 8 8 = 0 ∧ fld n 17 239 = 0 then some (.phaseEnd q (bf n 16 1)) else none
  | 3 => if fld n 8 8 = 0 ∧ fld n 19 13 = 0 then some (.condSkip q (bf n 16 3) (bf n 32 32) (bf n 64 64) (bf n 128 64) (bf n 192 64)) else none
  | 4 => if fld n 8 56 = 0 ∧ fld n 128 128 = 0 then some (.jump q (bf n 64 64)) else none
  | 5 => if fld n 8 56 = 0 ∧ fld n 128 128 = 0 then some (.queueCall q (bf n 64 64)) else none
  | 6 => if fld n 8 248 = 0 then some (.queueReturn q) else none
  | 7 => if fld n 8 8 = 0 ∧ fld n 19 45 = 0 then some (.waitValue q (bf n 16 3) (bf n 64 64) (bf n 128 64) (bf n 192 64)) else none
  | 8 => if fld n 8 8 = 0 ∧ fld n 18 14 = 0 ∧ fld n 192 64 = 0 then some (.writeValue q (bf n 16 1) (bf n 17 1) (bf n 32 32) (bf n 64 64) (bf n 128 64)) else none
  | 9 => if fld n 8 24 = 0 ∧ fld n 128 128 = 0 then some (.checkpoint q (bf n 32 32) (bf n 64 64)) else none
  | 10 => if fld n 8 56 = 0 ∧ fld n 192 64 = 0 then some (.digest q (bf n 64 64) (bf n 128 64)) else none
  | _ => none

/-- A word with the fields `fs`, each a value and its lowest bit, put into the fixed bits `base`. -/
def enc (base : Nat) (fs : List (Nat × Nat)) : Nat := fs.foldl (fun acc f => acc + f.1 * 2 ^ f.2) base

/-- The bits [30:0] of a syllable, from the encoding tables; `none` for an instruction that is no syllable. -/
def encodeOp : Instr → Option Nat
  | .nop => some (enc 0x0 [])
  | .endTask => some (enc 0x1 [])
  | .svc d a => some (enc 0x2 [(d.toNat, 21), (a.toNat, 16)])
  | .trap n => some (enc 0x3 [(n.toNat, 11)])
  | .csrr d c => some (enc 0x100 [(d.toNat, 21), (c.toNat, 0)])
  | .csrw a c => some (enc 0x200 [(a.toNat, 16), (c.toNat, 0)])
  | .csrs a c => some (enc 0x300 [(a.toNat, 16), (c.toNat, 0)])
  | .csrc a c => some (enc 0x400 [(a.toNat, 16), (c.toNat, 0)])
  | .yield => some (enc 0x4 [])
  | .drain => some (enc 0x5 [])
  | .clogrd d a => some (enc 0x6 [(d.toNat, 21), (a.toNat, 16)])
  | .rjmark a => some (enc 0x7 [(a.toNat, 16)])
  | .rescnt d => some (enc 0x8 [(d.toNat, 21)])
  | .add d a b => some (enc 0x4000000 [(d.toNat, 21), (a.toNat, 16), (b.toNat, 11)])
  | .sub d a b => some (enc 0x4000010 [(d.toNat, 21), (a.toNat, 16), (b.toNat, 11)])
  | .and d a b => some (enc 0x4000020 [(d.toNat, 21), (a.toNat, 16), (b.toNat, 11)])
  | .or d a b => some (enc 0x4000030 [(d.toNat, 21), (a.toNat, 16), (b.toNat, 11)])
  | .xor d a b => some (enc 0x4000040 [(d.toNat, 21), (a.toNat, 16), (b.toNat, 11)])
  | .andn d a b => some (enc 0x4000050 [(d.toNat, 21), (a.toNat, 16), (b.toNat, 11)])
  | .sll d a b => some (enc 0x4000060 [(d.toNat, 21), (a.toNat, 16), (b.toNat, 11)])
  | .srl d a b => some (enc 0x4000070 [(d.toNat, 21), (a.toNat, 16), (b.toNat, 11)])
  | .sra d a b => some (enc 0x4000080 [(d.toNat, 21), (a.toNat, 16), (b.toNat, 11)])
  | .min d a b => some (enc 0x4000090 [(d.toNat, 21), (a.toNat, 16), (b.toNat, 11)])
  | .max d a b => some (enc 0x40000a0 [(d.toNat, 21), (a.toNat, 16), (b.toNat, 11)])
  | .minu d a b => some (enc 0x40000b0 [(d.toNat, 21), (a.toNat, 16), (b.toNat, 11)])
  | .maxu d a b => some (enc 0x40000c0 [(d.toNat, 21), (a.toNat, 16), (b.toNat, 11)])
  | .adds d a b => some (enc 0x40000d0 [(d.toNat, 21), (a.toNat, 16), (b.toNat, 11)])
  | .subs d a b => some (enc 0x40000e0 [(d.toNat, 21), (a.toNat, 16), (b.toNat, 11)])
  | .sel d a b p => some (enc 0x40000f0 [(d.toNat, 21), (a.toNat, 16), (b.toNat, 11), (p.toNat, 0)])
  | .cmpeq p a b => some (enc 0x4000100 [(p.toNat, 21), (a.toNat, 16), (b.toNat, 11)])
  | .cmpne p a b => some (enc 0x4000110 [(p.toNat, 21), (a.toNat, 16), (b.toNat, 11)])
  | .cmplt p a b => some (enc 0x4000120 [(p.toNat, 21), (a.toNat, 16), (b.toNat, 11)])
  | .cmpltu p a b => some (enc 0x4000130 [(p.toNat, 21), (a.toNat, 16), (b.toNat, 11)])
  | .cmple p a b => some (enc 0x4000140 [(p.toNat, 21), (a.toNat, 16), (b.toNat, 11)])
  | .cmpleu p a b => some (enc 0x4000150 [(p.toNat, 21), (a.toNat, 16), (b.toNat, 11)])
  | .addi d a i => some (enc 0x8000000 [(d.toNat, 21), (a.toNat, 16), (i.toNat, 0)])
  | .andi d a i => some (enc 0x8001000 [(d.toNat, 21), (a.toNat, 16), (i.toNat, 0)])
  | .ori d a i => some (enc 0x8002000 [(d.toNat, 21), (a.toNat, 16), (i.toNat, 0)])
  | .xori d a i => some (enc 0x8003000 [(d.toNat, 21), (a.toNat, 16), (i.toNat, 0)])
  | .slli d a n => some (enc 0x8004000 [(d.toNat, 21), (a.toNat, 16), (n.toNat, 0)])
  | .srli d a n => some (enc 0x8005000 [(d.toNat, 21), (a.toNat, 16), (n.toNat, 0)])
  | .srai d a n => some (enc 0x8006000 [(d.toNat, 21), (a.toNat, 16), (n.toNat, 0)])
  | .shlor d a i => some (enc 0x8007000 [(d.toNat, 21), (a.toNat, 16), (i.toNat, 0)])
  | .movi d i => some (enc 0x8008000 [(d.toNat, 21), (i.toNat, 0)])
  | .cmpeqi p a i => some (enc 0x8009000 [(p.toNat, 21), (a.toNat, 16), (i.toNat, 0)])
  | .cmplti p a i => some (enc 0x800a000 [(p.toNat, 21), (a.toNat, 16), (i.toNat, 0)])
  | .cmpltui p a i => some (enc 0x800b000 [(p.toNat, 21), (a.toNat, 16), (i.toNat, 0)])
  | .mul d a b => some (enc 0xc000000 [(d.toNat, 21), (a.toNat, 16), (b.toNat, 11)])
  | .mulh d a b => some (enc 0xc000010 [(d.toNat, 21), (a.toNat, 16), (b.toNat, 11)])
  | .mulhu d a b => some (enc 0xc000020 [(d.toNat, 21), (a.toNat, 16), (b.toNat, 11)])
  | .div d a b => some (enc 0xc000030 [(d.toNat, 21), (a.toNat, 16), (b.toNat, 11)])
  | .divu d a b => some (enc 0xc000040 [(d.toNat, 21), (a.toNat, 16), (b.toNat, 11)])
  | .rem d a b => some (enc 0xc000050 [(d.toNat, 21), (a.toNat, 16), (b.toNat, 11)])
  | .remu d a b => some (enc 0xc000060 [(d.toNat, 21), (a.toNat, 16), (b.toNat, 11)])
  | .clz d a => some (enc 0xc000080 [(d.toNat, 21), (a.toNat, 16)])
  | .ctz d a => some (enc 0xc000090 [(d.toNat, 21), (a.toNat, 16)])
  | .popc d a => some (enc 0xc0000a0 [(d.toNat, 21), (a.toNat, 16)])
  | .brev d a => some (enc 0xc0000b0 [(d.toNat, 21), (a.toNat, 16)])
  | .bswap d a => some (enc 0xc0000c0 [(d.toNat, 21), (a.toNat, 16)])
  | .rol d a b => some (enc 0xc0000d0 [(d.toNat, 21), (a.toNat, 16), (b.toNat, 11)])
  | .ror d a b => some (enc 0xc0000e0 [(d.toNat, 21), (a.toNat, 16), (b.toNat, 11)])
  | .extu d a b => some (enc 0xc0000f0 [(d.toNat, 21), (a.toNat, 16), (b.toNat, 11)])
  | .exts d a b => some (enc 0xc000100 [(d.toNat, 21), (a.toNat, 16), (b.toNat, 11)])
  | .fadd d a b r t => some (enc 0x10000000 [(d.toNat, 21), (a.toNat, 16), (b.toNat, 11), (r.toNat, 8), (t.toNat, 6)])
  | .fsub d a b r t => some (enc 0x10000001 [(d.toNat, 21), (a.toNat, 16), (b.toNat, 11), (r.toNat, 8), (t.toNat, 6)])
  | .fmul d a b r t => some (enc 0x10000002 [(d.toNat, 21), (a.toNat, 16), (b.toNat, 11), (r.toNat, 8), (t.toNat, 6)])
  | .fma d a b r t => some (enc 0x10000003 [(d.toNat, 21), (a.toNat, 16), (b.toNat, 11), (r.toNat, 8), (t.toNat, 6)])
  | .fmin d a b t => some (enc 0x10000504 [(d.toNat, 21), (a.toNat, 16), (b.toNat, 11), (t.toNat, 6)])
  | .fmax d a b t => some (enc 0x10000505 [(d.toNat, 21), (a.toNat, 16), (b.toNat, 11), (t.toNat, 6)])
  | .fdiv d a b r t => some (enc 0x10000006 [(d.toNat, 21), (a.toNat, 16), (b.toNat, 11), (r.toNat, 8), (t.toNat, 6)])
  | .fsqrt d a r t => some (enc 0x10000007 [(d.toNat, 21), (a.toNat, 16), (r.toNat, 8), (t.toNat, 6)])
  | .fcvt d a c r t => some (enc 0x10000008 [(d.toNat, 21), (a.toNat, 16), (c.toNat, 11), (r.toNat, 8), (t.toNat, 6)])
  | .fcvti d a b r t => some (enc 0x10000009 [(d.toNat, 21), (a.toNat, 16), (b.toNat, 11), (r.toNat, 8), (t.toNat, 6)])
  | .fcvtn d a b r t => some (enc 0x1000000a [(d.toNat, 21), (a.toNat, 16), (b.toNat, 11), (r.toNat, 8), (t.toNat, 6)])
  | .icvtf d a b r t => some (enc 0x1000000b [(d.toNat, 21), (a.toNat, 16), (b.toNat, 11), (r.toNat, 8), (t.toNat, 6)])
  | .ncvtf d a b r t => some (enc 0x1000000c [(d.toNat, 21), (a.toNat, 16), (b.toNat, 11), (r.toNat, 8), (t.toNat, 6)])
  | .fcmpeq p a b t => some (enc 0x1000050d [(p.toNat, 21), (a.toNat, 16), (b.toNat, 11), (t.toNat, 6)])
  | .fcmplt p a b t => some (enc 0x1000050e [(p.toNat, 21), (a.toNat, 16), (b.toNat, 11), (t.toNat, 6)])
  | .fcmple p a b t => some (enc 0x1000050f [(p.toNat, 21), (a.toNat, 16), (b.toNat, 11), (t.toNat, 6)])
  | .fneg d a t => some (enc 0x10000510 [(d.toNat, 21), (a.toNat, 16), (t.toNat, 6)])
  | .fabs d a t => some (enc 0x10000511 [(d.toNat, 21), (a.toNat, 16), (t.toNat, 6)])
  | .beq a b d => some (enc 0x14000000 [(a.toNat, 21), (b.toNat, 16), (d.toNat, 0)])
  | .bne a b d => some (enc 0x14002000 [(a.toNat, 21), (b.toNat, 16), (d.toNat, 0)])
  | .blt a b d => some (enc 0x14004000 [(a.toNat, 21), (b.toNat, 16), (d.toNat, 0)])
  | .bge a b d => some (enc 0x14006000 [(a.toNat, 21), (b.toNat, 16), (d.toNat, 0)])
  | .bltu a b d => some (enc 0x14008000 [(a.toNat, 21), (b.toNat, 16), (d.toNat, 0)])
  | .bgeu a b d => some (enc 0x1400a000 [(a.toNat, 21), (b.toNat, 16), (d.toNat, 0)])
  | .bp p d => some (enc 0x1400c000 [(p.toNat, 21), (d.toNat, 0)])
  | .bnp p d => some (enc 0x1400e000 [(p.toNat, 21), (d.toNat, 0)])
  | .j d => some (enc 0x18000000 [(d.toNat, 0)])
  | .call d => some (enc 0x18040000 [(d.toNat, 0)])
  | .jr a d => some (enc 0x18080000 [(a.toNat, 21), (d.toNat, 0)])
  | .callr a d => some (enc 0x180c0000 [(a.toNat, 21), (d.toNat, 0)])
  | .loop a d => some (enc 0x18100000 [(a.toNat, 21), (d.toNat, 0)])
  | .loopRot a n d => some (enc 0x18140000 [(a.toNat, 21), (n.toNat, 16), (d.toNat, 0)])
  | .loopRot58 a n d => some (enc 0x18180000 [(a.toNat, 21), (n.toNat, 16), (d.toNat, 0)])
  | .mpushAll => some (enc 0x1c000000 [])
  | .mdup => some (enc 0x1c000001 [])
  | .mpop => some (enc 0x1c000002 [])
  | .mand => some (enc 0x1c000003 [])
  | .mor => some (enc 0x1c000004 [])
  | .mxor => some (enc 0x1c000005 [])
  | .mandn => some (enc 0x1c000006 [])
  | .mnot => some (enc 0x1c000007 [])
  | .melse => some (enc 0x1c000008 [])
  | .mpushP p => some (enc 0x1c000009 [(p.toNat, 16)])
  | .mcnt d => some (enc 0x1c00000a [(d.toNat, 21)])
  | .many p => some (enc 0x1c00000b [(p.toNat, 21)])
  | .pand d a b i => some (enc 0x1c000100 [(d.toNat, 21), (a.toNat, 16), (b.toNat, 11), (i.toNat, 2)])
  | .por d a b i => some (enc 0x1c000101 [(d.toNat, 21), (a.toNat, 16), (b.toNat, 11), (i.toNat, 2)])
  | .pxor d a b i => some (enc 0x1c000102 [(d.toNat, 21), (a.toNat, 16), (b.toNat, 11), (i.toNat, 2)])
  | .pandn d a b i => some (enc 0x1c000103 [(d.toNat, 21), (a.toNat, 16), (b.toNat, 11), (i.toNat, 2)])
  | .pnz p a => some (enc 0x1c000200 [(p.toNat, 21), (a.toNat, 16)])
  | .prd d => some (enc 0x1c000300 [(d.toNat, 21)])
  | .guard p m => some (enc 0x1c000400 [(p.toNat, 16), (m.toNat, 0)])
  | .mskip n => some (enc 0x1c000500 [(n.toNat, 0)])
  | .ld d a c z i => some (enc 0x20000000 [(d.toNat, 20), (a.toNat, 15), (c.toNat, 12), (z.toNat, 9), (i.toNat, 0)])
  | .st t a c z i => some (enc 0x24000000 [(t.toNat, 20), (a.toNat, 15), (c.toNat, 12), (z.toNat, 9), (i.toNat, 0)])
  | .ldg d a c z i => some (enc 0x20004000 [(d.toNat, 20), (a.toNat, 15), (c.toNat, 12), (z.toNat, 9), (i.toNat, 0)])
  | .stg t a z i => some (enc 0x24004000 [(t.toNat, 20), (a.toNat, 15), (z.toNat, 9), (i.toNat, 0)])
  | .amswap d a b p w c o => some (enc 0x28000000 [(d.toNat, 21), (a.toNat, 16), (b.toNat, 11), (p.toNat, 10), (w.toNat, 5), (c.toNat, 2), (o.toNat, 0)])
  | .amcas d a b p w c o => some (enc 0x28000040 [(d.toNat, 21), (a.toNat, 16), (b.toNat, 11), (p.toNat, 10), (w.toNat, 5), (c.toNat, 2), (o.toNat, 0)])
  | .amadd d a b p w c o => some (enc 0x28000080 [(d.toNat, 21), (a.toNat, 16), (b.toNat, 11), (p.toNat, 10), (w.toNat, 5), (c.toNat, 2), (o.toNat, 0)])
  | .amand d a b p w c o => some (enc 0x280000c0 [(d.toNat, 21), (a.toNat, 16), (b.toNat, 11), (p.toNat, 10), (w.toNat, 5), (c.toNat, 2), (o.toNat, 0)])
  | .amor d a b p w c o => some (enc 0x28000100 [(d.toNat, 21), (a.toNat, 16), (b.toNat, 11), (p.toNat, 10), (w.toNat, 5), (c.toNat, 2), (o.toNat, 0)])
  | .amxor d a b p w c o => some (enc 0x28000140 [(d.toNat, 21), (a.toNat, 16), (b.toNat, 11), (p.toNat, 10), (w.toNat, 5), (c.toNat, 2), (o.toNat, 0)])
  | .ammin d a b p w c o => some (enc 0x28000180 [(d.toNat, 21), (a.toNat, 16), (b.toNat, 11), (p.toNat, 10), (w.toNat, 5), (c.toNat, 2), (o.toNat, 0)])
  | .ammax d a b p w c o => some (enc 0x280001c0 [(d.toNat, 21), (a.toNat, 16), (b.toNat, 11), (p.toNat, 10), (w.toNat, 5), (c.toNat, 2), (o.toNat, 0)])
  | .amminu d a b p w c o => some (enc 0x28000200 [(d.toNat, 21), (a.toNat, 16), (b.toNat, 11), (p.toNat, 10), (w.toNat, 5), (c.toNat, 2), (o.toNat, 0)])
  | .ammaxu d a b p w c o => some (enc 0x28000240 [(d.toNat, 21), (a.toNat, 16), (b.toNat, 11), (p.toNat, 10), (w.toNat, 5), (c.toNat, 2), (o.toNat, 0)])
  | .waddF64 a b p c o => some (enc 0x28000280 [(a.toNat, 16), (b.toNat, 11), (p.toNat, 10), (c.toNat, 2), (o.toNat, 0)])
  | .waddF32 a b p c o => some (enc 0x280002c0 [(a.toNat, 16), (b.toNat, 11), (p.toNat, 10), (c.toNat, 2), (o.toNat, 0)])
  | .waddF16 a b p c o => some (enc 0x28000300 [(a.toNat, 16), (b.toNat, 11), (p.toNat, 10), (c.toNat, 2), (o.toNat, 0)])
  | .waddBf16 a b p c o => some (enc 0x28000340 [(a.toNat, 16), (b.toNat, 11), (p.toNat, 10), (c.toNat, 2), (o.toNat, 0)])
  | .waddI64 a b p c o => some (enc 0x28000380 [(a.toNat, 16), (b.toNat, 11), (p.toNat, 10), (c.toNat, 2), (o.toNat, 0)])
  | .wrd d a p w c o => some (enc 0x280003c0 [(d.toNat, 21), (a.toNat, 16), (p.toNat, 10), (w.toNat, 5), (c.toNat, 2), (o.toNat, 0)])
  | .fence c => some (enc 0x2c000000 [(c.toNat, 2)])
  | .bind a b p => some (enc 0x2c000040 [(a.toNat, 16), (b.toNat, 11), (p.toNat, 5)])
  | .unbind a => some (enc 0x2c000080 [(a.toNat, 16)])
  | .sealRange a b => some (enc 0x2c0000e0 [(a.toNat, 16), (b.toNat, 11)])
  | .unsealRange a b => some (enc 0x2c000120 [(a.toNat, 16), (b.toNat, 11)])
  | .binit c a b p => some (enc 0x2c000140 [(c.toNat, 21), (a.toNat, 16), (b.toNat, 11), (p.toNat, 5)])
  | .arrb d a p c => some (enc 0x2c000180 [(d.toNat, 21), (a.toNat, 16), (p.toNat, 5), (c.toNat, 2)])
  | .waitph a b p c => some (enc 0x2c0001c0 [(a.toNat, 16), (b.toNat, 11), (p.toNat, 5), (c.toNat, 2)])
  | .vadd d a b t k => some (enc 0x30000000 [(d.toNat, 20), (a.toNat, 14), (b.toNat, 8), (t.toNat, 5), (k.toNat, 4)])
  | .vsub d a b t k => some (enc 0x30000001 [(d.toNat, 20), (a.toNat, 14), (b.toNat, 8), (t.toNat, 5), (k.toNat, 4)])
  | .vadds d a b t k => some (enc 0x30000002 [(d.toNat, 20), (a.toNat, 14), (b.toNat, 8), (t.toNat, 5), (k.toNat, 4)])
  | .vsubs d a b t k => some (enc 0x30000003 [(d.toNat, 20), (a.toNat, 14), (b.toNat, 8), (t.toNat, 5), (k.toNat, 4)])
  | .vmin d a b t k => some (enc 0x30000004 [(d.toNat, 20), (a.toNat, 14), (b.toNat, 8), (t.toNat, 5), (k.toNat, 4)])
  | .vmax d a b t k => some (enc 0x30000005 [(d.toNat, 20), (a.toNat, 14), (b.toNat, 8), (t.toNat, 5), (k.toNat, 4)])
  | .vmul d a b t k => some (enc 0x30000006 [(d.toNat, 20), (a.toNat, 14), (b.toNat, 8), (t.toNat, 5), (k.toNat, 4)])
  | .vmulh d a b t k => some (enc 0x30000007 [(d.toNat, 20), (a.toNat, 14), (b.toNat, 8), (t.toNat, 5), (k.toNat, 4)])
  | .vand d a b t k => some (enc 0x30000008 [(d.toNat, 20), (a.toNat, 14), (b.toNat, 8), (t.toNat, 5), (k.toNat, 4)])
  | .vor d a b t k => some (enc 0x30000009 [(d.toNat, 20), (a.toNat, 14), (b.toNat, 8), (t.toNat, 5), (k.toNat, 4)])
  | .vxor d a b t k => some (enc 0x3000000a [(d.toNat, 20), (a.toNat, 14), (b.toNat, 8), (t.toNat, 5), (k.toNat, 4)])
  | .vandn d a b t k => some (enc 0x3000000b [(d.toNat, 20), (a.toNat, 14), (b.toNat, 8), (t.toNat, 5), (k.toNat, 4)])
  | .vsll d a b t k => some (enc 0x3000000c [(d.toNat, 20), (a.toNat, 14), (b.toNat, 8), (t.toNat, 5), (k.toNat, 4)])
  | .vsrl d a b t k => some (enc 0x3000000d [(d.toNat, 20), (a.toNat, 14), (b.toNat, 8), (t.toNat, 5), (k.toNat, 4)])
  | .vsra d a b t k => some (enc 0x3000000e [(d.toNat, 20), (a.toNat, 14), (b.toNat, 8), (t.toNat, 5), (k.toNat, 4)])
  | .vcmp c a b t k => some (enc 0x3000000f [(c.toNat, 20), (a.toNat, 14), (b.toNat, 8), (t.toNat, 5), (k.toNat, 4)])
  | .vfadd d a b t k => some (enc 0x34000000 [(d.toNat, 20), (a.toNat, 14), (b.toNat, 8), (t.toNat, 5), (k.toNat, 4)])
  | .vfsub d a b t k => some (enc 0x34000001 [(d.toNat, 20), (a.toNat, 14), (b.toNat, 8), (t.toNat, 5), (k.toNat, 4)])
  | .vfmul d a b t k => some (enc 0x34000002 [(d.toNat, 20), (a.toNat, 14), (b.toNat, 8), (t.toNat, 5), (k.toNat, 4)])
  | .vfmin d a b t k => some (enc 0x34000003 [(d.toNat, 20), (a.toNat, 14), (b.toNat, 8), (t.toNat, 5), (k.toNat, 4)])
  | .vfmax d a b t k => some (enc 0x34000004 [(d.toNat, 20), (a.toNat, 14), (b.toNat, 8), (t.toNat, 5), (k.toNat, 4)])
  | .vfdiv d a b t k => some (enc 0x34000005 [(d.toNat, 20), (a.toNat, 14), (b.toNat, 8), (t.toNat, 5), (k.toNat, 4)])
  | .vfsqrt d a t => some (enc 0x34000006 [(d.toNat, 20), (a.toNat, 14), (t.toNat, 5)])
  | .vfrsqrt d a t => some (enc 0x34000007 [(d.toNat, 20), (a.toNat, 14), (t.toNat, 5)])
  | .vfexp2 d a t => some (enc 0x34000008 [(d.toNat, 20), (a.toNat, 14), (t.toNat, 5)])
  | .vflog2 d a t => some (enc 0x34000009 [(d.toNat, 20), (a.toNat, 14), (t.toNat, 5)])
  | .vfneg d a t => some (enc 0x3400000a [(d.toNat, 20), (a.toNat, 14), (t.toNat, 5)])
  | .vfabs d a t => some (enc 0x3400000b [(d.toNat, 20), (a.toNat, 14), (t.toNat, 5)])
  | .vfcmp c a b t k => some (enc 0x3400000c [(c.toNat, 20), (a.toNat, 14), (b.toNat, 8), (t.toNat, 5), (k.toNat, 4)])
  | .vfma d a b t k => some (enc 0x38000000 [(d.toNat, 20), (a.toNat, 14), (b.toNat, 8), (t.toNat, 5), (k.toNat, 4)])
  | .vfnma d a b t k => some (enc 0x38000001 [(d.toNat, 20), (a.toNat, 14), (b.toNat, 8), (t.toNat, 5), (k.toNat, 4)])
  | .vfmsub d a b t k => some (enc 0x38000002 [(d.toNat, 20), (a.toNat, 14), (b.toNat, 8), (t.toNat, 5), (k.toNat, 4)])
  | .vfmaw d a b t k => some (enc 0x38000003 [(d.toNat, 20), (a.toNat, 14), (b.toNat, 8), (t.toNat, 5), (k.toNat, 4)])
  | .vmac d a b t k => some (enc 0x38000004 [(d.toNat, 20), (a.toNat, 14), (b.toNat, 8), (t.toNat, 5), (k.toNat, 4)])
  | .vmacw d a b t k => some (enc 0x38000005 [(d.toNat, 20), (a.toNat, 14), (b.toNat, 8), (t.toNat, 5), (k.toNat, 4)])
  | .vcvt d a r x m c e l => some (enc 0x3c000000 [(d.toNat, 20), (a.toNat, 14), (r.toNat, 11), (x.toNat, 10), (m.toNat, 8), (c.toNat, 5), (e.toNat, 2), (l.toNat, 0)])
  | .vgf2mm d a b => some (enc 0x40000000 [(d.toNat, 20), (a.toNat, 14), (b.toNat, 8)])
  | .vpdep d a b => some (enc 0x40000001 [(d.toNat, 20), (a.toNat, 14), (b.toNat, 8)])
  | .vpext d a b => some (enc 0x40000002 [(d.toNat, 20), (a.toNat, 14), (b.toNat, 8)])
  | .vbperm d a b => some (enc 0x40000003 [(d.toNat, 20), (a.toNat, 14), (b.toNat, 8)])
  | .vpopc d a => some (enc 0x40000004 [(d.toNat, 20), (a.toNat, 14)])
  | .vperm d a b w => some (enc 0x44000000 [(d.toNat, 20), (a.toNat, 14), (b.toNat, 8), (w.toNat, 5)])
  | .vbcast d b w => some (enc 0x44000001 [(d.toNat, 20), (b.toNat, 8), (w.toNat, 5)])
  | .vbcaste d a b w => some (enc 0x44000002 [(d.toNat, 20), (a.toNat, 14), (b.toNat, 8), (w.toNat, 5)])
  | .vslideup d a b w => some (enc 0x44000003 [(d.toNat, 20), (a.toNat, 14), (b.toNat, 8), (w.toNat, 5)])
  | .vslidedn d a b w => some (enc 0x44000004 [(d.toNat, 20), (a.toNat, 14), (b.toNat, 8), (w.toNat, 5)])
  | .vins d a b w => some (enc 0x44000005 [(d.toNat, 20), (a.toNat, 14), (b.toNat, 8), (w.toNat, 5)])
  | .vext d a b w => some (enc 0x44000006 [(d.toNat, 20), (a.toNat, 14), (b.toNat, 8), (w.toNat, 5)])
  | .vilv d a b w => some (enc 0x44000007 [(d.toNat, 20), (a.toNat, 14), (b.toNat, 8), (w.toNat, 5)])
  | .vdilv d a b w => some (enc 0x44000008 [(d.toNat, 20), (a.toNat, 14), (b.toNat, 8), (w.toNat, 5)])
  | .vredsum d a t => some (enc 0x48000000 [(d.toNat, 20), (a.toNat, 14), (t.toNat, 5)])
  | .vredmin d a t => some (enc 0x48000001 [(d.toNat, 20), (a.toNat, 14), (t.toNat, 5)])
  | .vredmax d a t => some (enc 0x48000002 [(d.toNat, 20), (a.toNat, 14), (t.toNat, 5)])
  | .vredand d a t => some (enc 0x48000003 [(d.toNat, 20), (a.toNat, 14), (t.toNat, 5)])
  | .vredor d a t => some (enc 0x48000004 [(d.toNat, 20), (a.toNat, 14), (t.toNat, 5)])
  | .vredxor d a t => some (enc 0x48000005 [(d.toNat, 20), (a.toNat, 14), (t.toNat, 5)])
  | .vfredsum d a t => some (enc 0x48000008 [(d.toNat, 20), (a.toNat, 14), (t.toNat, 5)])
  | .vfredmin d a t => some (enc 0x48000009 [(d.toNat, 20), (a.toNat, 14), (t.toNat, 5)])
  | .vfredmax d a t => some (enc 0x4800000a [(d.toNat, 20), (a.toNat, 14), (t.toNat, 5)])
  | .vfredmaxa d a t => some (enc 0x4800000b [(d.toNat, 20), (a.toNat, 14), (t.toNat, 5)])
  | .qsinit a b => some (enc 0x4c000000 [(a.toNat, 20), (b.toNat, 9)])
  | .hhinit b => some (enc 0x4c000001 [(b.toNat, 9)])
  | .dcinit a b => some (enc 0x4c000002 [(a.toNat, 20), (b.toNat, 9)])
  | .qsadd a b t => some (enc 0x4c000004 [(a.toNat, 14), (b.toNat, 9), (t.toNat, 6)])
  | .hhadd a b t => some (enc 0x4c000005 [(a.toNat, 14), (b.toNat, 9), (t.toNat, 6)])
  | .hhaddw w a b => some (enc 0x4c000146 [(w.toNat, 20), (a.toNat, 14), (b.toNat, 9)])
  | .dcadd a b t => some (enc 0x4c000007 [(a.toNat, 14), (b.toNat, 9), (t.toNat, 6)])
  | .qsmrg a b => some (enc 0x4c000008 [(a.toNat, 20), (b.toNat, 9)])
  | .hhmrg a b => some (enc 0x4c000009 [(a.toNat, 20), (b.toNat, 9)])
  | .dcmrg a b => some (enc 0x4c00000a [(a.toNat, 20), (b.toNat, 9)])
  | .qsquant d a b => some (enc 0x4c00000c [(d.toNat, 20), (a.toNat, 14), (b.toNat, 9)])
  | .hhtop d a b => some (enc 0x4c00000d [(d.toNat, 20), (a.toNat, 14), (b.toNat, 9)])
  | .dcest d b => some (enc 0x4c00000e [(d.toNat, 20), (b.toNat, 9)])
  | .vld d a c i => some (enc 0x50000000 [(d.toNat, 20), (a.toNat, 15), (c.toNat, 12), (i.toNat, 0)])
  | .vldB d a c z i => some (enc 0x50000000 [(d.toNat, 20), (a.toNat, 15), (c.toNat, 12), (z.toNat, 9), (i.toNat, 0)])
  | .vst t a c i => some (enc 0x54000000 [(t.toNat, 20), (a.toNat, 15), (c.toNat, 12), (i.toNat, 0)])
  | .vldg d a c i => some (enc 0x50004000 [(d.toNat, 20), (a.toNat, 15), (c.toNat, 12), (i.toNat, 0)])
  | .vldgB d a c z i => some (enc 0x50004000 [(d.toNat, 20), (a.toNat, 15), (c.toNat, 12), (z.toNat, 9), (i.toNat, 0)])
  | .vstg t a i => some (enc 0x54004000 [(t.toNat, 20), (a.toNat, 15), (i.toNat, 0)])
  | .vgath d a c z v => some (enc 0x58000000 [(d.toNat, 20), (a.toNat, 15), (c.toNat, 12), (z.toNat, 9), (v.toNat, 3)])
  | .vscat t a c z v => some (enc 0x58000000 [(t.toNat, 20), (a.toNat, 15), (c.toNat, 12), (z.toNat, 9), (v.toNat, 3)])
  | .vgathg d a c z v => some (enc 0x58004000 [(d.toNat, 20), (a.toNat, 15), (c.toNat, 12), (z.toNat, 9), (v.toNat, 3)])
  | .vscatg t a z v => some (enc 0x58004000 [(t.toNat, 20), (a.toNat, 15), (z.toNat, 9), (v.toNat, 3)])
  | .mxcall a b n => some (enc 0x5c000000 [(a.toNat, 21), (b.toNat, 16), (n.toNat, 0)])
  | .mxparm a n => some (enc 0x5c000100 [(a.toNat, 21), (n.toNat, 0)])
  | .mxrcfg a b r => some (enc 0x5c000200 [(a.toNat, 21), (b.toNat, 16), (r.toNat, 0)])
  | .mxrpush a r => some (enc 0x5c000300 [(a.toNat, 21), (r.toNat, 0)])
  | .mxrstat d r => some (enc 0x5c000400 [(d.toNat, 21), (r.toNat, 0)])
  | .mxrda a q d => some (enc 0x5c000500 [(a.toNat, 21), (q.toNat, 6), (d.toNat, 0)])
  | .mxwra a q v => some (enc 0x5c000600 [(a.toNat, 21), (q.toNat, 6), (v.toNat, 0)])
  | .mxdset m => some (enc 0x5c000700 [(m.toNat, 0)])
  | .mxdclr m => some (enc 0x5c000800 [(m.toNat, 0)])
  | .mxdrd d => some (enc 0x5c000900 [(d.toNat, 21)])
  | .mxuld a b => some (enc 0x5c000a00 [(a.toNat, 21), (b.toNat, 16)])
  | .ldgeom a n => some (enc 0x60000000 [(a.toNat, 21), (n.toNat, 0)])
  | .stgeom a n => some (enc 0x60000100 [(a.toNat, 21), (n.toNat, 0)])
  | .cpyin a b n o => some (enc 0x60000200 [(a.toNat, 21), (b.toNat, 16), (n.toNat, 4), (o.toNat, 0)])
  | .cpyout a b n => some (enc 0x60000300 [(a.toNat, 21), (b.toNat, 16), (n.toNat, 4)])
  | .cpyloop a b n => some (enc 0x60000400 [(a.toNat, 21), (b.toNat, 16), (n.toNat, 4)])
  | .wtagAll a => some (enc 0x60000500 [(a.toNat, 21)])
  | .wtagAny a => some (enc 0x60000600 [(a.toNat, 21)])
  | .ffr a d => some (enc 0x60000700 [(a.toNat, 21), (d.toNat, 0)])
  | .tcnt a d => some (enc 0x60000800 [(a.toNat, 21), (d.toNat, 0)])
  | .coll a b t => some (enc 0x64000000 [(a.toNat, 21), (b.toNat, 16), (t.toNat, 0)])
  | .crank d b => some (enc 0x64000100 [(d.toNat, 21), (b.toNat, 16)])
  | .crankg d b => some (enc 0x64000180 [(d.toNat, 21), (b.toNat, 16)])
  | .cplan d => some (enc 0x64000200 [(d.toNat, 21)])
  | .send a x => some (enc 0x68000000 [(a.toNat, 21), (x.toNat, 0)])
  | .sendv a v => some (enc 0x68000100 [(a.toNat, 21), (v.toNat, 0)])
  | .recv h b d => some (enc 0x68000200 [(h.toNat, 21), (b.toNat, 16), (d.toNat, 0)])
  | .recvv h b d => some (enc 0x68000300 [(h.toNat, 21), (b.toNat, 16), (d.toNat, 0)])
  | .arrive c => some (enc 0x68000400 [(c.toNat, 0)])
  | .wait c => some (enc 0x68000500 [(c.toNat, 0)])
  | .nstv a m v => some (enc 0x68000600 [(a.toNat, 21), (m.toNat, 16), (v.toNat, 0)])
  | .pcfg a b => some (enc 0x6c000000 [(a.toNat, 21), (b.toNat, 16)])
  | .probe d b p => some (enc 0x6c000100 [(d.toNat, 21), (b.toNat, 16), (p.toNat, 0)])
  | .plook d b p => some (enc 0x6c000200 [(d.toNat, 21), (b.toNat, 16), (p.toNat, 0)])
  | .pinv b => some (enc 0x6c000300 [(b.toNat, 16)])
  | .pinva => some (enc 0x6c000400 [])
  | .haulset a b c => some (enc 0x6c001000 [(a.toNat, 21), (b.toNat, 16), (c.toNat, 0)])
  | .haulend => some (enc 0x6c001100 [])
  | .blaze a => some (enc 0x6c001200 [(a.toNat, 21)])
  | .migrate a b t => some (enc 0x6c001300 [(a.toNat, 21), (b.toNat, 16), (t.toNat, 0)])
  | .haulstat d => some (enc 0x6c001400 [(d.toNat, 21)])
  | .tagset a b => some (enc 0x70000000 [(a.toNat, 21), (b.toNat, 16)])
  | .tagsetz a b => some (enc 0x70000100 [(a.toNat, 21), (b.toNat, 16)])
  | .tagget a d => some (enc 0x70000200 [(a.toNat, 21), (d.toNat, 0)])
  | .dtrace a => some (enc 0x74000000 [(a.toNat, 21)])
  | .lpcrd a d => some (enc 0x74000100 [(a.toNat, 21), (d.toNat, 0)])
  | .dinjA a b => some (enc 0x74000200 [(a.toNat, 21), (b.toNat, 16)])
  | .dinjM a b m => some (enc 0x74000300 [(a.toNat, 21), (b.toNat, 16), (m.toNat, 0)])
  | .dinjgM a b m => some (enc 0x74000304 [(a.toNat, 21), (b.toNat, 16), (m.toNat, 0)])
  | .dbrk => some (enc 0x74000400 [])
  | _ => none

/-- A word of the microprogram store (13 Table 5); `none` for an instruction that is no micro-op. -/
def encodeMicro : Instr → Option Nat
  | .mend => some (enc 0 [(0, 59)])
  | .mpass ra rb xc xp xq fmt ck za => some (enc 0 [(1, 59), (ra.toNat, 55), (rb.toNat, 51), (xc.toNat, 48), (xp.toNat, 45), (xq.toNat, 42), (fmt.toNat, 38), (ck.toNat, 37), (za.toNat, 36)])
  | .mscale ra rb xc xp xq fmt za => some (enc 0 [(2, 59), (ra.toNat, 55), (rb.toNat, 51), (xc.toNat, 48), (xp.toNat, 45), (xq.toNat, 42), (fmt.toNat, 38), (za.toNat, 36)])
  | .mzero xc => some (enc 0 [(3, 59), (xc.toNat, 48)])
  | .mout xc xq fmt sat rm mpr => some (enc 0 [(4, 59), (xc.toNat, 48), (xq.toNat, 42), (fmt.toNat, 38), (sat.toNat, 35), (rm.toNat, 32), (mpr.toNat, 29)])
  | .mckz xc => some (enc 0 [(5, 59), (xc.toNat, 48)])
  | .mckout xc xq mpr => some (enc 0 [(6, 59), (xc.toNat, 48), (xq.toNat, 42), (mpr.toNat, 29)])
  | .mpopMicroOp ra => some (enc 0 [(7, 59), (ra.toNat, 55)])
  | .macc xc xp => some (enc 0 [(8, 59), (xc.toNat, 48), (xp.toNat, 45)])
  | .midle imm => some (enc 0 [(9, 59), (imm.toNat, 0)])
  | .mldi xc sel mpr mpf imm => some (enc 0 [(10, 59), (xc.toNat, 48), (sel.toNat, 26), (mpr.toNat, 29), (mpf.toNat, 27), (imm.toNat, 0)])
  | .maddi xc imm => some (enc 0 [(11, 59), (xc.toNat, 48), (imm.toNat, 0)])
  | .mloop xc => some (enc 0 [(12, 59), (xc.toNat, 48)])
  | .mnext => some (enc 0 [(13, 59)])
  | _ => none

/-- A command entry (09 Table 2); `none` for an instruction that is no command entry. -/
def encodeEntry : Instr → Option Nat
  | .queueNop _ => some (enc 0 [])
  | .launch _ phase desc lid argp => some (enc 1 [(phase.toNat, 16), (desc.toNat, 64), (lid.toNat, 128), (argp.toNat, 192)])
  | .phaseEnd _ last => some (enc 2 [(last.toNat, 16)])
  | .condSkip _ cond n word val mask => some (enc 3 [(cond.toNat, 16), (n.toNat, 32), (word.toNat, 64), (val.toNat, 128), (mask.toNat, 192)])
  | .jump _ off => some (enc 4 [(off.toNat, 64)])
  | .queueCall _ sub => some (enc 5 [(sub.toNat, 64)])
  | .queueReturn _ => some (enc 6 [])
  | .waitValue _ cond word val mask => some (enc 7 [(cond.toNat, 16), (word.toNat, 64), (val.toNat, 128), (mask.toNat, 192)])
  | .writeValue _ commit notify tag word val => some (enc 8 [(commit.toNat, 16), (notify.toNat, 17), (tag.toNat, 32), (word.toNat, 64), (val.toNat, 128)])
  | .checkpoint _ point list => some (enc 9 [(point.toNat, 32), (list.toNat, 64)])
  | .digest _ list result => some (enc 10 [(list.toNat, 64), (result.toNat, 128)])
  | _ => none

/-- The words of an instruction: one 32-bit syllable with S as given, a 64-bit store word, a 256-bit entry, or
nothing for an event. -/
def encode (stop : Bool) (i : Instr) : List (Nat × Nat) :=
  match encodeOp i, encodeMicro i, encodeEntry i with
  | some w, _, _ => [(32, w + if stop then 2 ^ 31 else 0)]
  | _, some w, _ => [(64, w)]
  | _, _, some w => [(256, w)]
  | _, _, _ => []

/-- The instruction that the decoder reads from a word of `nbits` bits, numbered as spec/opcode_table.json
numbers them. Only syllables have bits there. -/
noncomputable def decodeTableWord (nbits w : Nat) : Option Instr :=
  if nbits = 32 then decodeOp w else none

end Sys2Proof
end

