-- ==== Sys2Proof/Machine/Bits.lean ====
section
/-! DEFINITION. Bits, elements and bytes: the views of a register that 05 R142 gives, little-endian bytes (00 R4),
and the coin function of 02 R69. Element values are natural numbers below 2^w. -/
namespace Sys2Proof.Machine

/-- x read as a two's complement integer of `w` bits (04 R113). -/
def toSigned (w x : Nat) : Int := if x < 2 ^ (w - 1) then (x : Int) else (x : Int) - 2 ^ w

/-- An integer modulo 2^w. -/
def wrap (w : Nat) (i : Int) : Nat := (i % (2 ^ w : Int)).toNat

/-- The `w` low bits of x, sign-extended to 64 bits. -/
def sext (w x : Nat) : Word := BitVec.ofInt 64 (toSigned w (x % 2 ^ w))

/-- An element read by type: signed or unsigned. -/
def readEl (signed : Bool) (w x : Nat) : Int := if signed then toSigned w x else (x : Int)

/-- The smallest and largest values of an integer type (02 R49). -/
def intMin (signed : Bool) (w : Nat) : Int := if signed then -(2 ^ (w - 1)) else 0
def intMax (signed : Bool) (w : Nat) : Int := if signed then 2 ^ (w - 1) - 1 else 2 ^ w - 1

/-- The `n` elements of width `w` of the string `v`, element 0 first (05 R142). -/
def els (w : Nat) : Nat → Nat → List Nat
  | 0, _ => []
  | n + 1, v => v % 2 ^ w :: els w n (v / 2 ^ w)

/-- The string that the elements make. -/
def ofEls (w : Nat) : List Nat → Nat
  | [] => 0
  | x :: xs => x % 2 ^ w + 2 ^ w * ofEls w xs

/-- Element `i` of width `w` (05 R142). -/
def el (v w i : Nat) : Nat := v / 2 ^ (w * i) % 2 ^ w

/-- Little-endian bytes of a value, and their value (00 R4). -/
def toBytes (n : Nat) (v : Nat) : List Byte := (els 8 n v).map (BitVec.ofNat 8)
def ofBytes (bs : List Byte) : Nat := ofEls 8 (bs.map BitVec.toNat)

/-- Activity of the elements of width `w`: bit i x w / 4 of the top entry (01 R26). -/
def actives (w : Nat) (top : MaskEntry) : List Bool :=
  (List.range (4096 / w)).map fun i => top.getLsbD (i * w / 4)

/-- The bits of the active elements. -/
def enables (w : Nat) (act : List Bool) : VReg :=
  BitVec.ofNat 4096 (ofEls w (act.map fun a => if a then 2 ^ w - 1 else 0))

/-- A register built from element values. -/
def vreg (w : Nat) (xs : List Nat) : VReg := BitVec.ofNat 4096 (ofEls w xs)

/-- The bits of `old` where `en` is 0 and of `val` where it is 1 (01 R27). -/
def blend {n : Nat} (en val old : BitVec n) : BitVec n := (val &&& en) ||| (old &&& ~~~en)

/-- Number of 1 bits of the `n` low bits. -/
def popcount : Nat → Nat → Nat
  | 0, _ => 0
  | n + 1, x => x % 2 + popcount n (x / 2)

/-- Number of bits of x: 0 for 0, else 1 + floor(log2 x). -/
def bitLen (x : Nat) : Nat := if x = 0 then 0 else Nat.log2 x + 1

/-- Bits of x in reverse order, of width w. -/
def revBits (w x : Nat) : Nat := ofEls 1 (els 1 w x).reverse

def trailing : Nat → Nat → Nat
  | 0, _ => 0
  | n + 1, x => if x % 2 = 1 then 0 else 1 + trailing n (x / 2)

/-- Field [hi:lo] of a record. -/
def bits (w : Nat) (hi lo : Nat) : Nat := w / 2 ^ lo % 2 ^ (hi - lo + 1)

/-- mix64 of 02 R69. -/
def mix64 (z : Word) : Word :=
  let z := z ^^^ (z >>> 31)
  let z := z * 0xD6E8FEB86659FD93#64
  let z := z ^^^ (z >>> 29)
  let z := z * 0xB29DC3A41F0E6C55#64
  z ^^^ (z >>> 32)

/-- coin of 02 R69. -/
def coin (seed i : Word) : Word := mix64 (mix64 seed + i * 0x9F1C3B2D6E85A4C7#64)

/-- Insertion sort by a total order given as "at most". -/
def insertBy {α : Type} (le : α → α → Bool) (x : α) : List α → List α
  | [] => [x]
  | y :: ys => if le x y then x :: y :: ys else y :: insertBy le x ys

def sortBy {α : Type} (le : α → α → Bool) : List α → List α
  | [] => []
  | x :: xs => insertBy le x (sortBy le xs)

/-- The elements at even and odd places. -/
def evens {α : Type} : List α → List α
  | [] => []
  | [x] => [x]
  | x :: _ :: xs => x :: evens xs

def odds {α : Type} : List α → List α
  | [] => []
  | [_] => []
  | _ :: y :: xs => y :: odds xs

/-- Lists cut into pieces of n. -/
def pieces {α : Type} (n : Nat) : Nat → List α → List (List α)
  | 0, _ => []
  | k + 1, xs => xs.take n :: pieces n k (xs.drop n)

end Sys2Proof.Machine
end

