-- ==== Sys2Proof/Machine/Fp.lean ====
section
/-! DEFINITION. Floating point: decoding and encoding of the formats, rounding once with its flags, and the exact
operations (02 R52 to R57, R63 to R70, R77, R78). Values are exact: a sign, a natural number m and a power e,
with a "sticky" mark where a non-zero part below m x 2^e has been cut off. -/
namespace Sys2Proof.Machine

/-- FLAGS bits (02 Table 5). -/
def flNV : Flg := 1
def flOF : Flg := 2
def flSA : Flg := 4
def flUF : Flg := 8
def flNX : Flg := 16
def flRC : Flg := 32
def flMF : Flg := 64

/-- A floating-point format (02 Table 1). -/
structure Fmt where
  eb : Nat
  fb : Nat
  hasInf : Bool
  deriving DecidableEq, Repr

def Fmt.width (f : Fmt) : Nat := 1 + f.eb + f.fb
def Fmt.bias (f : Fmt) : Nat := 2 ^ (f.eb - 1) - 1
/-- Exponent of the last place of a subnormal. -/
def Fmt.emin (f : Fmt) : Int := 1 - (f.bias : Int) - f.fb
/-- Code of the largest finite magnitude. -/
def Fmt.maxCode (f : Fmt) : Nat := if f.hasInf then (2 ^ f.eb - 1) * 2 ^ f.fb - 1 else 2 ^ (f.eb + f.fb) - 2
def Fmt.infCode (f : Fmt) : Nat := (2 ^ f.eb - 1) * 2 ^ f.fb
/-- The canonical NaN (02 R55). -/
def Fmt.nan (f : Fmt) : Nat := if f.hasInf then f.infCode + 2 ^ (f.fb - 1) else 2 ^ (f.eb + f.fb) - 1
def Fmt.signBit (f : Fmt) (neg : Bool) : Nat := if neg then 2 ^ (f.eb + f.fb) else 0

def F64 : Fmt := ⟨11, 52, true⟩
def F32 : Fmt := ⟨8, 23, true⟩
def F16 : Fmt := ⟨5, 10, true⟩
def BF16 : Fmt := ⟨8, 7, true⟩
def E4M3 : Fmt := ⟨4, 3, false⟩
def E5M2 : Fmt := ⟨5, 2, true⟩

/-- Floating element types (03 Table 4). -/
def fmtOf (t : BitVec 3) : Fmt :=
  match t.toNat with | 0 => F32 | 1 => BF16 | 2 => F16 | 3 => E4M3 | 4 => E5M2 | _ => F64
/-- Types of major 4 (04 R121). -/
def fmtOfScalar (t : BitVec 2) : Fmt :=
  match t.toNat with | 0 => F64 | 1 => F32 | 2 => F16 | _ => BF16

/-- The value of a code (02 R53, R54): a NaN, an infinity, or (-1)^neg x m x 2^e. -/
inductive FVal where
  | nan (signalling : Bool)
  | inf (neg : Bool)
  | fin (neg : Bool) (m : Nat) (e : Int)
  deriving DecidableEq, Repr

def fdecode (f : Fmt) (x : Nat) : FVal :=
  let x := x % 2 ^ f.width
  let neg := decide (2 ^ (f.eb + f.fb) ≤ x)
  let mag := x % 2 ^ (f.eb + f.fb)
  let e := mag / 2 ^ f.fb
  let m := mag % 2 ^ f.fb
  if f.hasInf && e == 2 ^ f.eb - 1 then
    if m == 0 then .inf neg else .nan (decide (m < 2 ^ (f.fb - 1)))
  else if !f.hasInf && mag == 2 ^ (f.eb + f.fb) - 1 then .nan false
  else if e == 0 then .fin neg m f.emin
  else .fin neg (m + 2 ^ f.fb) (f.emin + (e - 1))

/-- How a result is rounded: a mode of 02 R63, or stochastically with the upper 32 bits of a coin (02 R70). -/
inductive Rnd where
  | rne | rtz | rup | rdn
  | sr (u : Nat)
  deriving DecidableEq, Repr

/-- A mode code 0 to 3 (02 Table 3). -/
def rndOf (m : Nat) : Rnd := match m with | 0 => .rne | 1 => .rtz | 2 => .rup | _ => .rdn

/-- Whether the cut-off part, rem of 2^sh with a sticky mark, rounds the magnitude up (02 R65, R70). -/
def roundsUp (r : Rnd) (neg : Bool) (odd : Bool) (rem sh : Nat) (sticky : Bool) : Bool :=
  match r with
  | .rne => decide (2 ^ sh < 2 * rem) || (decide (2 ^ sh = 2 * rem) && (sticky || odd))
  | .rtz => false
  | .rup => !neg && (decide (0 < rem) || sticky)
  | .rdn => neg && (decide (0 < rem) || sticky)
  -- a and b are the neighbours below and above x: for a negative x the magnitude falls when u < d
  | .sr u =>
    if neg then decide (2 ^ sh * u ≥ (2 ^ sh - rem) * 2 ^ 32) && (decide (0 < rem) || sticky)
    else decide (u * 2 ^ sh < rem * 2 ^ 32) || (decide (u * 2 ^ sh = rem * 2 ^ 32) && sticky)

/-- The value IEEE 754 gives an overflow, as a code, with its flags (02 R66). -/
def overflowCode (f : Fmt) (r : Rnd) (neg sat : Bool) : Nat × Flg :=
  if sat then (f.signBit neg + f.maxCode, flSA ||| flNX)
  else
    let toInf := match r with | .rne => true | .rtz => false | .rup => !neg | .rdn => neg | .sr _ => true
    if toInf then (if f.hasInf then f.signBit neg + f.infCode else f.nan, flOF ||| flNX)
    else (f.signBit neg + f.maxCode, flOF ||| flNX)

/-- Whether the coin of a stochastic rounding takes the value one step above the largest finite magnitude, on the grid of
unbounded exponents, down to that magnitude (02 R70): the value is not representable, `a` and `b` are its neighbours on
that grid, and the one nearer zero lies half as far off where the value is a power of two (`pow`). -/
def coinBelow (r : Rnd) (neg pow : Bool) : Bool :=
  let near := if pow then 1 else 2
  match r with
  | .sr u => if neg then decide (u * (near + 2) < 2 * 2 ^ 32) else decide (near * 2 ^ 32 ≤ u * (near + 2))
  | _ => false

/-- The exact value (-1)^neg x (m + part) x 2^e rounded once to `f`, where part is 0, or strictly between 0 and 1
when `sticky` (02 R65 to R67, R70). A zero keeps the sign given. -/
def fround (f : Fmt) (r : Rnd) (sat neg : Bool) (m : Nat) (e : Int) (sticky : Bool := false) : Nat × Flg :=
  if m = 0 && !sticky then (f.signBit neg, 0) else
  -- work on m with 3 more bits than the format holds, so that a sticky part lies below the last place
  let pad := f.fb + 4 - min (f.fb + 4) (bitLen m)
  let m := m * 2 ^ pad
  let e := e - pad
  let len : Int := bitLen m
  let q := max (e + len - (f.fb + 1)) f.emin
  let tiny := decide (e + len ≤ f.emin + f.fb)
  let sh := (q - e).toNat
  let lift := (e - q).toNat
  let sig := m * 2 ^ lift / 2 ^ sh
  let rem := m * 2 ^ lift % 2 ^ sh
  let inexact := decide (0 < rem) || sticky
  let sig := if roundsUp r neg (sig % 2 == 1) rem sh sticky then sig + 1 else sig
  let code := if sig < 2 ^ f.fb then sig else (q - f.emin).toNat * 2 ^ f.fb + sig
  if code = f.maxCode + 1 && !inexact && coinBelow r neg (sig == 2 ^ f.fb) then (f.signBit neg + f.maxCode, flNX)
  else if f.maxCode < code then overflowCode f r neg sat
  else (f.signBit neg + code, (if inexact then flNX else 0) ||| (if inexact && tiny then flUF else 0))

/-- Rounding of a value; a NaN gives the canonical NaN and sets NV when signalling (02 R55, R57). -/
def fput (f : Fmt) (r : Rnd) (v : FVal) : Nat × Flg :=
  match v with
  | .nan s => (f.nan, if s then flNV else 0)
  | .inf neg => (f.signBit neg + f.infCode, 0)
  | .fin neg m e => fround f r false neg m e

def FVal.isSNaN : FVal → Bool | .nan true => true | _ => false
def FVal.isNaN : FVal → Bool | .nan _ => true | _ => false

/-- Invalid: the canonical NaN with NV (02 R57). -/
def finvalid (f : Fmt) : Nat × Flg := (f.nan, flNV)

/-- A NaN operand's result (02 R57). -/
def fnanOf (f : Fmt) (xs : List FVal) : Nat × Flg := (f.nan, if xs.any FVal.isSNaN then flNV else 0)

/-- Exact signed sum of two finite values: its integer at the lower power. -/
def addExact (n1 : Bool) (m1 : Nat) (e1 : Int) (n2 : Bool) (m2 : Nat) (e2 : Int) : Int × Int :=
  let e := min e1 e2
  let a : Int := m1 * 2 ^ (e1 - e).toNat
  let b : Int := m2 * 2 ^ (e2 - e).toNat
  ((if n1 then -a else a) + (if n2 then -b else b), e)

/-- Rounding of an exact sum; an exact zero of operands of opposite sign is +0, or -0 in RDN (02 R57). -/
def froundSum (f : Fmt) (r : Rnd) (n1 n2 : Bool) (s : Int × Int) : Nat × Flg :=
  if s.1 = 0 then (f.signBit (if n1 == n2 then n1 else r == .rdn), 0)
  else fround f r false (decide (s.1 < 0)) s.1.natAbs s.2

/-- a + b rounded once. -/
def faddV (f : Fmt) (r : Rnd) (a b : FVal) : Nat × Flg :=
  match a, b with
  | .nan _, _ => fnanOf f [a, b]
  | _, .nan _ => fnanOf f [a, b]
  | .inf x, .inf y => if x == y then (f.signBit x + f.infCode, 0) else finvalid f
  | .inf x, _ => (f.signBit x + f.infCode, 0)
  | _, .inf y => (f.signBit y + f.infCode, 0)
  | .fin n1 m1 e1, .fin n2 m2 e2 => froundSum f r n1 n2 (addExact n1 m1 e1 n2 m2 e2)

def FVal.neg : FVal → FVal
  | .nan s => .nan s
  | .inf n => .inf (!n)
  | .fin n m e => .fin (!n) m e

/-- a x b as a value: exact, or a NaN, with `invalid` for infinity x 0. -/
def fmulV (a b : FVal) : FVal × Bool :=
  match a, b with
  | .nan s, .nan t => (.nan (s || t), false)
  | .nan s, _ => (.nan s, false)
  | _, .nan t => (.nan t, false)
  | .inf x, .inf y => (.inf (x != y), false)
  | .inf x, .fin y m _ => if m = 0 then (.nan false, true) else (.inf (x != y), false)
  | .fin x m _, .inf y => if m = 0 then (.nan false, true) else (.inf (x != y), false)
  | .fin x m e, .fin y k d => (.fin (x != y) (m * k) (e + d), false)

def fmulR (f : Fmt) (r : Rnd) (a b : FVal) : Nat × Flg :=
  let (p, inv) := fmulV a b
  if inv then finvalid f else fput f r p

/-- round(a x b + c): infinity x 0 is invalid whatever c is (05 R154). -/
def ffmaR (f : Fmt) (r : Rnd) (a b c : FVal) : Nat × Flg :=
  let (p, inv) := fmulV a b
  if inv then finvalid f
  else if a.isNaN || b.isNaN || c.isNaN then fnanOf f [a, b, c]
  else faddV f r p c

/-- a / b (02 R57, R77, R78). -/
def fdivR (f : Fmt) (r : Rnd) (a b : FVal) : Nat × Flg :=
  match a, b with
  | .nan _, _ => fnanOf f [a, b]
  | _, .nan _ => fnanOf f [a, b]
  | .inf _, .inf _ => finvalid f
  | .inf x, .fin y _ _ => (f.signBit (x != y) + f.infCode, 0)
  | .fin x _ _, .inf y => (f.signBit (x != y), 0)
  | .fin x m e, .fin y k d =>
    if k = 0 then if m = 0 then finvalid f else (f.signBit (x != y) + f.infCode, flOF)
    else
      let sh := 2 * f.fb + 8 + bitLen k
      let q := m * 2 ^ sh / k
      fround f r false (x != y) q (e - d - sh) (decide (m * 2 ^ sh % k ≠ 0))

/-- floor(sqrt n), by Newton's steps from above; `fuel` bounds them. -/
def isqrtGo (n : Nat) : Nat → Nat → Nat
  | 0, x => x
  | k + 1, x => let y := (x + n / x) / 2; if y < x then isqrtGo n k y else x

def isqrt (n : Nat) : Nat := if n = 0 then 0 else isqrtGo n (bitLen n + 8) (2 ^ ((bitLen n + 1) / 2))

/-- sqrt (02 Table 6). -/
def fsqrtR (f : Fmt) (r : Rnd) (a : FVal) : Nat × Flg :=
  match a with
  | .nan _ => fnanOf f [a]
  | .inf neg => if neg then finvalid f else (f.infCode, 0)
  | .fin neg m e =>
    if m = 0 then (f.signBit neg, 0)
    else if neg then finvalid f
    else
      let sh := 2 * (f.fb + 4) + (if e % 2 = 0 then 0 else 1)
      let n := m * 2 ^ sh
      let q := isqrt n
      fround f r false false q ((e - sh) / 2) (decide (q * q ≠ n))

/-- 1 / sqrt (02 Table 6). -/
def frsqrtR (f : Fmt) (r : Rnd) (a : FVal) : Nat × Flg :=
  match a with
  | .nan _ => fnanOf f [a]
  | .inf neg => if neg then finvalid f else (0, 0)
  | .fin neg m e =>
    if m = 0 then (f.signBit neg + f.infCode, flOF)
    else if neg then finvalid f
    else
      -- 1 / sqrt(m 2^e) = sqrt(2^k / m) 2^(-(k + e) / 2) with k + e even
      let k0 := 2 * (f.fb + 8) + bitLen m
      let k := if ((k0 : Int) + e) % 2 = 0 then k0 else k0 + 1
      let q := isqrt (2 ^ k / m)
      fround f r false false q (-((k : Int) + e) / 2) (decide (q * q * m ≠ 2 ^ k))

/-- Working precision of exp2 and log2 in bits. -/
def wp : Nat := 400

/-- 2^(2^-i), for i from 1, as fixed point of `wp` bits: repeated square roots of 2. -/
def exp2Go : Nat → Nat → Nat → Nat → Nat
  | 0, _, _, acc => acc
  | k + 1, root, frac, acc =>
    -- frac holds the fraction bits still to take, the top one first, k + 1 of them
    let acc := if 2 ^ k ≤ frac then acc * root / 2 ^ wp else acc
    exp2Go k (isqrt (root * 2 ^ wp)) (frac % 2 ^ k) acc

/-- exp2 (02 R77, R78): exact for an integer; else the product over the fraction's bits, whose error lies far
below the last place kept. -/
def fexp2R (f : Fmt) (r : Rnd) (a : FVal) : Nat × Flg :=
  match a with
  | .nan _ => fnanOf f [a]
  | .inf neg => if neg then (0, 0) else (f.infCode, 0)
  | .fin neg m e =>
    if m = 0 then fround f r false false 1 0
    else if (bitLen m : Int) + e > 16 then
      if neg then fround f r false false 1 (-100000) true else fround f r false false 1 100000 true
    else if (bitLen m : Int) + e < -90 then
      -- |x| < 2^-90: between 1 and its neighbour
      if neg then fround f r false false (2 ^ 300 - 1) (-300) true else fround f r false false 1 0 true
    else
      let k := (-(e : Int)).toNat
      let num : Int := (if neg then -1 else 1) * ((m * 2 ^ (e.toNat) : Nat) : Int)
      let n := num / (2 ^ k : Int)
      let frac := (num % (2 ^ k : Int)).toNat
      if frac = 0 then fround f r false false 1 n
      else fround f r false false (exp2Go k (isqrt (2 * 2 ^ (2 * wp))) frac (2 ^ wp)) (n - wp) true

/-- The first `k` fraction bits of log2 y, for y in [1, 2) as fixed point of 2 wp bits, by repeated squaring. -/
def log2Go : Nat → Nat → Nat → Nat
  | 0, _, acc => acc
  | k + 1, y, acc =>
    let y := y * y / 2 ^ (2 * wp)
    if 2 ^ (2 * wp + 1) ≤ y then log2Go k (y / 2) (2 * acc + 1) else log2Go k y (2 * acc)

/-- log2 (02 R77, R78): exact for a power of two; else 256 fraction bits with a part below them. -/
def flog2R (f : Fmt) (r : Rnd) (a : FVal) : Nat × Flg :=
  match a with
  | .nan _ => fnanOf f [a]
  | .inf neg => if neg then finvalid f else (f.infCode, 0)
  | .fin neg m e =>
    if m = 0 then (f.signBit true + f.infCode, flOF)
    else if neg then finvalid f
    else
      let n := e + (bitLen m : Int) - 1
      if m = 2 ^ (bitLen m - 1) then fround f r false (decide (n < 0)) n.natAbs 0
      else
        let l := log2Go 256 (m * 2 ^ (2 * wp - (bitLen m - 1))) 0
        let v : Int := n * 2 ^ 256 + l
        if 0 ≤ v then fround f r false false v.toNat (-256) true
        else fround f r false true (-v - 1).toNat (-256) true

/-- Order of two values that are not NaN: -1, 0 or 1; zeros are equal. -/
def fcmpV (a b : FVal) : Int :=
  match a, b with
  | .inf x, .inf y => if x == y then 0 else if x then -1 else 1
  | .inf x, _ => if x then -1 else 1
  | _, .inf y => if y then 1 else -1
  | .fin n1 m1 e1, .fin n2 m2 e2 => (addExact n1 m1 e1 (!n2) m2 e2).1.sign
  | _, _ => 0

/-- Order with -0 below +0 (04 R123). -/
def fless (a b : FVal) : Bool :=
  let c := fcmpV a b
  let neg : FVal → Bool := fun v => match v with | .fin n _ _ => n | .inf n => n | .nan _ => false
  decide (c < 0) || (decide (c = 0) && neg a && !neg b)

/-- FMIN and FMAX (04 R123), on codes of `f`. -/
def fminmax (f : Fmt) (mx : Bool) (x y : Nat) : Nat × Flg :=
  let a := fdecode f x
  let b := fdecode f y
  let fl := if a.isSNaN || b.isSNaN then flNV else 0
  if a.isNaN && b.isNaN then (f.nan, fl)
  else if a.isNaN then (y % 2 ^ f.width, fl)
  else if b.isNaN then (x % 2 ^ f.width, fl)
  else if (if mx then fless a b else fless b a) then (y % 2 ^ f.width, fl) else (x % 2 ^ f.width, fl)

/-- A comparison of 05 R153: condition c, with the flag it raises. -/
def fcompare (f : Fmt) (c : Nat) (x y : Nat) : Bool × Flg :=
  let a := fdecode f x
  let b := fdecode f y
  let un := a.isNaN || b.isNaN
  let sn := a.isSNaN || b.isSNaN
  let o := fcmpV a b
  let ordered := decide (2 ≤ c ∧ c ≤ 5)
  let t := match c with
    | 0 => !un && decide (o = 0)
    | 1 => un || decide (o ≠ 0)
    | 2 => !un && decide (o < 0)
    | 3 => !un && decide (o ≤ 0)
    | 4 => !un && decide (0 < o)
    | 5 => !un && decide (0 ≤ o)
    | _ => un
  (t, if sn || (un && ordered) then flNV else 0)

/-- Conversion between floating formats (02 R66 to R68, R70); `sat` acts for E4M3 and E5M2 and, with MF set by the
caller, for the others. -/
def fconvert (src dst : Fmt) (r : Rnd) (sat : Bool) (x : Nat) : Nat × Flg :=
  match fdecode src x with
  | .nan s => (dst.nan, if s then flNV else 0)
  | .inf neg =>
    if sat then (dst.signBit neg + dst.maxCode, flSA ||| flNX)
    else if dst.hasInf then (dst.signBit neg + dst.infCode, 0) else (dst.nan, flNV)
  | .fin neg m e => fround dst r sat neg m e

/-- An exact value rounded to an integer, and whether it is inexact (02 R65). -/
def roundInt (r : Rnd) (neg : Bool) (m : Nat) (e : Int) : Int × Bool :=
  let sh := (-e).toNat
  let m := m * 2 ^ e.toNat
  let q := m / 2 ^ sh
  let rem := m % 2 ^ sh
  let q := if roundsUp r neg (q % 2 == 1) rem sh false then q + 1 else q
  (if neg then -(q : Int) else q, decide (0 < rem))

/-- Conversion to an integer type (02 R68). -/
def ftoInt (src : Fmt) (r : Rnd) (signed : Bool) (w x : Nat) : Nat × Flg :=
  match fdecode src x with
  | .nan _ => (0, flNV)
  | .inf neg => (wrap w (if neg then intMin signed w else intMax signed w), flNV)
  | .fin neg m e =>
    -- above 2^80 no integer type holds the value
    if m ≠ 0 ∧ (bitLen m : Int) + e > 80 then (wrap w (if neg then intMin signed w else intMax signed w), flNV)
    else if (bitLen m : Int) + e < -80 ∧ m ≠ 0 then
      let (i, _) := roundInt r neg 1 (-80)
      if i < intMin signed w then (wrap w (intMin signed w), flNV) else (wrap w i, flNX)
    else
      let (i, nx) := roundInt r neg m e
      if i < intMin signed w then (wrap w (intMin signed w), flNV)
      else if intMax signed w < i then (wrap w (intMax signed w), flNV)
      else (wrap w i, if nx then flNX else 0)

/-- Conversion from an integer (02 R68). -/
def fofInt (dst : Fmt) (r : Rnd) (sat : Bool) (i : Int) : Nat × Flg :=
  fround dst r sat (decide (i < 0)) i.natAbs 0

/-- The binary64 code of an exact value, for values that binary64 holds exactly. -/
def f64Of (v : FVal) : Nat := (fput F64 .rne v).1

/-- Widening to binary64, with NV for a signalling NaN (02 R68). -/
def widen64 (f : Fmt) (x : Nat) : Nat × Flg := fconvert f F64 .rne false x

def add64 (x y : Nat) : Nat × Flg := faddV F64 .rne (fdecode F64 x) (fdecode F64 y)
def add32 (x y : Nat) : Nat × Flg := faddV F32 .rne (fdecode F32 x) (fdecode F32 y)

/-- A pairwise tree of adds over a list whose length is a power of two (02 R79, 05 R165). -/
def pairwise (add : Nat → Nat → Nat × Flg) : List Nat → List Nat × Flg
  | a :: b :: xs => let (r, f) := add a b; let (rs, g) := pairwise add xs; (r :: rs, f ||| g)
  | [a] => ([a], 0)
  | [] => ([], 0)

def treeSum (add : Nat → Nat → Nat × Flg) : Nat → List Nat × Flg → Nat × Flg
  | 0, (xs, f) => (xs.headD 0, f)
  | k + 1, (xs, f) => let (ys, g) := pairwise add xs; treeSum add k (ys, f ||| g)

/-- Whether a code of a block-integer format is its reserved code (02 Table 2): width w. -/
def mxReserved (w c : Nat) : Bool := c == 2 ^ (w - 1)

/-- F of 02 Table 2 for an element width. -/
def mxF (w : Nat) : Nat := w - 2

end Sys2Proof.Machine
end

