-- ==== Sys2Proof/Machine/State.lean ====
section
/-! DEFINITION. The state of one NQV-256 package as plain data, and the state after package reset.

`State` is a focus: the stream that the next syllable belongs to, the other stream of the same core, that core,
the other cores that hold a task, and the package. INVENTORY.md lists every field with the rule that names it. -/
namespace Sys2Proof.Machine

/-- Why a step of the model can stop for good. -/
inductive Fault where
  /-- Raised by `step` alone, for an input that no agent of the spec can give (a syllable standing in the inbox, a
  core number above 255). Safe: no claim about a run of the device passes through it. -/
  | badInput
  deriving DecidableEq, Repr

/-- Why the model gives an instruction no meaning. -/
inductive Refusal where
  /-- Raised by an arm of `exec` whose instruction has no meaning yet, with its mnemonic. Safe. -/
  | notModelled (mnemonic : String)
  deriving DecidableEq, Repr

/-- Bytes by address, in the canonical form of `Memory.wf` (Machine/Ops.lean): strictly rising addresses, no 0 byte. -/
abbrev Memory := List Host.Cell

/-- A fault, a pre-emption or a breakpoint as `trap(code, sub)` gives it, with the fields of 18 Table 2. -/
structure Trap where
  code : BitVec 8
  sub : BitVec 16 := 0
  va : Word := 0
  cmd : Option Word := none
  aux0 : Word := 0
  aux1 : Word := 0
  defer : Bool := false
  deriving DecidableEq, Repr

/-- The record that a precise stop posts (18 R419): the cause, the bundle it stopped before and its lc, and the
retag journal entries of fault 0x0D. -/
structure StopRec where
  trap : Trap
  baddr : Word
  lc : BitVec 48
  retag : List (BitVec 256) := []
  deriving DecidableEq, Repr

/-- A change of the mask stack, which acts as a whole at its landing lc (04 R135, 05 R151). -/
inductive MaskOp where
  | push (e : MaskEntry) | dup | pop | and | or | xor | andn | not | els
  deriving DecidableEq, Repr

/-- An entry of a stream's binding table (11 Table 1). -/
structure Binding where
  slot : Nat
  kind : BitVec 3
  regionGlobal : Bool
  objGlobal : Bool
  scope : BitVec 3
  exp : Int
  base : Word
  bytes : Word
  obj : Word
  deriving DecidableEq, Repr

/-- What a result changes when it lands. -/
inductive Target where
  | x (r : BitVec 5) (v : Word)
  | p (r : BitVec 4) (v : Bool)
  | csr (c : BitVec 8) (v : Word)
  /-- A vector register with its bit enables: inactive elements keep the value they hold at landing (01 R27). -/
  | v (r : BitVec 6) (en val : VReg)
  | mask (op : MaskOp)
  | mp (n : BitVec 3) (v : Word)
  | g (n : BitVec 4) (v : BitVec 1024)
  /-- FFR clears its tag's bit at issue + 1 (14 R388). -/
  | idleTag (t : BitVec 6)
  /-- BIND and UNBIND change the binding table from issue + 1 (11 R317). -/
  | binds (clear : BitVec 16) (add : List Binding)
  | none
  deriving DecidableEq, Repr

/-- A result on its way: what it changes, how many lc are left until it lands, the flags it sets at its landing, the
clock at which its bytes have arrived, a fault to raise at the bundle of its landing lc, and the bundle that issued
it (01 R21, R45; 10 R282). -/
structure Pending where
  target : Target
  left : Nat
  flags : Flg := 0
  arrive : Nat := 0
  fault : Option Trap := none
  baddr : Word := 0
  /-- Key slots of the pages a late reply comes from, with the address read in each (22 R500). -/
  keys : List (Nat × Word) := []
  /-- The requests to peer packages: the first address of each and the port that carries it (21 R467). -/
  peers : List (Word × Nat) := []
  deriving DecidableEq, Repr

/-- An entry of the loop stack (04 R128, 18 Table 5a) with its profile counters (20 R452). -/
structure Loop where
  body : Word
  last : Word
  rem : Nat
  n : Nat
  s : Nat
  rot : Bool
  lc : Nat := 0
  used : List Nat := [0, 0, 0, 0, 0, 0, 0, 0]
  frozen : Nat := 0
  deriving DecidableEq, Repr

/-- Where a global byte is served: tier 0 device memory, tier 1 host memory, tier 2 a peer's device memory with
the package number in bits [49:40] (10 R266). -/
structure PAddr where
  tier : BitVec 2
  addr : Nat
  /-- Key slot of the page through which it was translated, 0 for none, and the identity of the key that the slot held
  then (22 R497). -/
  key : Nat := 0
  kid : Nat := 0
  deriving DecidableEq, Repr

/-- What a global write or atomic without a result changes when it is performed (11 R293). -/
inductive GEffect where
  | bytes (cells : List (PAddr × Byte))
  | keys (cells : List (Nat × BitVec 4))
  /-- An atomic of 11 Table 5 on `w` bytes with its data. -/
  | atomic (loc : PAddr) (op : BitVec 4) (w : Nat) (data : Nat)
  /-- An update of a barrier object in device memory (11 R302). -/
  | update (loc : PAddr) (bytes : Nat) (arr : Nat)
  deriving DecidableEq, Repr

/-- A global write or atomic issued and not yet performed, and the clock at which it is. -/
structure GOp where
  eff : GEffect
  due : Nat
  /-- The lc of its bundle, as `Core.issue` counts them: a bundle does not wait for its own effects (01 R17). -/
  lc : Nat := 0
  /-- A release, and the address of an acquire, of an atomic without a result (11 R297; 08 R218). -/
  rel : Bool := false
  acq : Option Word := none
  /-- The regions bound to the acquire's object at its issue: global or not, base and bytes (11 R297). -/
  bound : List (Bool × Nat × Nat) := []
  /-- The tagged copy, or the haul action, whose write this is. -/
  tag : Option (BitVec 6) := none
  act : Option Nat := none
  /-- The place of an action that has started and not begun (15 R399): `eff` are the bytes that later writes of the
  stream have overtaken. -/
  place : Bool := false
  deriving DecidableEq, Repr

inductive Mode where
  /-- No task bound. -/
  | idle
  | running
  /-- END has issued and the stream's work goes on (04 R139). -/
  | ended
  /-- The stream has completed. -/
  | done
  /-- Stopped precisely before a bundle (01 R44). -/
  | stopped
  deriving DecidableEq, Repr

/-- The state that each stream has for itself (08 Table 5, first row). -/
structure Stream where
  sec : Bool
  mode : Mode
  pc : Word
  lcc : BitVec 48
  x : Vector Word 32
  p : BitVec 16
  v : Vector VReg 64
  masks : List MaskEntry
  loops : List Loop
  spb : Word
  flags : Flg
  rmode : Word
  binds : List Binding
  pend : List Pending
  gq : List GOp
  /-- Empty lc of a taken branch still to pass (01 R23). -/
  gap : Nat
  /-- Bundles that MSKIP still skips, and the count of an MSKIP whose test is due (04 R137). -/
  skip : Nat
  skipTest : Option Nat
  /-- Generation joined by the outstanding arrival at a scope (08 R229). -/
  arrivals : List (BitVec 3 × Nat)
  /-- Tag of the service request waited for and the register its answer goes to (04 R140). -/
  svc : Option (Nat × BitVec 5)
  /-- Clock at which the outstanding translations of the bundle in hand complete (10 R270). -/
  xlate : Option Nat
  /-- Base of a SEAL or UNSEAL that holds the stream (11 R318). -/
  sealing : Option Word
  /-- Tag on which an FFR holds its bundle (14 R388). -/
  ffr : Option (BitVec 6)
  stopRec : Option StopRec
  /-- 1 until the first bundle after a RESUME has issued (20 R456). -/
  fresh : Bool
  /-- The model's own: the instruction just run is held before issue (08 R230). -/
  held : Bool
  /-- Syllables of the bundle in hand, in words: the next bundle lies 4 x `len` above `pc`. -/
  len : Nat
  /-- Where the bundle in hand continues when a branch, a jump or a loop of it is taken. -/
  next : Option Word
  /-- Slots of the bundle in hand that its GUARD squashes (04 R136). -/
  squash : BitVec 8
  deriving DecidableEq, Repr

/-- A stage of an operand ring (13 R333). -/
inductive StageSt where
  | empty | filling | full
  deriving DecidableEq, Repr

structure Ring where
  base : Nat
  sb : Nat
  cc : Nat
  stages : List (StageSt × Nat)
  head : Nat
  tail : Nat
  deriving DecidableEq, Repr

/-- A matrix command as MXCALL captures it (13 R337). -/
structure MxCmd where
  start : Nat
  mp : List Word
  dep : Word
  mode : BitVec 2
  first : Nat
  spb : Word
  baddr : Word
  flags : Flg := 0
  /-- A read of a marked row has been logged (08 R218). -/
  marked : Bool := false
  deriving DecidableEq, Repr

/-- The sequencer with a routine in hand (13 R345): `wait` lc are left until the next timed micro-op may begin. -/
structure Seqr where
  cmd : MxCmd
  upc : Nat
  ix : List (BitVec 16)
  stack : List (Nat × Nat)
  wait : Nat
  ending : Bool := false
  deriving DecidableEq, Repr

/-- An update of the matrix engine on its way, applied at the end of the lc in which `left` is 0 (13 R330, R335). -/
inductive MxEffect where
  | acc (n : Nat) (t : Tile)
  /-- A pass: the sums formed from its slices, added to the accumulator as it stands at the commit (13 R331). -/
  | pass (n : Nat) (sums : List Word) (za : Bool)
  | scale (n : Nat) (addends : List (List (Option Int × Int))) (za : Bool)
  | add (n m : Nat)
  | quarter (n q : Nat) (v : VReg)
  | partials (fmt : Nat) (tiles : List (List (Option Int)))
  | check (n : Nat) (lanes : List (BitVec 32)) (za : Bool)
  | zeroCheck (n : Nat)
  /-- A consuming micro-op's pop of the stage that it read. -/
  | pop (ring stage : Nat)
  | push (ring n : Nat)
  | slots (set clr : BitVec 8)
  | words (w : Nat) (ws : List Word)
  | ring (n : Nat) (r : Option Ring)
  | flip (n bit : Nat)
  /-- Completion of the routine: its slot and its flags (13 R341). -/
  | complete (slot : Option Nat) (fl : Flg)
  deriving DecidableEq, Repr

structure MxPend where
  eff : MxEffect
  left : Nat
  /-- Order within one lc (13 R330, R341, R356). -/
  rank : Nat
  flags : Flg := 0
  deriving DecidableEq, Repr

inductive TagSt where
  | idle | outstanding | done
  deriving DecidableEq, Repr

/-- A copy tag (14 R372, R378). -/
structure Tag where
  st : TagSt := .idle
  bytes : Nat := 0
  flags : Flg := 0
  err : Option Trap := none
  sec : Bool := false
  fresh : Bool := false
  deriving DecidableEq, Repr

/-- A barrier object that a copy or a port counts into: its place in the pool, its virtual address, or a virtual address
with the place to which it was translated before issue. -/
inductive ObjRef where
  | pool (a : Nat) | glob (va : Word) | fixed (va : Word) (loc : PAddr)
  deriving DecidableEq, Repr

/-- An iteration of a copy on its way: the arriving bytes with their pool addresses, in element order, the ring
stage it fills, the rows it keeps busy and the clock at which its last byte lands. -/
structure CopyRun where
  cells : List Host.Cell
  stage : Option (Nat × Nat)
  bytes : Nat
  rows : List Nat
  due : Nat
  deriving DecidableEq, Repr

/-- A tagged copy in progress (14 R373 to R381). The source was captured at issue (14 R374). -/
structure Copy where
  tag : BitVec 6
  sec : Bool
  baddr : Word
  rcd : BitVec 1024
  red : Nat
  cnt : Option ObjRef
  /-- Target ring of a looping copy, and its iterations that have claimed no stage: the real byte count of each, and its
  bytes by their offsets in the stage. -/
  ring : Option Nat
  todo : List (Nat × List Host.Cell)
  runs : List CopyRun
  err : Option Trap
  /-- Key slots of the pages read, with an address in each (22 R500). -/
  keys : List (Nat × Word) := []
  /-- LADDR, and its place in the pool. -/
  laddr : Nat := 0
  pool : Nat := 0
  /-- Ports that carry its requests to peers (21 R473). -/
  ports : List Nat := []
  deriving DecidableEq, Repr

/-- A beat of a local copy: pairs of source and destination byte, and the lc left until it reads (14 R368); the
copy's bundle and SPB, and whether a read of a marked row is still to be logged for it (08 R218). -/
structure Beat where
  pairs : List (Nat × Nat)
  left : Nat
  baddr : Word
  spb : Word := 0
  unlogged : Bool := true
  deriving DecidableEq, Repr

/-- The early-read checker's watch (14 R371): for each byte, the lc left until the beat reads the source and
until it writes the destination. -/
structure Watch where
  src : List (Nat × Nat)
  dst : List (Nat × Nat)
  baddr : Word
  deriving DecidableEq, Repr

/-- A scratchpad store effect on its way (01 R38); `xor`: the flips of a DINJ.M (20 R461). -/
structure StoreEff where
  cells : List Host.Cell
  left : Nat
  seq : Nat
  sec : Bool := false
  xor : Bool := false
  deriving DecidableEq, Repr

/-- A pending summary result (06 R180): its kind, pool address and bytes; a build with no active element writes nothing. -/
structure SumPend where
  kind : Nat
  addr : Nat
  bytes : List Byte
  left : Nat
  write : Bool
  seq : Nat
  sec : Bool
  deriving DecidableEq, Repr

/-- A message in a slot of a receive channel (08 R224, R225). -/
structure Msg where
  fx : BitVec 8
  fy : BitVec 8
  ts : BitVec 48
  vec : Bool
  data : VReg
  arrive : Nat
  deriving DecidableEq, Repr

/-- A way of the probe cache (10 R287): its block, the slot's fill and the stream whose miss filled it. -/
structure Way where
  block : Option Nat := none
  used : Nat := 0
  bySec : Bool := false
  fill : Option (Nat × List Byte) := none
  /-- Key slots of the pages that the fill reads, with an address in each (22 R500). -/
  keys : List (Nat × Word) := []
  deriving DecidableEq, Repr

structure Probe where
  region : Nat
  /-- Pool address of the region, with the SPB that PCFG was issued under. -/
  pool : Nat
  nslot : Nat
  ways : Nat
  tab : List Way
  stamp : Nat
  deriving DecidableEq, Repr

/-- A started action of the haul plan, in start order (15 R396 to R402). `begun`: its pages are checked, its source is
read and its global writes are queued; `cells` are the pool bytes it will write; `err` is the fault it will end on,
`fault` an unreported fault it ended on; `stuck`: it would end on a fault and finds 4,096 kept (18 R514). -/
structure HaulAct where
  idx : Nat
  due : Nat
  done : Bool
  fault : Option Trap
  rows : List Nat
  begun : Bool := false
  cells : List Host.Cell := []
  err : Option Trap := none
  stuck : Bool := false
  /-- Key slots of the pages it reads, with an address in each (22 R500). -/
  keys : List (Nat × Word) := []
  /-- The bundle that started it. -/
  baddr : Word := 0
  deriving DecidableEq, Repr

structure Plan where
  addr : Word
  count : Nat
  window : Word
  spb : Word
  sec : Bool
  last : Nat
  entries : List (BitVec 256)
  acts : List HaulAct
  /-- The blaze that a held BLAZE has announced, and the entries already counted in MISSES (15 R401). -/
  waiting : Option Nat := none
  missed : List Nat := []
  deriving DecidableEq, Repr

/-- An iteration of a collective not yet read (21 R478): its number, its source (a pool address, or bytes captured at
issue), the member and the remote address and step it goes to, and the pool rows it keeps busy. -/
structure CollIter where
  j : Nat
  src : Nat
  data : Option (List Byte)
  peer : Nat
  ra : Int
  step : Nat
  rows : List Nat
  /-- The fault of a captured source, and the key slots of its pages with an address in each (18 R430; 22 R500). -/
  bad : Option Trap := none
  keys : List (Nat × Word) := []
  deriving DecidableEq, Repr

/-- A collective of the loop walker (21 R480 to R487): `total` chunks, of which `settled` have settled; `iters` are
those not yet read, the next one at clock `due`; `note`: a collective that moves nothing still owes its update. -/
structure Coll where
  tag : BitVec 6
  sec : Bool
  baddr : Word
  rcd : BitVec 2048
  members : List (BitVec 32)
  total : Nat
  iters : List CollIter
  settled : Nat
  flags : Flg
  /-- The fault of the lowest chunk that failed, with its number (21 R482). -/
  err : Option (Nat × Trap)
  due : Nat
  note : Bool := false
  deriving DecidableEq, Repr

/-- A cause-log entry (18 R436). -/
structure Cause where
  code : BitVec 8
  baddr : Word
  sec : Bool
  count : Nat
  deriving DecidableEq, Repr

/-- An event of the bundle in hand that writes the cause log: its value in the journal, and the clock at which a reply
orders it at its requester, 0 when the issue of its bundle does (18 R437 to R439). -/
structure Event where
  code : BitVec 8
  sec : Bool
  value : Word
  due : Nat := 0
  deriving DecidableEq, Repr

/-- An event whose place in the journal waits for its reply (18 R439). -/
structure LateEvent where
  ev : Event
  baddr : Word
  lc : BitVec 48
  deriving DecidableEq, Repr

/-- The parts of an lc in their order (01 R17, R38; 08 R214; 13 R330): results land; the store effects due are
applied, the engines work and the primary bundle issues; the engine works on; the secondary bundle issues; and the
updates at the end of the lc take effect. -/
inductive LcPart where
  | land | issue | after | second | close
  deriving DecidableEq, Repr

/-- A core in the clock in hand: its lc goes on, it is frozen (01 R13), or its lc has ended. -/
inductive RunSt where
  | live | frozen | ended
  deriving DecidableEq, Repr

/-- The state that the two streams of a core share, with the engines of the core (08 Table 5, second row). -/
structure Core where
  id : Nat
  fn : Nat
  lid : Word
  phnum : BitVec 16
  free : Bool
  gang : BitVec 16
  tile : BitVec 8
  tx : BitVec 8
  ty : BitVec 8
  gw : BitVec 8
  gh : BitVec 8
  slot : Nat
  part : BitVec 32
  bgrp : BitVec 16
  bcount : Nat
  lock : Bool
  pmode : Bool
  csave : Word
  replay : Bool
  images : List (Word × List (BitVec 32))
  spad : Memory
  acc : Vector Tile 256
  mp : Vector Word 8
  dslots : BitVec 8
  rings : Vector (Option Ring) 16
  ck : Vector (BitVec 1024) 16
  partial_ : Option (Nat × List (List (Option Int)))
  ustore : List (Nat × Word)
  cmdq : List MxCmd
  seq : Option Seqr
  mxpend : List MxPend
  /-- A fault of the engine, raised before the next bundle (13 R343). -/
  engTrap : Option Trap
  /-- The Puppeteer stops the task with fault 0x15 (21 R473). -/
  halt : Option Trap
  g : Vector (BitVec 1024) 16
  gsec : BitVec 16
  tags : Vector Tag 64
  beats : List Beat
  localEnd : Nat
  watch : List Watch
  copies : List Copy
  colls : List Coll
  stores : List StoreEff
  chain : List SumPend
  chans : Vector (List Msg) 16
  probe : Probe
  plan : Option Plan
  hpb : Word
  nomlat : Vector Word 4
  cntth : Word
  clog : List Cause
  clogOvf : Bool

  /-- Events of the bundle in hand; they enter the log when it has issued (01 R17; 18 R437). -/
  events : List Event
  lateEvents : List LateEvent
  marks : List Nat
  bpctl : Vector Word 4
  bpval : Vector Word 4
  poison : List Nat
  stall : Nat
  /-- Accesses of the lc in hand, each with its banks: 0 for those of the primary and of the engines, else one more than
  the issue count of the secondary bundle (01 R40; 08 R216). -/
  touched : List (Nat × List Nat)
  /-- Slots that the primary bundle of the lc in hand took (08 R214). -/
  slots : BitVec 8
  vcc : BitVec 48
  rescnt : BitVec 32
  issue : Nat
  /-- Releases of the secondary stream on lock words and barrier objects: global or not, the address, and the
  generation joined (08 R218). -/
  secRel : List (Bool × Nat × Option Nat)
  lcPart : LcPart
  run : RunSt
  deriving DecidableEq, Repr

structure CoreCtx where
  core : Core
  a : Stream
  b : Stream
  deriving DecidableEq, Repr

/-- A cached translation (10 R271): function, page base, page bytes and leaf entry. -/
structure TlbEnt where
  fn : Nat
  base : Nat
  size : Nat
  leaf : Word
  ctr : Nat
  deriving DecidableEq, Repr

inductive SealSt where
  | taking | sealed | leaving
  deriving DecidableEq, Repr

structure SealRange where
  base : Nat
  bytes : Nat
  st : SealSt
  deriving DecidableEq, Repr

/-- A notification entry (22 Table 3). -/
structure Note where
  type : BitVec 8
  arg : BitVec 32 := 0
  tag : BitVec 32 := 0
  addr : Word := 0
  value : Word := 0
  payload : BitVec 256 := 0
  seq : Nat
  deriving DecidableEq, Repr

/-- A recovery point (18 R432). -/
structure Point where
  num : BitVec 32
  list : Word
  queue : Nat
  head : Word
  depth : Nat
  deriving DecidableEq, Repr

inductive TdiSt where
  | unlocked | locked | run | error
  deriving DecidableEq, Repr

/-- What the package keeps for one function. -/
structure FnState where
  enabled : Bool
  root : Word
  notifq : Word
  retag : Word
  retagSeq : Nat
  seals : List SealRange
  dbg : Word
  journal : Word
  journalCap : Nat
  journalIdx : Nat
  dropped : Bool
  replay : Bool
  replayAt : Nat
  egress : Word
  egressIdx : Nat
  incomplete : Bool
  point : Option Point
  recovering : Bool
  tdi : TdiSt
  widx : Nat
  ridx : Nat
  drops : Nat
  /-- The mask and pending bits of the function's MSI-X vector (22 R493, R495). -/
  msixMask : Bool
  msixPending : Bool
  /-- Bits [511:192] of the notification control block, which the device ignores (15 Table 5). -/
  noteRsv : Vector Word 5
  notes : List Note
  copies : List (Nat × BitVec 2048)
  mbArg : Vector Word 4
  /-- Bits [511:384] of the mailbox, which the device ignores (22 Table 4). -/
  mbRsv : Vector Word 2
  mbTag : Word
  mbCmd : BitVec 8
  mbState : Nat
  mbResult : Nat
  /-- Base-2 logarithm of the bytes of the BAR2 window (22 R494). -/
  bar2 : Nat
  deriving DecidableEq, Repr

/-- What a queue waits for with an entry in hand. -/
inductive QWait where
  | none | binds | copies (point : BitVec 32) (list : Word) | digest (list result : Word)
  deriving DecidableEq, Repr

/-- A command queue (09 R236). -/
structure Queue where
  base : Word
  tail : Word
  head : Word
  fault : BitVec 8
  halt : Bool
  log2n : Nat
  fn : Nat
  en : Bool
  calls : List Word
  skip : Nat
  /-- The entry in progress (09 R237). -/
  entry : Option (BitVec 256)
  wait : QWait
  lid : Option Word
  last : Option (BitVec 16)
  deriving DecidableEq, Repr

inductive SlotSt where
  | free | pending | armed | running | stopping | saved
  deriving DecidableEq, Repr

/-- A slot of a die's slot table (09 R250). -/
structure Slot where
  st : SlotSt
  rcd : BitVec 1024
  plan : List (BitVec 192)
  since : Nat
  /-- RTC when the slot became PENDING; its age is wall-clock time (00 R6; 09 R254). -/
  born : Nat
  age : Nat
  ctxs : List CoreCtx
  resumed : Bool
  /-- Which save wrote the image (18 R512). -/
  saveNo : Nat
  deriving DecidableEq, Repr

/-- A launched phase that has not committed (08 R207): gangs not yet bound and gangs not yet complete. -/
structure Phase where
  lid : Word
  num : BitVec 16
  free : Bool
  fn : Nat
  queue : Nat
  wanted : List (BitVec 16)
  live : List (BitVec 16)
  deriving DecidableEq, Repr

/-- A barrier's generation and its arrivals (08 R229), each a seat x 2, plus 1 for the secondary stream; a seat is
64 x slot + tile, the task's wherever its gang runs. `both`: both streams of the core arrived in the generation that
completed last (08 R218). -/
structure Bar where
  scope : BitVec 3
  key : Nat
  gen : Nat
  arrived : List Nat
  both : Bool := false
  deriving DecidableEq, Repr

/-- A write of the device's own in a function's space that waits for a write-blocked page (10 R272; 15 R406): bytes, or
an entry of a ring with its control block, whose SEQ field is filled when it is written. -/
inductive DevWrite where
  | bytes (fn : Nat) (va : Word) (bs : List Byte)
  | post (fn : Nat) (block : Word) (cap : Nat) (entry : BitVec 256) (seq : Bool) (die : Nat)
  deriving DecidableEq, Repr

/-- An entry of a die's write-tracking table: the gang of a deterministic phase that first wrote a block (08 R210). -/
structure TrackEnt where
  fn : Nat
  lid : Word
  num : BitVec 16
  die : Nat
  block : Nat
  gang : BitVec 16
  deriving DecidableEq, Repr

/-- A chunk of a collective on its way to a member (21 R481). -/
structure Chunk where
  pkg : BitVec 10
  lid : Word
  phnum : BitVec 16
  fn : Nat
  gang : BitVec 16
  tile : BitVec 6
  bytes : List Byte
  ra : Int
  step : Nat
  flag : Word
  red : Nat
  rsp : Bool
  fsp : Bool
  j : Nat
  last : Bool
  /-- Issuing seat, while its task is there, tag and member index; the chunk waits for its step in the port's skid
  buffer (21 R485). -/
  src : Option Nat
  tag : BitVec 6
  member : Nat
  due : Nat
  held : Bool := false
  /-- Of a chunk that another package sent: that package, and what it calls the chunk. -/
  origin : Option (BitVec 10 × Nat) := none
  deriving DecidableEq, Repr

/-- A receiving port's cursor, of the seat that the port serves (21 R485). -/
structure Cursor where
  seat : Nat
  fn : Nat
  flag : Word
  fsp : Bool
  next : Nat
  gen : Nat
  deriving DecidableEq, Repr

/-- What the port of another package reports of a chunk: its flags, and the code and sub-code of its fault (21 R482). -/
structure PortReply where
  flags : Flg := 0
  fault : Option (BitVec 8 × BitVec 16) := none
  deriving DecidableEq, Repr

/-- A host access that waits: one through BAR2 (function, IDE, request) for a write-blocked page (10 R272), and a write
of TAIL behind the host's earlier writes of that function (09 R237). -/
inductive HostHeld where
  | bar2 (fn : BitVec 5) (ide : BitVec 1) (req : PeerReq)
  | tail (fn : BitVec 5) (q : BitVec 6) (v : Word)
  deriving DecidableEq, Repr

/-- What the package sends out: the answer to a peer's request or to a host access (none: an error response, or the
unsupported-request status), a function's MSI-X message (21 R465, R466; 22 R494, R495), what the port reports of a chunk
of another package (21 R482), the answer to a configuration request (none: request-retry status, 22 R501) and what the
board reads (22 R506). -/
inductive Reply where
  | peer (who fn : Nat) (data : Option (List Byte))
  | host (fn : Nat) (data : Option (List Byte))
  | msix (fn : Nat)
  | chunk (pkg : BitVec 10) (ref : Nat) (r : PortReply)
  | config (fn : Nat) (v : Option Nat)
  | board (v : Nat)
  deriving DecidableEq, Repr

/-- A migration in progress (15 R408): 0 waiting for the first invalidation, 1 copying, 2 the second invalidation. One
that the runtime asked for, or whose task has gone, has no tag (15 R409). -/
structure Migration where
  tag : Option (BitVec 6)
  core : Nat
  baddr : Word := 0
  fn : Nat
  a : TlbEnt
  b : TlbEnt
  step : Nat
  due : Nat
  err : Option Trap := none
  deriving DecidableEq, Repr

/-- What has been posted to the Puppeteer (09 R255). -/
inductive PMsg where
  /-- A stop record, of a core and stream, with the slot of its gang and the record's 2,048 bits (18 R419). -/
  | stop (core : Nat) (sec : Bool) (r : StopRec) (slot : Nat) (rcd : BitVec 2048)
  | refusal (die slot : Nat) (case_ : Nat)
  | late (die slot : Nat) (cmd : Nat)
  | service (tag : Nat) (core : Nat) (sec : Bool) (baddr : Word) (lc : BitVec 48) (value : Word)
  | yield (core : Nat) (gang : BitVec 16) (baddr : Word)
  | completion (core : Nat) (sec : Bool) (log : List Cause) (ovf : Bool)
  | corrected (die : Nat)
  | poisoned (addr : Nat)
  | sealedWrite (fn : Nat) (addr : Word)
  | keyDestroyed (slot : Nat)
  /-- The recovery report of 18 R434: the fault record, the current point, the egress journal's entry count, INCOMPLETE
  flag and address. -/
  | recovery (fn : Nat) (rcd : BitVec 2048) (point : Option Point) (count : Nat) (incomplete : Bool) (addr : Word)
  | portError (port : Nat)
  | refusedLoad (fn : Nat)
  | unknownTag (tag : Word)
  | discardedWrite (addr : Nat)
  | resumeRefused (die slot : Nat)
  | spdm (fn : Nat) (ok : Bool) (ans : BitVec 512)
  deriving DecidableEq, Repr

/-- A plan slot's image (21 R468). -/
structure PodPlan where
  hdr : BitVec 512
  route : List Byte
  map : List (BitVec 2)
  deriving DecidableEq, Repr

structure Port where
  debt : Nat
  failed : Bool
  retry : Bool
  slack : Nat
  errors : Nat
  deriving DecidableEq, Repr

structure KeySlot where
  owner : Nat
  valid : Bool
  /-- Frames encrypted with the slot: device address and bytes. -/
  frames : List (Nat × Nat) := []
  /-- The identity of its key: which draw of the entropy source gave it (`Config.regionKey`), plus 1; 0 in an empty slot. -/
  key : Nat := 0
  deriving DecidableEq, Repr

/-- Units of a nanosecond in which each clock is exact, at every frequency of 22 R505: a clock of `f` x 100 MHz is
10 / f ns, and every f from 1 to 36 divides this number (00 R6). -/
def rtcUnit : Nat := 144403552893600

structure Package where
  clock : Nat
  rtc : Nat
  /-- The part of a nanosecond that RTC has not yet counted, in units of 1 / `rtcUnit` ns. -/
  rtcFrac : Nat
  freq : Nat
  dev : Memory
  /-- Granules of device memory written under a region key, each with the identity of that key (22 R497). -/
  enc : List (Nat × Nat)
  host : Memory
  peer : Memory
  keys : List (Nat × BitVec 4)
  poison : List Nat
  tlb : List TlbEnt
  invals : List (Nat × Nat × Nat)
  fns : Vector FnState 17
  queues : Vector Queue 64
  /-- The queue last served of each priority, by its number in the priority (09 R239). -/
  served : Vector Nat 8
  /-- Queues already tried in the clock in hand (09 R239). -/
  asked : List Nat
  /-- Bind requests that the Puppeteer has still to present: the queue and the record, in the order of 09 R239. -/
  requests : List (Nat × BitVec 1024)
  slots : Vector Slot 256
  agek : Vector Nat 4
  ratio : Vector (BitVec 3) 12
  hot : List Nat
  tracking : List TrackEnt
  /-- Dies whose table has filled in a phase, and the cores that have been told so: each with function, LID and phase
  number. -/
  trackFull : List (Nat × Nat × Word × BitVec 16)
  trackTold : List (Nat × Nat × Word × BitVec 16)
  phases : List Phase
  bars : List Bar
  chunks : List Chunk
  cursors : List Cursor
  migrations : List Migration
  planSlots : Vector (Option PodPlan) 4
  active : Option PodPlan
  ports : Vector Port 18
  frameSlot : Nat
  paused : Bool
  /-- Another package of the pod has a port that owes chunks, or a hot stack (21 R472). -/
  farPause : Bool
  pauses : BitVec 32
  keySlots : Vector KeySlot 64
  peerWins : List (Nat × Nat × Nat)
  replies : List PortReply
  waiting : List HostHeld
  devWrites : List DevWrite
  sent : List Reply
  bootst : BitVec 8
  bootStep : Nat
  fusedSvn : BitVec 16
  /-- The flash images: A or B, SVN and hash. -/
  images : List (BitVec 1 × BitVec 16 × BitVec 512)
  /-- The running image: SVN and hash; measurements 1 and 2 (22 R501). -/
  running : Option (BitVec 16 × BitVec 512)
  meas : Vector (BitVec 512) 2
  powerCap : Option (BitVec 16)
  errors : Vector Nat 4
  puppet : List PMsg
  service : List (Nat × Nat × Bool)
  svcNext : Nat
  gsn : Nat
  delays : List Nat
  draws : Nat
  deriving DecidableEq, Repr

/-- Whose work the next step does in the clock in hand. -/
inductive Turn where
  | cores | queues | close
  deriving DecidableEq, Repr

/-- The machine. `inbox` holds the inputs from outside that the next steps take, each with the core it concerns. -/
structure State where
  str : Stream
  alt : Stream
  core : Core
  others : List CoreCtx
  pkg : Package
  inbox : List (Nat × Instr)
  turn : Turn
  deriving DecidableEq, Repr

/-- A stream's values at task start (01 R25), with no task. -/
def Stream.reset (sec : Bool) : Stream :=
  { sec := sec, mode := .idle, pc := 0, lcc := 0, x := Vector.replicate 32 0, p := 0,
    v := Vector.replicate 64 0, masks := [BitVec.allOnes 1024], loops := [], spb := 0, flags := 0, rmode := 0,
    binds := [], pend := [], gq := [], gap := 0, skip := 0, skipTest := none, arrivals := [], svc := none,
    xlate := none, sealing := none, ffr := none, stopRec := none, fresh := false, held := false,
    len := 0, next := none, squash := 0 }

/-- NOMLAT0 to NOMLAT3 at reset (04 Table 13). -/
def nomlatReset : Vector Word 4 := #v[720, 1440, 2880, 5760]

/-- A core's values at task start, with no task; core `id` is die x 64 + number in the die. (DESIGN CHOICE, unsafe: notes/assumptions/3.md.) -/
def Core.reset (id : Nat) : Core :=
  { id := id, fn := 0, lid := 0, phnum := 0, free := false, gang := 0, tile := 0, tx := 0, ty := 0, gw := 0,
    gh := 0, slot := 0, part := 0, bgrp := 0, bcount := 0, lock := false, pmode := false, csave := 0,
    replay := false, images := [], spad := [], acc := Vector.replicate 256 0, mp := Vector.replicate 8 0,
    dslots := 0, rings := Vector.replicate 16 none, ck := Vector.replicate 16 0, partial_ := none, ustore := [],
    cmdq := [], seq := none, mxpend := [], engTrap := none, halt := none, g := Vector.replicate 16 0, gsec := 0,
    tags := Vector.replicate 64 {}, beats := [], localEnd := 0, watch := [], copies := [], colls := [],
    stores := [], chain := [], chans := Vector.replicate 16 [],
    probe := { region := 0, pool := 0, nslot := 0, ways := 1, tab := [], stamp := 0 }, plan := none, hpb := 0,
    nomlat := nomlatReset, cntth := 0, clog := [], clogOvf := false, events := [], lateEvents := [],
    marks := [],
    bpctl := Vector.replicate 4 0, bpval := Vector.replicate 4 0, poison := [], stall := 0, touched := [], slots := 0,
    vcc := 0, rescnt := 0, issue := 0, secRel := [], lcPart := .land, run := .live }

def FnState.reset (enabled : Bool) : FnState :=
  { enabled := enabled, root := 0, notifq := 0, retag := 0, retagSeq := 0, seals := [], dbg := 0, journal := 0,
    journalCap := 0, journalIdx := 0, dropped := false, replay := false, replayAt := 0, egress := 0,
    egressIdx := 0, incomplete := false, point := none, recovering := false, tdi := .unlocked, widx := 0,
    ridx := 0, drops := 0, msixMask := true, msixPending := false, noteRsv := Vector.replicate 5 0, notes := [],
    copies := [], mbArg := Vector.replicate 4 0, mbRsv := Vector.replicate 2 0, mbTag := 0, mbCmd := 0, mbState := 0,
    mbResult := 0, bar2 := 40 }

/-- A queue register block at reset (09 Table 1). -/
def Queue.reset : Queue :=
  { base := 0, tail := 0, head := 0, fault := 0, halt := false, log2n := 4, fn := 0, en := false, calls := [],
    skip := 0, entry := none, wait := .none, lid := none, last := none }

def Slot.reset : Slot :=
  { st := .free, rcd := 0, plan := [], since := 0, born := 0, age := 0, ctxs := [], resumed := false, saveNo := 0 }

/-- DESIGN CHOICE, unsafe: notes/assumptions/4.md. -/
def Package.reset : Package :=
  { clock := 0, rtc := 0, rtcFrac := 0, freq := 36, dev := [], enc := [], host := [], peer := [], keys := [], poison := [],
    tlb := [], invals := [],
    fns := (Vector.replicate 17 (FnState.reset false)).set 0 (FnState.reset true),
    queues := Vector.replicate 64 Queue.reset, served := Vector.replicate 8 7, asked := [], requests := [],
    slots := Vector.replicate 256 Slot.reset,
    agek := Vector.replicate 4 10, ratio := Vector.replicate 12 2, hot := [], tracking := [], trackFull := [],
    trackTold := [],
    phases := [], bars := [], chunks := [], cursors := [], migrations := [], planSlots := Vector.replicate 4 none,
    active := none,
    ports := Vector.replicate 18 { debt := 0, failed := false, retry := false, slack := 0, errors := 0 },
    frameSlot := 0, paused := false, farPause := false, pauses := 0,
    keySlots := Vector.replicate 64 { owner := 0, valid := false }, peerWins := [], replies := [], waiting := [], devWrites := [],
    sent := [], bootst := 0,
    bootStep := 0, fusedSvn := Config.fusedSvn,
    images := [(0, Config.svn, Config.imageA), (1, Config.svn, Config.imageB)], running := none,
    meas := Vector.replicate 2 0, powerCap := none, errors := Vector.replicate 4 0, puppet := [],
    service := [], svcNext := 0, gsn := 0, delays := [], draws := 0 }

/-- The machine right after package reset: no task bound, nothing listed in any memory, firmware booting
(22 R501 step 1). The reset values that the spec does not state are those of notes/assumptions/2.md to 6.md. -/
def State.reset : State :=
  { str := Stream.reset false, alt := Stream.reset true, core := Core.reset 0, others := [],
    pkg := Package.reset, inbox := [], turn := .cores }

end Sys2Proof.Machine
end

