-- ==== Sys2Proof/Machine/Ops.lean ====
section
/-! DEFINITION. The named operations over memories and registers: sparse memories in canonical form, register
reads and landings (01 R21, R22, R25), results on their way, the cause log and journal (18 R436 to R439), device
memory under translation (10 R265 to R279), and taking an exception: the precise stop (01 R44, R48; 18 R419). -/
namespace Sys2Proof.Machine

/-! ### Sparse memories -/

/-- The value at an address of a sparse memory whose unlisted addresses hold `d`. -/
def sget {α : Type} (d : α) : List (Nat × α) → Nat → α
  | [], _ => d
  | (k, v) :: t, a => if k = a then v else if a < k then d else sget d t a

/-- The memory with `v` at `a`: sorted, and with no entry that holds `d`. -/
def sset {α : Type} [DecidableEq α] (d : α) : List (Nat × α) → Nat → α → List (Nat × α)
  | [], a, v => if v = d then [] else [(a, v)]
  | (k, w) :: t, a, v =>
    if k = a then (if v = d then t else (a, v) :: t)
    else if a < k then (if v = d then (k, w) :: t else (a, v) :: (k, w) :: t)
    else (k, w) :: sset d t a v

/-- Canonical form: addresses strictly rising from `lo` on, no entry equal to what an unlisted address reads as. -/
def swf {α : Type} [DecidableEq α] (d : α) : Nat → List (Nat × α) → Bool
  | _, [] => true
  | lo, (k, v) :: t => decide (lo ≤ k) && decide (v ≠ d) && swf d (k + 1) t

/-- The canonical form of a byte memory: an unlisted byte reads 0 (DESIGN CHOICE, unsafe: notes/assumptions/2.md). -/
def Memory.wf (m : Memory) : Bool := swf (0 : Byte) 0 m
def Memory.read (m : Memory) (a : Nat) : Byte := sget 0 m a
def Memory.write (m : Memory) (a : Nat) (b : Byte) : Memory := sset 0 m a b
def Memory.readN (m : Memory) (a : Nat) : Nat → List Byte
  | 0 => []
  | n + 1 => m.read a :: m.readN (a + 1) n
/-- The `n` bytes at `a` as a little-endian number (00 R4). -/
def Memory.num (m : Memory) (a n : Nat) : Nat := ofBytes (m.readN a n)
def Memory.writeN (m : Memory) (a : Nat) : List Byte → Memory
  | [] => m
  | b :: bs => (m.write a b).writeN (a + 1) bs
def Memory.writeCells (m : Memory) : List Host.Cell → Memory
  | [] => m
  | c :: cs => (m.write c.1 c.2).writeCells cs

/-- Consecutive cells from `a`. -/
def cellsAt (a : Nat) : List Byte → List Host.Cell
  | [] => []
  | b :: bs => (a, b) :: cellsAt (a + 1) bs

/-! ### Lists and vectors -/

def vget {α : Type} {n : Nat} (v : Vector α n) (i : Nat) (d : α) : α := if h : i < n then v[i] else d
def vset {α : Type} {n : Nat} (v : Vector α n) (i : Nat) (x : α) : Vector α n :=
  if h : i < n then v.set i x else v

/-! ### Updates of the focus -/

def State.onStr (s : State) (f : Stream → Stream) : State := { s with str := f s.str }
def State.onCore (s : State) (f : Core → Core) : State := { s with core := f s.core }
def State.onPkg (s : State) (f : Package → Package) : State := { s with pkg := f s.pkg }
/-- The focus moved to the other stream of the core. -/
def State.swap (s : State) : State := { s with str := s.alt, alt := s.str }

/-- The core in focus as it stands among the others: primary first. -/
def State.ctx (s : State) : CoreCtx :=
  if s.str.sec then { core := s.core, a := s.alt, b := s.str } else { core := s.core, a := s.str, b := s.alt }

/-- Every core that holds a task or an engine's state. -/
def State.ctxs (s : State) : List CoreCtx := s.ctx :: s.others

/-- The focus moved to core `id`, its primary stream; the core in focus goes back among the others. -/
def State.focus (s : State) (id : Nat) : State :=
  if s.core.id = id then if s.str.sec then s.swap else s
  else match s.others.find? (·.core.id == id) with
    | some c => { s with str := c.a, alt := c.b, core := c.core, others := s.others.filter (·.core.id != id) ++ [s.ctx] }
    | none => { s with str := Stream.reset false, alt := Stream.reset true, core := Core.reset id,
                       others := s.others ++ [s.ctx] }

/-- A change of every core, the one in focus among them. -/
def State.onAll (s : State) (f : CoreCtx → CoreCtx) : State :=
  let c := f s.ctx
  { s with core := c.core, str := if s.str.sec then c.b else c.a, alt := if s.str.sec then c.a else c.b,
           others := s.others.map f }

def State.onCoreId (s : State) (id : Nat) (f : CoreCtx → CoreCtx) : State :=
  s.onAll fun c => if c.core.id = id then f c else c

/-- A task's seat: its slot and its tile, wherever the gang runs (09 R258). -/
def Core.seat (k : Core) : Nat := 64 * k.slot + k.tile.toNat % 64

/-- A change of the core state of the task at a seat, on its core or in its SAVED slot. -/
def State.onSeat (s : State) (seat : Nat) (f : Core → Core) : State :=
  let g (c : CoreCtx) : CoreCtx := if c.core.seat = seat then { c with core := f c.core } else c
  let s := s.onAll fun c => if c.a.mode = .idle then c else g c
  { s with pkg := { s.pkg with
      slots := vset s.pkg.slots (seat / 64) (let sl := vget s.pkg.slots (seat / 64) Slot.reset
                                            { sl with ctxs := sl.ctxs.map g }) } }

/-- Every task with a context: those on cores, and those kept in a slot. -/
def State.tasks (s : State) : List CoreCtx :=
  s.ctxs.filter (fun c => c.a.mode != .idle) ++ s.pkg.slots.toList.flatMap (·.ctxs)

/-! ### Registers -/

/-- X0 reads 0 (01 Table 6). -/
def State.rx (s : State) (r : BitVec 5) : Word := if r = 0 then 0 else s.str.x[r.toNat]'r.isLt
/-- P0 reads 1 (01 Table 6). -/
def State.rp (s : State) (r : BitVec 4) : Bool := r == 0 || s.str.p.getLsbD r.toNat
def State.rv (s : State) (r : BitVec 6) : VReg := s.str.v[r.toNat]'r.isLt
/-- The top of the mask stack (01 R26). -/
def State.top (s : State) : MaskEntry := s.str.masks.headD 0

/-- A mask-stack change applied to the stack as it stands, top first (04 R134, R135). A change that finds no room
(16 entries, or one) leaves the stack as it is (05 R151; DESIGN CHOICE, unsafe: notes/assumptions/8.md). -/
def MaskOp.apply (op : MaskOp) (m : List MaskEntry) : List MaskEntry :=
  match op, m with
  | .push e, m => if m.length < 16 then e :: m else m
  | .dup, a :: r => if r.length < 15 then a :: a :: r else a :: r
  | .pop, _ :: b :: r => b :: r
  | .and, a :: b :: r => (b &&& a) :: r
  | .or, a :: b :: r => (b ||| a) :: r
  | .xor, a :: b :: r => (b ^^^ a) :: r
  | .andn, a :: b :: r => (b &&& ~~~a) :: r
  | .not, a :: r => (~~~a) :: r
  | .els, a :: b :: r => (b &&& ~~~a) :: b :: r
  | _, m => m

/-- The depth after a mask-stack change, or the sub-code of 04 Table 1 for a change that the depth forbids. -/
def MaskOp.depth (op : MaskOp) (d : Nat) : Except (BitVec 16) Nat :=
  match op with
  | .push _ | .dup => if d ≥ 16 then .error 3 else .ok (d + 1)
  | .pop | .and | .or | .xor | .andn => if d ≤ 1 then .error 4 else .ok (d - 1)
  | .not => .ok d
  | .els => if d ≤ 1 then .error 4 else .ok d

/-- A CSR write takes effect (04 R141): SPB, FLAGS, RMODE, NOMLAT, CNTTH and HPB; the others are read-only. -/
def State.landCsr (s : State) (c : BitVec 8) (v : Word) : State :=
  match c.toNat with
  | 0x08 => s.onStr fun t => { t with spb := v }
  | 0x09 => s.onStr fun t => { t with flags := v.setWidth 7 }
  | 0x0A => s.onStr fun t => { t with rmode := v }
  | 0x10 => s.onCore fun k => { k with nomlat := vset k.nomlat 0 v }
  | 0x11 => s.onCore fun k => { k with nomlat := vset k.nomlat 1 v }
  | 0x12 => s.onCore fun k => { k with nomlat := vset k.nomlat 2 v }
  | 0x13 => s.onCore fun k => { k with nomlat := vset k.nomlat 3 v }
  | 0x15 => s.onCore fun k => { k with cntth := v }
  | 0x16 => s.onCore fun k => { k with hpb := v }
  | _ => s

/-- The SRAM bank of a stream's vector registers (01 R30). -/
def vBank (sec : Bool) : Nat := if sec then 126 else 127

/-- Granules of a vector register that a write covers lose their poison (18 R430). -/
def Core.regClean (k : Core) (sec : Bool) (r : BitVec 6) (en : VReg) : Core :=
  if k.poison.isEmpty then k
  else
    let base := vBank sec * Config.bankBytes + 512 * r.toNat
    { k with poison := k.poison.filter fun p =>
        !(decide (base ≤ p ∧ p < base + 512) && en.extractLsb' (8 * (p - base)) 256 == BitVec.allOnes 256) }

/-- A result lands: the change alone, without its flags. Writes of X0 and P0 are discarded. -/
def State.landTarget (s : State) (t : Target) : State :=
  match t with
  | .x r v => if r = 0 then s else s.onStr fun t => { t with x := t.x.set r.toNat v r.isLt }
  | .p r v => if r = 0 then s else s.onStr fun t =>
      { t with p := if v then t.p ||| (1#16 <<< r.toNat) else t.p &&& ~~~(1#16 <<< r.toNat) }
  | .csr c v => s.landCsr c v
  | .v r en val => (s.onStr fun t => { t with v := t.v.set r.toNat (blend en val (t.v[r.toNat]'r.isLt)) r.isLt }).onCore
      fun k => k.regClean s.str.sec r en
  | .mask op => s.onStr fun t => { t with masks := op.apply t.masks }
  | .mp n v => s.onCore fun k => { k with mp := k.mp.set n.toNat v n.isLt }
  | .g n v => s.onCore fun k => { k with g := k.g.set n.toNat v n.isLt
                                         gsec := if s.str.sec then k.gsec ||| (1#16 <<< n.toNat)
                                                 else k.gsec &&& ~~~(1#16 <<< n.toNat) }
  | .idleTag t => s.onCore fun k =>
      { k with tags := k.tags.set t.toNat { (k.tags[t.toNat]'t.isLt) with st := .idle } t.isLt }
  | .binds clr add => s.onStr fun t =>
      { t with binds := (t.binds.filter fun b => !clr.getLsbD b.slot && !add.any (·.slot == b.slot)) ++ add }
  | .none => s

/-- The results of `due` land in issue order; then their flags are set, after any write of FLAGS (02 R76). -/
def State.landAll (s : State) (due : List Pending) : State :=
  let s := due.foldl (fun s p => s.landTarget p.target) s
  s.onStr fun t => { t with flags := due.foldl (fun f p => f ||| p.flags) t.flags }

/-- A result issued now with latency `lat` (01 R21). -/
def State.emit (s : State) (t : Target) (lat : Nat) (fl : Flg := 0) : State :=
  s.onStr fun r => { r with pend := r.pend ++ [{ target := t, left := lat, flags := fl, baddr := r.pc }] }

def State.emitX (s : State) (d : BitVec 5) (lat : Nat) (v : Word) (fl : Flg := 0) : State := s.emit (.x d v) lat fl
def State.emitP (s : State) (d : BitVec 4) (lat : Nat) (v : Bool) (fl : Flg := 0) : State := s.emit (.p d v) lat fl
/-- Flags of a form with no register result, set at issue + 1 (03 R101). -/
def State.emitFlags (s : State) (lat : Nat) (fl : Flg) : State := if fl = 0 then s else s.emit .none lat fl

/-! ### Stops -/

/-- How an instruction fails to issue: its bundle is held, or it stops its stream. The state carries what the
attempt itself changed (a translation begun, a deferred error consumed). -/
inductive Stop where
  | hold (s : State)
  | trap (s : State) (t : Trap)
  deriving DecidableEq, Repr

abbrev Try (α : Type) := Except Stop α

def trapIf (s : State) (b : Bool) (code : BitVec 8) (sub : BitVec 16) : Try Unit :=
  if b then .error (.trap s { code := code, sub := sub }) else .ok ()
def trapWith (s : State) (b : Bool) (t : Trap) : Try Unit := if b then .error (.trap s t) else .ok ()
def holdIf (s : State) (b : Bool) : Try Unit := if b then .error (.hold s) else .ok ()

abbrev Res := Host.Outcome State Fault Refusal

/-! ### Device memory under translation -/

/-- This package's number in the pod (21 R468). -/
def Package.podn (pk : Package) : Nat := match pk.active with | some p => bits p.hdr.toNat 9 0 | none => 0

/-- The device address at which this package serves a byte: of its own memory, or of a peer page that names this package
(10 R266). -/
def Package.here (pk : Package) (p : PAddr) : Option Nat :=
  match p.tier.toNat with
  | 0 => some p.addr
  | 1 => none
  | _ => if p.addr / 2 ^ 40 = pk.podn then some (p.addr % 2 ^ 40) else none

def PAddr.plus (p : PAddr) (k : Nat) : PAddr := { p with addr := p.addr + k }

/-- The identity of the key that a slot holds; 0 for slot 0, no key (22 R497). -/
def Package.keyId (pk : Package) (slot : Nat) : Nat :=
  if slot = 0 then 0 else (vget pk.keySlots slot { owner := 0, valid := false }).key

/-- The granule of device memory as it reads under the key of identity `kid` (22 R497). (DESIGN CHOICE, safe: notes/assumptions/89.md.) -/
def Package.granule (pk : Package) (kid g : Nat) : BitVec 256 :=
  let plain := BitVec.ofNat 256 (pk.dev.num (32 * g) 32)
  if sget 0 pk.enc g = kid then plain else Config.garbled (sget 0 pk.enc g) kid g plain

/-- A byte of device memory under a key: as written under that key, or garbled (22 R497). -/
def Package.devByte (pk : Package) (kid a : Nat) : Byte :=
  if sget 0 pk.enc (a / 32) = kid then pk.dev.read a else (pk.granule kid (a / 32)).extractLsb' (8 * (a % 32)) 8

/-- The granule holds what it reads as under the key `kid`, written under that key. -/
def Package.rekey (pk : Package) (kid g : Nat) : Package :=
  if sget 0 pk.enc g = kid then pk
  else { pk with dev := pk.dev.writeN (32 * g) (toBytes 32 (pk.granule kid g).toNat), enc := sset 0 pk.enc g kid }

/-- The same for every granule of a range. -/
def Package.rekeyRange (pk : Package) (kid a n : Nat) : Package :=
  if n = 0 || (kid == 0 && pk.enc.isEmpty) then pk
  else (List.range ((a + n - 1) / 32 - a / 32 + 1)).foldl (fun pk i => pk.rekey kid (a / 32 + i)) pk

def Package.readPA (pk : Package) (p : PAddr) : Byte :=
  match pk.here p with
  | some a => pk.devByte p.kid a
  | none => if p.tier = 1 then pk.host.read p.addr else pk.peer.read p.addr

/-- A byte written where it is served: a granule that stands under another key is first read and written back under the
key of the write, whole (22 R497). -/
def Package.writePA (pk : Package) (p : PAddr) (b : Byte) : Package :=
  match pk.here p with
  | some a => let pk := pk.rekey p.kid (a / 32)
              { pk with dev := pk.dev.write a b }
  | none => if p.tier = 1 then { pk with host := pk.host.write p.addr b } else { pk with peer := pk.peer.write p.addr b }

/-- A poisoned byte of this package's device memory (18 R430). -/
def Package.poisonAt (pk : Package) (p : PAddr) : Bool :=
  match pk.here p with | some a => pk.poison.contains (a / 32) | none => false

/-- Granules wholly written lose their poison (18 R430). (DEDUCED, safe: notes/assumptions/26.md.) -/
def Package.cleanse (pk : Package) (cells : List (PAddr × Byte)) : Package :=
  if pk.poison.isEmpty then pk
  else { pk with poison := pk.poison.filter fun g =>
    !(List.range 32).all fun i => cells.any fun c => pk.here c.1 == some (32 * g + i) }

/-- Some bytes are written where they are served. -/
def Package.putCells (pk : Package) (cells : List (PAddr × Byte)) : Package :=
  (cells.foldl (fun pk c => pk.writePA c.1 c.2) pk).cleanse cells

/-- `n` bytes of device memory as a walker reads them, with no key (10 R267). -/
def Package.devNum (pk : Package) (a n : Nat) : Nat := ofBytes ((List.range n).map fun i => pk.devByte 0 (a + i))

/-- Bytes of device memory written with no key: a leaf or a page counter. -/
def Package.devPut (pk : Package) (a : Nat) (bs : List Byte) : Package :=
  let pk := pk.rekeyRange 0 a bs.length
  { pk with dev := pk.dev.writeN a bs }

/-- A function's state; 17 functions, 0 the physical function. -/
def Package.fnOf (pk : Package) (fn : Nat) : FnState := vget pk.fns fn (FnState.reset false)
def Package.onFn (pk : Package) (fn : Nat) (f : FnState → FnState) : Package :=
  { pk with fns := vset pk.fns fn (f (pk.fnOf fn)) }

/-- Leaf fields (10 Table 4). -/
def leafTier (l : Word) : BitVec 2 := l.extractLsb' 8 2
def leafBit (l : Word) (b : Nat) : Bool := l.getLsbD b
def leafKey (l : Word) : Nat := bits l.toNat 15 10
def leafPfn (l : Word) : Nat := bits l.toNat 51 16

def tr0B (sub : BitVec 16) (va entry : Word) : Trap := { code := 0x0B, sub := sub, va := va, aux0 := entry }

/-- The checks of a leaf of `size` bytes, lowest sub-code first (10 R268, R269); a level without leaves has size 0. -/
def leafCheck (va l : Word) (size : Nat) : Except Trap Unit :=
  let pfn := leafPfn l
  let bad3 := leafTier l == 3 || (leafBit l 5 && leafTier l != 0) ||
    (leafTier l == 0 && decide (Config.devBytes ≤ pfn * 65536 + va.toNat % max size 65536)) ||
    (leafTier l == 2 && decide (2 ^ 34 ≤ pfn))
  let bad4 := size == 0 || decide (bits l.toNat 63 52 ≠ 0) || decide (pfn % (size / 65536) ≠ 0)
  if bad3 then .error (tr0B 3 va l) else if bad4 then .error (tr0B 4 va l) else .ok ()

/-- One level of the walk (10 R267, R268): the table's address, the level's lowest index bit, its index width,
the bytes from a table to its counters, the page size of a leaf (0: none) and the next table's alignment. -/
structure Level where
  lo : Nat
  width : Nat
  counters : Nat
  page : Nat
  nextAlign : Nat

def levels : List Level :=
  [⟨39, 18, 0, 0, 8192⟩, ⟨30, 9, 4096, 2 ^ 30, 8192⟩, ⟨21, 9, 4096, 2 ^ 21, 512⟩, ⟨16, 5, 256, 2 ^ 16, 0⟩]

def walkGo (pk : Package) (fn : Nat) (va : Word) : List Level → Nat → Except Trap TlbEnt
  | [], _ => .error (tr0B 4 va 0)
  | lv :: rest, table =>
    let i := bits va.toNat (lv.lo + lv.width - 1) lv.lo
    let e : Word := BitVec.ofNat 64 (pk.devNum (table + 8 * i) 8)
    if !leafBit e 0 then .error (tr0B 2 va e)
    else if leafBit e 1 then
      match leafCheck va e lv.page with
        | .error t => .error t
        | .ok _ => .ok { fn := fn, base := bits va.toNat 56 0 / lv.page * lv.page, size := lv.page, leaf := e
                         ctr := table + lv.counters + 2 * i }
    else
      let next := bits e.toNat 51 9 * 512
      if rest.isEmpty || decide (bits e.toNat 63 52 ≠ 0) || decide (bits e.toNat 8 2 ≠ 0) ||
          decide (next % lv.nextAlign ≠ 0) then .error (tr0B 4 va e)
      else walkGo pk fn va rest next

/-- The walk of a function's tables (10 R267). -/
def walk (pk : Package) (fn : Nat) (va : Word) : Except Trap TlbEnt :=
  if bits va.toNat 59 57 ≠ 0 then .error (tr0B 1 va 0)
  else walkGo pk fn va levels (pk.fnOf fn).root.toNat

def TlbEnt.covers (e : TlbEnt) (fn va : Nat) : Bool := e.fn == fn && decide (e.base ≤ va ∧ va < e.base + e.size)

/-- A cached translation (10 R271). -/
def Package.cached (pk : Package) (fn va : Nat) : Option TlbEnt := pk.tlb.find? (·.covers fn va)

/-- The translation of one page, through the cache (10 R271). -/
def Package.translate (pk : Package) (fn : Nat) (va : Word) : Except Trap TlbEnt :=
  if bits va.toNat 59 57 ≠ 0 then .error (tr0B 1 va 0)
  else match pk.cached fn (bits va.toNat 56 0) with
    | some e => .ok e
    | none => walk pk fn va

/-- DESIGN CHOICE, unsafe: notes/assumptions/12.md. -/
def Package.fill (pk : Package) (e : TlbEnt) : Package :=
  if pk.tlb.any (fun d => d.fn == e.fn && d.base == e.base) then pk else { pk with tlb := pk.tlb ++ [e] }

/-- Where a byte of a translated page is served, and the key it is read and written with (10 R266; 22 R497). -/
def Package.phys (pk : Package) (e : TlbEnt) (va : Nat) : PAddr :=
  { tier := leafTier e.leaf, addr := leafPfn e.leaf * 65536 + (va - e.base), key := leafKey e.leaf
    kid := pk.keyId (leafKey e.leaf) }

/-- The key slot of a page holds a key of the function (22 R500). -/
def Package.keyOk (pk : Package) (fn : Nat) (e : TlbEnt) : Bool :=
  leafKey e.leaf == 0 || (let sl := vget pk.keySlots (leafKey e.leaf) { owner := 0, valid := false }
                          fn != 0 && sl.valid && sl.owner == fn)

/-- A range cut at 64 KiB boundaries: every page's part (10 Table 2). -/
def pageParts (va : Word) (n : Nat) : List (Word × Nat) :=
  let off := va.toNat % 65536
  (List.range ((off + n + 65535) / 65536)).map fun i =>
    let start := if i = 0 then 0 else 65536 * i - off
    let stop := min n (65536 * (i + 1) - off)
    (va + BitVec.ofNat 64 start, stop - start)

/-- Where each byte of a checked range is served. -/
def Package.physOf (pk : Package) (fn : Nat) (va : Word) (n : Nat) : List PAddr :=
  (pageParts va n).flatMap fun p => match pk.translate fn p.1 with
    | .ok e => (List.range p.2).map fun i => (pk.phys e (bits p.1.toNat 56 0)).plus i
    | .error _ => []

/-- What an access needs of its pages. -/
structure Need where
  r : Bool := false
  w : Bool := false
  /-- TAGSET, TAGSETZ and TAGGET need TAG = 1 and compare no key (10 R290). -/
  tagOp : Bool := false
  /-- SEAL and UNSEAL look at translation and permission alone (11 R318). -/
  plain : Bool := false
  deriving DecidableEq, Repr

/-- Sealed ranges that hold a byte of the function's space, until an UNSEAL of the range completes (11 R305 to R307). -/
def FnState.sealedAt (f : FnState) (va : Nat) : Bool :=
  f.seals.any fun r => decide (r.base ≤ va ∧ va < r.base + r.bytes)

/-- The key of the granule of a device address (10 R276). -/
def Package.keyAt (pk : Package) (a : Nat) : BitVec 4 := sget 0 pk.keys (a / 32)

/-- The lower of two traps by code, then sub-code (03 R99). -/
def lowTrap (a b : Option Trap) : Option Trap :=
  match a, b with
  | none, b => b
  | a, none => a
  | some x, some y => if (y.code.toNat, y.sub.toNat).1 < x.code.toNat ∨
      (y.code = x.code ∧ y.sub.toNat < x.sub.toNat) then some y else some x

/-- The faults of one range inside one page (10 R269, R270, R277; 11 R306; 22 R500), lowest first. -/
def Package.pageFault (pk : Package) (fn : Nat) (need : Need) (va : Word) (n : Nat) : Option Trap :=
  let a := bits va.toNat 56 0
  let sealed := if need.w && !need.plain && (pk.fnOf fn).sealedAt a then some { code := 0x09, va := va : Trap } else none
  match pk.translate fn va with
  | .error t => lowTrap sealed (some t)
  | .ok e =>
    let perm (sub : BitVec 16) : Option Trap := some { code := 0x0C, sub := sub, va := va, aux0 := e.leaf }
    let p := pk.phys e a
    let k := leafKey e.leaf
    let tags := leafBit e.leaf 5 && !need.tagOp && !need.plain
    let want : BitVec 4 := va.extractLsb' 60 4
    let bad := if tags then (List.range ((a % 32 + n + 31) / 32)).find? fun i => pk.keyAt (p.addr + 32 * i) != want
      else none
    [ sealed,
      if need.r && !leafBit e.leaf 2 then perm 1 else none,
      if need.w && !leafBit e.leaf 3 then perm 2 else none,
      if need.tagOp && !leafBit e.leaf 5 then perm 3 else none,
      bad.map fun i => { code := 0x0D, va := BitVec.ofNat 64 ((a / 32 + i) * 32), aux0 := want.setWidth 64
                         aux1 := (pk.keyAt (p.addr + 32 * i)).setWidth 64 },
      if k ≠ 0 && (fn == 0) then some { code := 0x16, sub := 2, va := va, aux0 := BitVec.ofNat 64 k } else none,
      if fn ≠ 0 && !pk.keyOk fn e then
        some { code := 0x16, sub := 1, va := va, aux0 := BitVec.ofNat 64 k } else none ].foldl lowTrap none

/-- The faults of a list of ranges (10 R270). -/
def Package.rangesFault (pk : Package) (fn : Nat) (need : Need) (rs : List (Word × Nat)) : Option Trap :=
  (rs.flatMap fun r => pageParts r.1 r.2).foldl (fun t r => lowTrap t (pk.pageFault fn need r.1 r.2)) none

/-- Whether the device can write a range of a function's space: TIER 0 pages with W outside the sealed ranges
(15 R406; 11 R305), under no key or one of the function (22 R500). (DEDUCED, unsafe: notes/assumptions/55.md.) -/
def Package.fnWritable (pk : Package) (fn : Nat) (va : Word) (n : Nat) : Bool :=
  (pageParts va n).all fun p => match pk.translate fn p.1 with
    | .ok e => leafTier e.leaf == 0 && leafBit e.leaf 3 && pk.keyOk fn e && !(pk.fnOf fn).sealedAt (bits p.1.toNat 56 0)
    | .error _ => false

/-- A range that meets a write-blocked page (10 R272). -/
def Package.fnBlocked (pk : Package) (fn : Nat) (va : Word) (n : Nat) : Bool :=
  (pageParts va n).any fun p => match pk.translate fn p.1 with | .ok e => leafBit e.leaf 7 | .error _ => false

/-- Bytes written in a function's space, but for those in a sealed range, which keeps its own (11 R305). (DEDUCED, unsafe: notes/assumptions/92.md.) -/
def Package.fnPut (pk : Package) (fn : Nat) (va : Word) (bs : List Byte) : Package :=
  let cells := (pk.physOf fn va bs.length).zip bs
  let a := bits va.toNat 56 0
  pk.putCells (if (pk.fnOf fn).seals.isEmpty then cells
    else (cells.zipIdx.filter fun c => !(pk.fnOf fn).sealedAt (a + c.2)).map (·.1))

/-- Byte writes of the device's own in a function's space wait. -/
def Package.bytesWait (pk : Package) (fn : Nat) : Bool :=
  pk.devWrites.any fun w => match w with | .bytes f _ _ => f == fn | .post _ _ _ _ _ _ => false

/-- The device's own writes in a function's space: all bytes, or nothing; a write that meets a write-blocked page waits,
and the function's later ones behind it, so that WIDX follows its entry (10 R272; 15 R406; 18 R438). -/
def Package.fnWrite (pk : Package) (fn : Nat) (va : Word) (bs : List Byte) : Option Package :=
  if !pk.fnWritable fn va bs.length then none
  else if pk.fnBlocked fn va bs.length || pk.bytesWait fn then some { pk with devWrites := pk.devWrites ++ [.bytes fn va bs] }
  else some (pk.fnPut fn va bs)

/-- The device's own reads in a function's space: TIER 0 pages whose leaf has bit `perm` (R, unless said otherwise),
under no key or one of the function (22 R500). -/
def Package.fnRead (pk : Package) (fn : Nat) (va : Word) (n : Nat) (perm : Nat := 2) : Option (List Byte) :=
  if (pageParts va n).all fun p => match pk.translate fn p.1 with
      | .ok e => leafTier e.leaf == 0 && leafBit e.leaf perm && pk.keyOk fn e
      | .error _ => false then
    some ((pk.physOf fn va n).map pk.readPA)
  else none

def Package.fnNum (pk : Package) (fn : Nat) (va : Word) (n : Nat) (perm : Nat := 2) : Option Nat :=
  (pk.fnRead fn va n perm).map ofBytes

/-! ### Retag journal and the fault record -/

/-- The newest retag journal entries whose range covers the granule of `va`, newest first, at most four (10 R279). A ring
slot that does not hold the entry of its sequence number holds none, and without a journal there is none. -/
def Package.retagFor (pk : Package) (fn : Nat) (va : Word) : List (BitVec 256) :=
  let f := pk.fnOf fn
  let n := if f.retag = 0 then 0 else min f.retagSeq 4096
  let a := bits va.toNat 56 0
  ((List.range n).filterMap fun i =>
    let seq := f.retagSeq - 1 - i
    match pk.fnNum fn (f.retag + BitVec.ofNat 64 (32 * (seq % 4096))) 32 with
    | some r =>
      if bits r 255 192 = seq ∧ bits r 191 135 ≤ a ∧ a < bits r 191 135 + bits r 127 96 then some (BitVec.ofNat 256 r) else none
    | none => none).take 4

/-- The 2,048 bits of a posted record (18 Table 1). -/
def recordBits (k : Core) (podn : Nat) (sec : Bool) (r : StopRec) : Nat :=
  let t := r.trap
  t.code.toNat + r.retag.length * 2 ^ 8 + t.sub.toNat * 2 ^ 16 + (k.id % 64) * 2 ^ 520 + (k.id / 64) * 2 ^ 526 +
  podn * 2 ^ 528 + (if t.defer then 2 ^ 538 else 0) + (if t.cmd.isSome then 2 ^ 539 else 0) +
  (if sec then 2 ^ 540 else 0) + k.fn * 2 ^ 541 + (k.slot % 64) * 2 ^ 546 + k.tile.toNat * 2 ^ 552 +
  k.gang.toNat * 2 ^ 560 + k.phnum.toNat * 2 ^ 576 + r.lc.toNat * 2 ^ 592 + r.baddr.toNat * 2 ^ 640 +
  k.lid.toNat * 2 ^ 704 + t.va.toNat * 2 ^ 768 + (t.cmd.getD 0).toNat * 2 ^ 832 + t.aux0.toNat * 2 ^ 896 +
  t.aux1.toNat * 2 ^ 960 + ofEls 256 (r.retag.map BitVec.toNat) * 2 ^ 1024

/-! ### Rings in a function's space: notifications and trace -/

/-- A failed write of a ring is counted on the die and reported (15 R406). -/
def Package.ringFailed (pk : Package) (die : Nat) : Package :=
  { pk with errors := vset pk.errors die (vget pk.errors die 0 + 1), puppet := pk.puppet ++ [.corrected die] }

/-- Another post to the same control block waits. -/
def Package.ringWaits (pk : Package) (fn : Nat) (block : Word) : Bool :=
  pk.devWrites.any fun w => match w with | .post f b _ _ _ _ => f == fn && b == block | .bytes _ _ _ => false

/-- One 32-byte entry of a ring of `cap` entries with a control block (15 R406, Tables 5, 6; 20 R449): the entry, then
WIDX; with the ring full, DROPS; nothing when one of them cannot be written. With `seq` the entry's bits [255:192]
take WIDX. A write that meets a write-blocked page waits, and so do later posts to that block (DEDUCED, safe: notes/assumptions/71.md). -/
def Package.ringPost (pk : Package) (fn : Nat) (block : Word) (cap : Nat) (entry : BitVec 256) (seq : Bool) (die : Nat) :
    Package :=
  match pk.fnNum fn block 8 3, pk.fnNum fn (block + 8) 8 3, pk.fnNum fn (block + 16) 8 3 with
  | some w, some r, some d =>
    let at_ := block + 64 + BitVec.ofNat 64 (32 * (w % cap))
    let room := decide ((w + 2 ^ 64 - r) % 2 ^ 64 < cap)
    if pk.ringWaits fn block || pk.fnBlocked fn block 64 || (room && pk.fnBlocked fn at_ 32) then
      { pk with devWrites := pk.devWrites ++ [.post fn block cap entry seq die] }
    else if !pk.fnWritable fn block 64 || (room && !pk.fnWritable fn at_ 32) then pk.ringFailed die
    else if room then
      (pk.fnPut fn at_ (toBytes 32 (entry.toNat + if seq then w * 2 ^ 192 else 0))).fnPut fn block (toBytes 8 (w + 1))
    else pk.fnPut fn (block + 16) (toBytes 8 (d + 1))
  | _, _, _ => pk.ringFailed die

/-- The device's writes that wait are tried again, in their order (10 R272). -/
def Package.devRetry (pk : Package) : Package :=
  pk.devWrites.foldl (fun pk w => match w with
    | .bytes fn va bs => (pk.fnWrite fn va bs).getD pk
    | .post fn block cap e seq die => pk.ringPost fn block cap e seq die) { pk with devWrites := [] }

/-- A trace record (20 Table 2), written when the function has a ring and its control bit is 1 (20 R449). -/
def Package.trace (pk : Package) (k : Core) (bit : Nat) (sec : Bool) (type sub level : Nat) (baddr : Word)
    (lc : BitVec 48) (data : Nat) : Package :=
  let d := (pk.fnOf k.fn).dbg.toNat
  if d / 4096 = 0 || d / 2 ^ bit % 2 = 0 then pk
  else pk.ringPost k.fn (BitVec.ofNat 64 (d / 4096 * 4096)) (2 ^ (bits d 11 8 + 8))
    (BitVec.ofNat 256 (type + sub * 2 ^ 8 + level * 2 ^ 16 + (if sec then 2 ^ 23 else 0) + k.id * 2 ^ 24 +
      (pk.clock % 2 ^ 48) * 2 ^ 32 + lc.toNat * 2 ^ 80 + baddr.toNat * 2 ^ 128 + data * 2 ^ 192)) false (k.id / 64)

/-- The function that owns a slot's gang (09 Table 5). -/
def Slot.fn (sl : Slot) : Nat := bits sl.rcd.toNat 153 149

/-- The recovery report of a function (18 R434). -/
def Package.recoveryReport (pk : Package) (fn : Nat) (rcd : BitVec 2048) : PMsg :=
  let f := pk.fnOf fn
  .recovery fn rcd f.point f.egressIdx f.incomplete f.egress

/-- The Puppeteer stops every gang of a function and posts a recovery report; the function stays stopped until a
RECOVER (18 R434). -/
def Package.stopGangs (pk : Package) (fn : Nat) (rcd : BitVec 2048) : Package :=
  { (pk.onFn fn fun f => { f with recovering := true }) with
    slots := pk.slots.map fun sl => if sl.st = .running ∧ sl.fn = fn then { sl with st := .stopping } else sl
    puppet := pk.puppet ++ [pk.recoveryReport fn rcd] }

/-- TAKING AN EXCEPTION: the stream in focus stops precisely before the bundle at its PC (01 R44, R48; 18 R419).
No later bundle issues, results not yet landed stay pending with the lc they have left (01 R45), the record is kept
with the stream and posted to the Puppeteer, and a STOP trace record is written (20 Table 3). On fault 0x11 the
Puppeteer stops every gang of the function (18 R434). -/
def State.takeTrap (s : State) (t : Trap) : State :=
  let r : StopRec := { trap := t, baddr := s.str.pc, lc := if s.core.lock then s.core.vcc else s.str.lcc,
                       retag := if t.code = 0x0D then s.pkg.retagFor s.core.fn t.va else [] }
  let rcd := BitVec.ofNat 2048 (recordBits s.core s.pkg.podn s.str.sec r)
  let pk := { s.pkg with puppet := s.pkg.puppet ++ [PMsg.stop s.core.id s.str.sec r s.core.slot rcd] }
  let pk := if t.code = 0x11 then pk.stopGangs s.core.fn rcd else pk
  { s with str := { s.str with mode := .stopped, stopRec := some r, held := false, xlate := none, ffr := none }
           pkg := pk.trace s.core 1 s.str.sec 4 t.code.toNat 0 r.baddr s.str.lcc t.sub.toNat }

/-- THE RETURN FROM IT: a RESUME continues the stream before its stop bundle, at the lc at which it stopped; the
first bundle is exempt from the breakpoint units (18 R427, 20 R456). -/
def State.leaveTrap (s : State) : State :=
  s.onStr fun t => { t with mode := .running, stopRec := none, fresh := true, held := false }

/-- What an attempt to issue comes to: the next state; held, before issue; or stopped. -/
def finish (r : Try State) : Res :=
  match r with
  | .ok s => .next (s.onStr fun t => { t with held := false, xlate := none })
  | .error (.hold s) => .next (s.onStr fun t => { t with held := true })
  | .error (.trap s t) => .next (s.takeTrap t)

/-- An instruction with a reserved code or a forbidden register raises fault 0x01 (03 R93); else it goes on. -/
def guarded (i : Instr) (s : State) (k : Try State) : Res :=
  if legal i then finish k else .next (s.takeTrap { code := 0x01 })

/-- A form that the secondary stream may not issue (08 R217). -/
def primaryOnly (s : State) : Try Unit := trapIf s s.str.sec 0x03 0

/-! ### Cause log and replay journal -/

/-- Adds an event to a core's log (18 R437). -/
def Core.logEvent (k : Core) (code : BitVec 8) (baddr : Word) (sec : Bool) : Core :=
  if k.clog.any (fun c => c.code == code && c.baddr == baddr && c.sec == sec) then
    { k with clog := k.clog.map fun c => if c.code == code && c.baddr == baddr && c.sec == sec then
        { c with count := min (c.count + 1) (2 ^ 32 - 1) } else c }
  else if k.clog.length < 32 then { k with clog := k.clog ++ [{ code := code, baddr := baddr, sec := sec, count := 1 }] }
  else { k with clogOvf := true }

/-- Appends an entry to the function's replay journal (18 R438, R439, Table 11). A replayed launch appends nothing to the
journal that it is held against (DEDUCED, unsafe: notes/assumptions/36.md). -/
def Package.journalAdd (pk : Package) (k : Core) (code : BitVec 8) (sec : Bool) (baddr : Word) (lc : BitVec 48)
    (value : Word) : Package :=
  let f := pk.fnOf k.fn
  let pk1 := { pk with gsn := pk.gsn + 1 }
  if f.journal = 0 ∨ k.replay = true then pk1
  else if f.dropped || decide (f.journalCap ≤ f.journalIdx) then
    if f.dropped then pk1
    else
      let h := toBytes 24 (k.id + 2 ^ 64 + pk.gsn * 2 ^ 72 + lc.toNat * 2 ^ 128)
      ((pk1.fnWrite k.fn (f.journal + 8) h).getD pk1).onFn k.fn fun f => { f with dropped := true }
  else
    let e := code.toNat + pk.gsn * 2 ^ 8 + (if sec then 2 ^ 71 else 0) + k.id * 2 ^ 72 + lc.toNat * 2 ^ 80 +
      baddr.toNat * 2 ^ 128 + value.toNat * 2 ^ 192
    let pk2 := (pk1.fnWrite k.fn (f.journal + 64 + BitVec.ofNat 64 (32 * f.journalIdx)) (toBytes 32 e)).getD pk1
    let pk3 := (pk2.fnWrite k.fn f.journal (toBytes 8 (f.journalIdx + 1))).getD pk2
    pk3.onFn k.fn fun f => { f with journalIdx := f.journalIdx + 1 }

/-- A cause-log event of the bundle in hand, with the value that the journal keeps for it. It enters the log when the
bundle has issued, so that no syllable of the bundle sees it (01 R17). -/
def State.cause (s : State) (code : BitVec 8) (value : Word := 0) (due : Nat := 0) : State :=
  s.onCore fun k => { k with events := k.events ++ [{ code := code, sec := s.str.sec, value := value, due := due }] }

/-- An event of the bundle in hand is recorded: in the log, unless it is a marker of RJMARK (18 R441), and in a free phase
in the journal, where an event on a peer waits for its reply (18 R437 to R439). -/
def State.recordEvent (s : State) (e : Event) : State :=
  let s1 := if e.code = 0x80 then s else s.onCore fun k => k.logEvent e.code s.str.pc s.str.sec
  if !s.core.free then s1
  else if s.pkg.clock < e.due then
    s1.onCore fun k => { k with lateEvents := k.lateEvents ++ [{ ev := e, baddr := s.str.pc, lc := s.str.lcc }] }
  else s1.onPkg fun pk => pk.journalAdd s.core e.code s.str.sec s.str.pc s.str.lcc e.value

/-- The events of a bundle that has issued. -/
def State.recordEvents (s : State) : State :=
  s.core.events.foldl State.recordEvent (s.onCore fun k => { k with events := [] })

/-- Events on peers whose reply has arrived enter the journal (18 R439). -/
def State.lateJournal (s : State) : State :=
  let due := s.core.lateEvents.filter fun e => decide (e.ev.due ≤ s.pkg.clock)
  due.foldl (fun s e => s.onPkg fun pk => pk.journalAdd s.core e.ev.code e.ev.sec e.baddr e.lc e.ev.value)
    (s.onCore fun k => { k with lateEvents := k.lateEvents.filter fun e => decide (s.pkg.clock < e.ev.due) })

/-- Entry `i` of the journal that a launch is replayed against (18 R440), before DROPGSN. -/
def Package.replayEntry (pk : Package) (fn i : Nat) : Option Nat :=
  let f := pk.fnOf fn
  match pk.fnNum fn f.journal 8 with
  | some w => if i < w then pk.fnNum fn (f.journal + 64 + BitVec.ofNat 64 (32 * i)) 32 else none
  | none => none

/-- The place in the replay journal of a core's next entry, from `i` on (18 R440). -/
def Package.nextEntry (pk : Package) (fn core : Nat) : Nat → Nat → Option (Nat × Nat)
  | 0, _ => none
  | n + 1, i => match pk.replayEntry fn i with
    | none => none
    | some e => if bits e 79 72 = core then some (i, e) else pk.nextEntry fn core n (i + 1)

/-- In a replayed free phase an event waits for those of lower GSN, must be the next entry of its core, and moves the
replay on; a core with no entry left waits for the others' (18 R440; DEDUCED, unsafe: notes/assumptions/36.md). -/
def State.gateEvent (s : State) (code : BitVec 8) (baddr : Word) : Try State :=
  if !s.core.replay || !s.core.free then .ok s
  else
    let fn := s.core.fn
    let at_ := (s.pkg.fnOf fn).replayAt
    let waits := s.ctxs.any fun c => c.core.fn == fn && !c.core.lateEvents.isEmpty
    match s.pkg.nextEntry fn s.core.id (2 ^ 28) at_ with
    | none => if waits || (s.pkg.replayEntry fn at_).isSome then .error (.hold s) else .ok s
    | some (i, e) =>
      if bits e 7 0 ≠ code.toNat ∨ bits e 191 128 ≠ baddr.toNat then
        .error (.trap s { code := 0x12, sub := 0x400, aux0 := BitVec.ofNat 64 (bits e 63 8) })
      else if i ≠ at_ || waits then .error (.hold s)
      else .ok (s.onPkg fun pk => pk.onFn fn fun f => { f with replayAt := at_ + 1 })

/-- In replay, codes 0x02 and 0x05 take VALUE from the journal (18 R440). -/
def State.replayed (s : State) (v : Word) : Word :=
  if s.core.replay then match s.pkg.replayEntry s.core.fn (s.pkg.fnOf s.core.fn).replayAt with
    | some e => BitVec.ofNat 64 (bits e 255 192)
    | none => v
  else v

/-- A fresh value of the hardware entropy source: a free value (DESIGN CHOICE, safe: notes/assumptions/5.md). -/
def State.entropy (s : State) : Word × State :=
  (s.replayed (Config.entropy s.pkg.draws), s.onPkg fun pk => { pk with draws := pk.draws + 1 })

/-- The clocks that the next reply takes: the outside world's timing, an input (DESIGN CHOICE, unsafe: notes/assumptions/6.md). -/
def State.delay (s : State) : Nat × State :=
  (s.pkg.delays.headD 0, s.onPkg fun pk => { pk with delays := pk.delays.tail })

end Sys2Proof.Machine
end

