-- ==== Sys2Proof/Machine/Operands.lean ====
section
/-! DEFINITION. Operand forms: L-space addresses and the conditions every scratchpad access waits on or faults on
(01 R34 to R40; 08 R218; 10 R288; 14 R371, R376; 18 R430; 20 R455), and global accesses: checks before issue,
counters, tracking, reads and writes (10 R265 to R284; 11 R291 to R304). -/
namespace Sys2Proof.Machine

/-! ### L-space -/

def Core.rfb (k : Core) : Nat := bits k.part.toNat 1 0
def Core.acb (k : Core) : Nat := bits k.part.toNat 6 2
/-- Scratchpad banks (01 R30). -/
def Core.nsb (k : Core) : Nat := 128 - k.rfb - k.acb

/-- Pool address of an L-address under an SPB (01 R34, R36): linear over the banks. -/
def poolAddr (spb la : Word) : Nat := la.toNat + spb.toNat % 128 * Config.bankBytes

/-- Every byte of the range has an L-address below 2^22 and a bank below NSB (01 R36). -/
def Core.inBounds (k : Core) (spb la : Word) (n : Nat) : Bool :=
  decide (la.toNat + n ≤ 2 ^ 22) && decide (poolAddr spb la + n ≤ k.nsb * Config.bankBytes)

/-- Alignment, then bounds, of an L-space range (01 R36, R37, 03 R99); its pool address. -/
def State.lspaceBy (s : State) (spb la : Word) (n align : Nat) : Try Nat := do
  trapWith s (decide (la.toNat % align ≠ 0)) { code := 0x05, va := la }
  trapWith s (!s.core.inBounds spb la n) { code := 0x06, va := la }
  .ok (poolAddr spb la)

def State.lspace (s : State) (la : Word) (n align : Nat) : Try Nat := s.lspaceBy s.str.spb la n align

/-- Rows of 512 bytes and banks that a pool range touches. -/
def rowsOf (a n : Nat) : List Nat := if n = 0 then [] else (List.range ((a + n - 1) / 512 - a / 512 + 1)).map (· + a / 512)
def banksOf (a n : Nat) : List Nat :=
  if n = 0 then [] else (List.range ((a + n - 1) / Config.bankBytes - a / Config.bankBytes + 1)).map (· + a / Config.bankBytes)

/-- Rows that tagged copies, haul actions and collectives keep busy (14 R376, 15 R397, 21 R480). -/
def Core.busyRows (k : Core) : List Nat :=
  k.copies.flatMap (fun c => c.runs.flatMap (·.rows)) ++
  (match k.plan with | some p => p.acts.flatMap (fun a => if a.done then [] else a.rows) | none => []) ++
  k.colls.flatMap (fun c => c.iters.flatMap (·.rows))

/-- Ranges of probe slots whose fill is outstanding (10 R288). -/
def Core.fillRanges (k : Core) : List (Nat × Nat) :=
  (k.probe.tab.zipIdx).filterMap fun (w, i) => if w.fill.isSome then some (k.probe.pool + 256 * i, 256) else none

def overlap (a n b m : Nat) : Bool := decide (a < b + m ∧ b < a + n)

/-- An outstanding fill covers a byte of the ranges (10 R288). -/
def Core.filling (k : Core) (rs : List (Nat × Nat)) : Bool :=
  rs.any fun r => k.fillRanges.any fun f => overlap r.1 r.2 f.1 f.2

/-- An access to any of the ranges must wait. -/
def Core.mustWait (k : Core) (rs : List (Nat × Nat)) : Bool :=
  let busy := k.busyRows
  k.filling rs || rs.any fun r => !busy.isEmpty && (rowsOf r.1 r.2).any busy.contains

def State.dbgen (s : State) : Bool := (s.pkg.fnOf s.core.fn).dbg.getLsbD 0

/-- Unit whose watch range an access touches (20 R455). (DEDUCED, unsafe: notes/assumptions/15.md.) -/
def State.watched (s : State) (sp : Bool) (a n : Nat) : Option (Nat × Word) :=
  if !s.dbgen || s.str.fresh then none
  else (List.range 4).findSome? fun u =>
    let c := (vget s.core.bpctl u 0).toNat
    let v := vget s.core.bpval u 0
    let sz := bits c 9 4
    let lo := (if sp then bits v.toNat 56 0 else v.toNat) / 2 ^ sz * 2 ^ sz
    if bits c 1 0 = 3 ∧ sz ≤ 57 ∧ (bits c 2 2 = 1) = sp ∧ (bits c 3 3 = 1) = s.str.sec ∧ overlap a n lo (2 ^ sz) then
      some (u, v) else none

def watchTrap (u : Nat) (v : Word) : Trap := { code := 0x17, sub := 3, va := v, aux0 := BitVec.ofNat 64 u }

/-- Of two watch matches, that of the lower unit. -/
def lowUnit (t : Option Trap) (u : Nat × Word) : Option Trap :=
  match t with
  | some t => if t.aux0.toNat ≤ u.1 then some t else some (watchTrap u.1 u.2)
  | none => some (watchTrap u.1 u.2)

/-- A cause-log code written once for a bundle (08 R218). -/
def State.causeOnce (s : State) (code : BitVec 8) : State :=
  if s.core.events.any (fun e => e.1 == code) then s else s.cause code

/-- A poisoned granule under a read (18 R430). -/
def Core.poisonUnder (k : Core) (rs : List (Nat × Nat)) : Option Nat :=
  k.poison.find? fun p => rs.any fun r => overlap r.1 r.2 p 32

/-- The early-read checker on an access `lat` lc from now, a write or a read; it compares two lc fixed at issue
(14 R371). -/
def State.early (s : State) (write : Bool) (lat : Nat) (la : Word) (rs : List (Nat × Nat)) : Option Trap :=
  (s.core.watch.findSome? fun w =>
    (if write then w.src.find? (fun b => lat ≤ b.2 && rs.any fun r => overlap r.1 r.2 b.1 1)
     else w.dst.find? (fun b => lat < b.2 && rs.any fun r => overlap r.1 r.2 b.1 1)).map fun b => (w, b)).map fun h =>
    { code := 0x13, sub := if write then 2 else 1, va := la, cmd := some h.1.baddr
      aux0 := (s.str.lcc + BitVec.ofNat 48 h.2.2).setWidth 64, aux1 := (s.str.lcc + BitVec.ofNat 48 lat).setWidth 64 }

/-- The faults of a scratchpad access by the bundle in hand, the lowest of them, but for the watch of 20 R455: `rs` are
its pool ranges, `la` its first L-address, `lat` the lc until its effect (0 for a read). -/
def State.laccFault (s : State) (write : Bool) (lat : Nat) (la : Word) (rs : List (Nat × Nat)) : Option Trap :=
  lowTrap (if write then none else (s.core.poisonUnder rs).map fun p =>
    { code := 0x11, sub := 2, va := la, aux0 := BitVec.ofNat 64 (p / Config.bankBytes) }) (s.early write lat la rs)

def trapOpt (s : State) (t : Option Trap) : Try Unit := match t with | some t => .error (.trap s t) | none => .ok ()

/-- The watch ranges, which rank after every other fault of the syllable (20 R455); `rs` are its pool ranges. -/
def State.lwatch (s : State) (rs : List (Nat × Nat)) : Try Unit :=
  let off := s.str.spb.toNat % 128 * Config.bankBytes
  trapOpt s ((rs.filterMap fun r => s.watched false (r.1 - off) r.2).foldl (fun t u => lowUnit t u) none)

/-- The regions bound to the lock word at an address (11 R297): global or not, base and bytes. -/
def State.boundTo (s : State) (va : Word) : List (Bool × Nat × Nat) :=
  (s.str.binds.filter fun b => b.kind == 0 && b.objGlobal && overlap (bits va.toNat 56 0) 1 (bits b.obj.toNat 56 0) 8).map fun b =>
    (b.regionGlobal, if b.regionGlobal then bits b.base.toNat 56 0 else b.base.toNat, b.bytes.toNat)

/-- An access to the regions that were bound to the object of an acquire when it issued waits for the acquire to be
performed (11 R297). -/
def Stream.acquiring (t : Stream) (issue : Nat) (global : Bool) (rs : List (Nat × Nat)) : Bool :=
  t.gq.any fun o => o.acq.isSome && o.lc != issue && o.bound.any fun b =>
    b.1 == global && rs.any fun r => overlap r.1 r.2 b.2.1 b.2.2
def State.acquiring (s : State) (global : Bool) (rs : List (Nat × Nat)) : Bool := s.str.acquiring s.core.issue global rs

/-- An acquire or a release waits for the stream's earlier acquires (11 R297). -/
def State.unacquired (s : State) : Bool := s.str.gq.any fun o => o.acq.isSome && o.lc != s.core.issue

/-- The access waits for busy rows, fills and acquires. -/
def State.lheld (s : State) (rs : List (Nat × Nat)) : Bool :=
  s.core.mustWait rs || s.acquiring false (rs.map fun r => (r.1 - s.str.spb.toNat % 128 * Config.bankBytes, r.2))

/-- Whose access of a bank one by the stream in focus is. -/
def State.accessor (s : State) : Nat := if s.str.sec then s.core.issue + 1 else 0

/-- The access counts as one of its banks, a store in the lc of its effect (01 R39); a primary read of a marked row is
logged (08 R218). -/
def State.lcount (s : State) (write : Bool) (rs : List (Nat × Nat)) : State :=
  let s := if write then s else
    s.onCore fun k => { k with touched := k.touched ++ [(s.accessor, (rs.flatMap fun r => banksOf r.1 r.2).eraseDups)] }
  if !write && !s.str.sec && (rs.flatMap fun r => rowsOf r.1 r.2).any s.core.marks.contains then s.causeOnce 0x03 else s

/-- A scratchpad access of a syllable without further checks: it waits, faults, or is counted. -/
def State.lacc (s : State) (write : Bool) (lat : Nat) (la : Word) (rs : List (Nat × Nat)) : Try State := do
  holdIf s (s.lheld rs)
  trapOpt s (s.laccFault write lat la rs)
  s.lwatch rs
  .ok (s.lcount write rs)

/-- The same for an engine, whose accesses meet no watch range (20 R455). -/
def State.laccEngine (s : State) (write : Bool) (lat : Nat) (la : Word) (rs : List (Nat × Nat)) : Try State := do
  holdIf s (s.lheld rs)
  trapOpt s (s.laccFault write lat la rs)
  .ok (s.lcount write rs)

/-- Objects that the stream's binding table names: whether a plain load touches one (11 R304). -/
def State.touchesObject (s : State) (global : Bool) (a n : Nat) : Bool :=
  s.str.binds.any fun b => decide (b.kind.toNat = 1) && b.objGlobal == global &&
    overlap a n (if global then bits b.obj.toNat 56 0 else b.obj.toNat) 32

def State.lloadCause (s : State) (la : Word) (n : Nat) : State :=
  if s.touchesObject false la.toNat n then s.cause 0x07 else s

/-- Place of a store effect in the order of 01 R38: bundles in issue order, in one lc the primary's first (08 R214),
syllables of one in slot order; in one lc, copy beats and then matrix outputs follow them (01 R39). -/
def Core.effSeq (k : Core) (sec : Bool) (slot : Nat) : Nat := 16 * k.issue + (if sec then 8 else 0) + slot
/-- DEDUCED, unsafe: notes/assumptions/22.md. -/
def beatSeq : Nat := 2 ^ 64
def matrixSeq : Nat := 2 ^ 65

/-- A store effect of the bundle in hand, due `lat` lc after issue (01 R38), by the syllable in `slot`. -/
def State.store (s : State) (lat : Nat) (cells : List Host.Cell) (slot : Nat) : State :=
  s.onCore fun k =>
    { k with stores := k.stores ++ [{ cells := cells, left := lat, seq := k.effSeq s.str.sec slot, sec := s.str.sec }] }

/-- The store effect on its way that will write a byte of the pool last (01 R38), by its place in the list. -/
def Core.coming (k : Core) (a : Nat) : Option Nat :=
  ((k.stores.zipIdx.filter fun e => !e.1.xor && e.1.cells.any (·.1 == a)).foldl (fun m e => match m with
    | some f => if f.1.left < e.1.left ∨ (f.1.left = e.1.left ∧ f.1.seq ≤ e.1.seq) then some e else m
    | none => some e) none).map (·.2)

/-- A byte of the pool as the store effects on their way will leave it. -/
def Core.byteAfter (k : Core) (a : Nat) : Byte :=
  match k.coming a with
  | some i => (((k.stores[i]?.bind fun e => e.cells.reverse.find? (·.1 == a)).map (·.2))).getD 0
  | none => k.spad.read a

/-- A byte written behind the store effects on their way: into the last of them that writes it, else into the pool. -/
def Core.writeAfter (k : Core) (a : Nat) (b : Byte) : Core :=
  match k.coming a with
  | some i => { k with stores := k.stores.modify i fun e =>
      { e with cells := e.cells.map fun c => if c.1 = a then (a, b) else c } }
  | none => { k with spad := k.spad.write a b }

/-- The barrier object at a pool address, as the last store effect on its way leaves it: an update of an engine or a port
comes after the stores that have issued (01 R38; 11 R302). (DEDUCED, unsafe: notes/assumptions/91.md.) -/
def Core.objNum (k : Core) (a : Nat) : Nat :=
  if k.stores.isEmpty then k.spad.num a 32 else ofBytes ((List.range 32).map fun i => k.byteAfter (a + i))

/-- The object's new bytes, behind those stores. -/
def Core.objPut (k : Core) (a v : Nat) : Core :=
  if k.stores.isEmpty then { k with spad := k.spad.writeN a (toBytes 32 v) }
  else (toBytes 32 v).zipIdx.foldl (fun k b => k.writeAfter (a + b.2) b.1) k

/-! ### Global space -/

def Package.numPA (pk : Package) (p : PAddr) (n : Nat) : Nat :=
  ofBytes ((List.range n).map fun i => pk.readPA (p.plus i))

def Package.writeNumPA (pk : Package) (p : PAddr) (n v : Nat) : Package :=
  ((toBytes n v).zipIdx).foldl (fun pk b => pk.writePA (p.plus b.2) b.1) pk

/-- A TIER 2 address of another package that no ACTIVE plan reaches (21 R468). -/
def Package.unreachable (pk : Package) (p : PAddr) : Bool :=
  p.tier == 2 && decide (p.addr / 2 ^ 40 ≠ pk.podn) &&
  match pk.active with
  | none => true
  | some pl => (pl.route.getD (p.addr / 2 ^ 40 % 1024) 0xFF) == 0xFF

/-- The port that carries accesses to a package (21 R468). An access that no port carries is counted at port 0 (DESIGN
CHOICE, unsafe: notes/assumptions/73.md). -/
def Package.portOf (pk : Package) (p : PAddr) : Nat :=
  match pk.active with
  | none => 0
  | some pl => let q := (pl.route.getD (p.addr / 2 ^ 40 % 1024) 0xFF).toNat; if q < 18 then q else 0

/-- The ports that carry accesses to some bytes, those of other packages among them. -/
def Package.portsOf (pk : Package) (pas : List PAddr) : List Nat :=
  ((pas.filter fun p => p.tier == 2 && decide (p.addr / 2 ^ 40 ≠ pk.podn)).map pk.portOf).eraseDups

def Package.portAt (pk : Package) (q : Nat) : Port :=
  vget pk.ports q { debt := 0, failed := false, retry := false, slack := 0, errors := 0 }
def Package.onPort (pk : Package) (q : Nat) (f : Port → Port) : Package :=
  { pk with ports := vset pk.ports q (f (pk.portAt q)) }

/-- The requests that an access makes of a peer: at most 256 bytes each, within 256-byte bounds (21 R465); the first byte
of each. -/
def peerRequests (pas : List PAddr) : List PAddr :=
  pas.foldl (fun l p => if l.any fun q => q.tier == p.tier && q.addr / 256 == p.addr / 256 then l else l ++ [p]) []

/-- An error response to a posted request to a peer is counted at its port and reported (21 R467). -/
def State.portError (s : State) (p : PAddr) : State :=
  s.onPkg fun pk => { (pk.onPort (pk.portOf p) fun q => { q with errors := q.errors + 1 }) with
    puppet := pk.puppet ++ [.portError (pk.portOf p)] }

/-- The new value of an atomic on w bits (11 Table 5), ops 0 to 9; op 1 is decided by the caller. -/
def atomicNew (op w old data : Nat) : Nat :=
  let so := toSigned w old
  let sd := toSigned w data
  match op with
  | 0 => data
  | 1 => data
  | 2 => (old + data) % 2 ^ w
  | 3 => old &&& data
  | 4 => old ||| data
  | 5 => old ^^^ data
  | 6 => if so ≤ sd then old else data
  | 7 => if so ≤ sd then data else old
  | 8 => min old data
  | 9 => max old data
  | _ => (old + data) % 2 ^ w

/-- A barrier object as one 256-bit number after an update (11 R302). -/
def objUpdate (o bytes arr : Nat) : Nat :=
  let arra := (bits o 191 160 + arr)
  let arrb := (bits o 127 64 + bytes)
  let expa := bits o 159 128
  let expb := bits o 63 0
  let ovf := if expa < arra ∨ expb < arrb then 1 else bits o 193 193
  let keep := bits o 223 194 * 2 ^ 194 + expa * 2 ^ 128 + expb
  if ovf = 0 ∧ arra = expa ∧ arrb = expb then
    keep + (1 - bits o 192 192) * 2 ^ 192 + (bits o 255 224 + 1) % 2 ^ 32 * 2 ^ 224
  else
    keep + ovf * 2 ^ 193 + bits o 192 192 * 2 ^ 192 + bits o 255 224 * 2 ^ 224 + arra % 2 ^ 32 * 2 ^ 160 +
      arrb % 2 ^ 64 * 2 ^ 64

/-- Egress journal of writes that leave device memory (18 R433). -/
def Package.egressAdd (pk : Package) (fn : Nat) (p : PAddr) : Package :=
  let f := pk.fnOf fn
  if p.tier = 0 ∨ f.point.isNone ∨ f.incomplete then pk
  else if 65536 ≤ f.egressIdx then pk.onFn fn fun f => { f with incomplete := true }
  else
    let pk1 := (pk.fnWrite fn (f.egress + BitVec.ofNat 64 (8 * f.egressIdx))
      (toBytes 8 (p.addr / 4096 % 2 ^ 45 * 4096 + p.tier.toNat))).getD pk
    pk1.onFn fn fun f => { f with egressIdx := f.egressIdx + 1 }

/-- A global effect is performed at the point that serves its bytes (11 R293). -/
def Package.perform (pk : Package) (fn : Nat) (e : GEffect) : Package :=
  match e with
  | .bytes cells =>
    let grans := (cells.filter (fun c => c.1.tier != 0)).map fun c =>
      { c.1 with addr := c.1.addr / 4096 * 4096, key := 0, kid := 0 : PAddr }
    grans.eraseDups.foldl (fun pk p => pk.egressAdd fn p) (pk.putCells cells)
  | .keys cells => { pk with keys := cells.foldl (fun m c => sset 0 m c.1 c.2) pk.keys }
  | .atomic loc op w data =>
    let old := pk.numPA loc w
    let pk1 := pk.writeNumPA loc w (atomicNew op.toNat (8 * w) old data)
    if loc.tier = 0 then pk1 else pk1.egressAdd fn { loc with addr := loc.addr / 4096 * 4096 }
  | .update loc bytes arr => pk.writeNumPA loc 32 (objUpdate (pk.numPA loc 32) bytes arr)

/-- The key that the page of a translated address had has been destroyed since, whatever its slot holds now (22 R500). -/
def Package.keyless (pk : Package) (p : PAddr) : Bool := pk.keyId p.key != p.kid

/-- A queued write to a page whose key has been destroyed is discarded and reported (22 R500). -/
def Package.performOp (pk : Package) (fn : Nat) (o : GOp) : Package :=
  let report (pk : Package) (p : PAddr) : Package := { pk with puppet := pk.puppet ++ [.discardedWrite p.addr] }
  if o.place then pk
  else match o.eff with
  | .bytes cells => match cells.find? fun c => pk.keyless c.1 with
    | some c => (report pk c.1).perform fn (.bytes (cells.filter fun c => !pk.keyless c.1))
    | none => pk.perform fn o.eff
  | .atomic loc _ _ _ | .update loc _ _ => if pk.keyless loc then report pk loc else pk.perform fn o.eff
  | .keys _ => pk.perform fn o.eff

/-- The memory as the stream sees it: its own earlier writes performed (10 R284, 11 R291). -/
def State.view (s : State) : Package := s.str.gq.foldl (fun pk o => pk.performOp s.core.fn o) s.pkg

/-- The 8-byte words that an atomic touches. -/
def wordsOf (a n : Nat) : List Nat := (List.range ((a % 8 + n + 7) / 8)).map fun i => a / 8 + i

def PAddr.word (p : PAddr) : Nat := p.tier.toNat * 2 ^ 60 + p.addr

/-- A release of the secondary stream on an object is kept for 08 R218. (DEDUCED, unsafe: notes/assumptions/65.md.) -/
def State.noteRelease (s : State) (glob : Bool) (words : List Nat) (gen : Option Nat) : State :=
  if s.str.sec then
    s.onCore fun k => { k with secRel := (k.secRel ++ words.map fun w => (glob, w, gen)).eraseDups }
  else s

/-- An acquire of the primary stream that synchronises with such a release clears the row marks (08 R218). -/
def State.noteAcquire (s : State) (glob : Bool) (words : List Nat) (sees : Option Nat → Bool) : State :=
  if !s.str.sec && s.core.secRel.any (fun r => r.1 == glob && words.contains r.2.1 && sees r.2.2) then
    s.onCore fun k => { k with marks := [] }
  else s

/-- A release or an acquire of the stream in focus that departed has been performed (11 R297; 08 R218). -/
def State.noteOp (s : State) (o : GOp) : State :=
  match o.eff with
  | .atomic loc _ w _ =>
    let s := if o.rel then s.noteRelease true (wordsOf loc.word w) none else s
    if o.acq.isSome then s.noteAcquire true (wordsOf loc.word w) Option.isNone else s
  | _ => s

/-- The bytes that an effect writes, whatever their values. -/
def GOp.written (o : GOp) : List (PAddr × Byte) :=
  match o.eff with
  | .bytes cells => cells.map fun c => (c.1, 0)
  | .atomic loc _ w _ => (List.range w).map fun i => (loc.plus i, 0)
  | .update loc _ _ => (List.range 32).map fun i => (loc.plus i, 0)
  | .keys _ => []

/-- The places that actions hold in a queue whose effects `now` are performed: each takes note of the bytes that the
effects after it write. -/
def placesOf : List GOp → List GOp
  | [] => []
  | o :: rest =>
    if o.place then
      { o with eff := match o.eff with | .bytes cs => .bytes (cs ++ (rest.filter (!·.place)).flatMap GOp.written) | e => e } ::
        placesOf rest
    else placesOf rest

/-- The first `n` queued effects of the stream in focus are performed (11 R293); an action that has not begun keeps its
place (15 R399). -/
def State.performN (s : State) (n : Nat) : State :=
  let now := s.str.gq.take n
  (now.filter (!·.place)).foldl State.noteOp
    { s with pkg := now.foldl (fun pk o => pk.performOp s.core.fn o) s.pkg
             str := { s.str with gq := placesOf now ++ s.str.gq.drop n } }

/-- Every write of the stream in focus performed now. -/
def State.flush (s : State) : State := s.performN s.str.gq.length

/-- A queued effect whose result a read of these bytes takes from memory: an atomic or an update on one of them. -/
def GOp.combines (o : GOp) (pas : List PAddr) : Bool :=
  let on (loc : PAddr) (n : Nat) : Bool :=
    pas.any fun p => p.tier == loc.tier && decide (loc.addr ≤ p.addr ∧ p.addr < loc.addr + n)
  match o.eff with
  | .atomic loc _ w _ => on loc w
  | .update loc _ _ => on loc 32
  | _ => false

/-- Before a read, the stream's own queued atomics on its bytes are performed, with the effects queued before them: the
read takes its value from the order of writes of each byte (10 R284; 11 R291, R293). (DEDUCED, unsafe: notes/assumptions/72.md.) -/
def State.settleG (s : State) (pas : List PAddr) : State :=
  match (List.range s.str.gq.length).reverse.find? fun i => (s.str.gq[i]?.map fun o => o.combines pas).getD false with
  | some i => s.performN (i + 1)
  | none => s

/-- A global effect issued now: performed at once when the outside world's timing allows, else queued (11 R293). -/
def State.issueG (s : State) (e : GEffect) (rel : Bool := false) (acq : Option Word := none) : State :=
  let (d, s) := s.delay
  let o : GOp := { eff := e, due := s.pkg.clock + d, lc := s.core.issue, rel := rel, acq := acq
                   bound := match acq with | some va => s.boundTo va | none => [] }
  if d = 0 ∧ s.str.gq.isEmpty = true then (s.onPkg fun pk => pk.perform s.core.fn e).noteOp o
  else s.onStr fun t => { t with gq := t.gq ++ [o] }

/-- The pages of a list of ranges. -/
def pagesOf (rs : List (Word × Nat)) : List (Word × Nat) := rs.flatMap fun r => pageParts r.1 r.2

/-- What an access looks up in a page before it issues: its translation, and the keys of its granules where they are
compared or read (10 R270, R277, R278, R290). -/
def Need.keyed (n : Need) (l : Word) : Bool := leafBit l 5 && !n.plain && !(n.tagOp && n.w)

/-- The page of an access is not at hand: no translation of it is cached, or keys of it are fetched. -/
def Package.lookup (pk : Package) (fn : Nat) (n : Need) (va : Word) : Bool :=
  match pk.cached fn (bits va.toNat 56 0) with
  | none => true
  | some e => n.keyed e.leaf

/-- The checks that every global access makes before its bundle issues (10 R270, R272): translations and keys still on
their way and write-blocked pages hold the bundle, a failure stops the stream, and the translations are then cached. A
bundle held by a write-blocked page keeps the translation it found until an invalidation removes it. -/
def State.gcheckAll (s : State) (fn : Nat) (needs : List (Need × List (Word × Nat)))
    (extra : Package → Option Trap := fun _ => none) : Try State := do
  let pages := needs.flatMap fun n => (pagesOf n.2).map fun p => (n.1, p.1)
  let s ← match s.str.xlate with
    | some c => do holdIf s (decide (s.pkg.clock < c)); .ok s
    | none =>
      if pages.any fun p => s.pkg.lookup fn p.1 p.2 then do
        let (d, s) := s.delay
        let s := s.onStr fun t => { t with xlate := some (s.pkg.clock + d) }
        holdIf s (decide (0 < d))
        .ok s
      else .ok s
  trapOpt s (needs.foldl (fun t n => lowTrap t (s.pkg.rangesFault fn n.1 n.2)) (extra s.pkg))
  let ents := pages.filterMap fun p => match s.pkg.translate fn p.2 with | .ok e => some (p.1, e) | .error _ => none
  let s := s.onPkg fun pk => ents.foldl (fun pk e => pk.fill e.2) pk
  holdIf s (ents.any fun e => e.1.w && !e.1.plain && leafBit e.2.leaf 7)
  .ok s

def State.gcheckFn (s : State) (fn : Nat) (need : Need) (rs : List (Word × Nat))
    (extra : Package → Option Trap := fun _ => none) : Try State := s.gcheckAll fn [(need, rs)] extra

def State.gcheck (s : State) (need : Need) (rs : List (Word × Nat)) : Try State := s.gcheckFn s.core.fn need rs

/-- Key slots of the pages of some ranges, with the first address in each. -/
def State.pageKeys (s : State) (rs : List (Word × Nat)) : List (Nat × Word) :=
  (pagesOf rs).filterMap fun p => match s.pkg.translate s.core.fn p.1 with
    | .ok e => if leafKey e.leaf = 0 then none else some (leafKey e.leaf, p.1)
    | .error _ => none

/-- The leaf tier of the page of an address. -/
def Package.tierOf (pk : Package) (fn : Nat) (va : Word) : BitVec 2 :=
  match pk.translate fn va with | .ok e => leafTier e.leaf | .error _ => 0

/-- An add of `k` blocks to a page's access counter, and the notification of a crossing (10 R274, R275; 15 R406). -/
def Package.countPage (pk : Package) (c : Core) (sec : Bool) (lc : BitVec 48) (e : TlbEnt) (k : Nat) : Package :=
  if !leafBit e.leaf 6 || k == 0 then pk
  else
    let old := pk.devNum e.ctr 2
    let new := min 65535 (old + k)
    let pk1 := pk.devPut e.ctr (toBytes 2 new)
    let th := c.cntth.toNat % 65536
    let f := pk.fnOf c.fn
    if th = 0 ∨ f.notifq = 0 ∨ th ≤ old ∨ new < th then pk1
    else
      let psz := if e.size = 2 ^ 16 then 0 else if e.size = 2 ^ 21 then 1 else 2
      pk1.ringPost c.fn f.notifq 4096 (BitVec.ofNat 256 (th + new * 2 ^ 48 + psz * 2 ^ 69 + (if sec then 2 ^ 71 else 0) +
        c.id * 2 ^ 72 + lc.toNat * 2 ^ 80 + e.base * 2 ^ 135)) true (c.id / 64)

/-- Access counters of an access: one add on each page, of the distinct 128-byte blocks touched (10 R274). -/
def State.gcount (s : State) (rs : List (Word × Nat)) : State :=
  let blocks := ((pagesOf rs).flatMap fun p =>
    let a := bits p.1.toNat 56 0
    (List.range ((a + p.2 + 127) / 128 - a / 128)).map fun i => a / 128 + i).eraseDups
  let pages := ((pagesOf rs).filterMap fun p => match s.pkg.translate s.core.fn p.1 with
    | .ok e => if leafBit e.leaf 6 then some e else none
    | .error _ => none).eraseDups
  s.onPkg fun pk => pages.foldl (fun pk e => pk.countPage s.core s.str.sec s.str.lcc e
    (blocks.countP fun b => e.base ≤ 128 * b && 128 * b < e.base + e.size)) pk

/-- The die that controls a 256-byte block of device memory (10 R261). -/
def trackDie (b : Nat) : Nat := b * 256 / 4096 % 12 / 3

/-- Two tasks of one phase: of one function, LID and phase number (21 R476). (DESIGN CHOICE, unsafe: notes/assumptions/90.md.) -/
def Core.samePhase (a b : Core) : Bool := a.fn == b.fn && a.lid == b.lid && a.phnum == b.phnum

/-- A core of the phase learns, once in the phase, that a table has filled: code 0x04 for bundle address 0 (08 R210). -/
def Core.tellFull (k : Core) (told : List (Nat × Nat × Word × BitVec 16)) : Core :=
  if told.contains (k.id, k.fn, k.lid, k.phnum) then k else k.logEvent 0x04 0 false

/-- The table of a die fills in the phase of the core in focus: every core with a task of the phase is told. -/
def State.tableFull (s : State) (die : Nat) : State :=
  let mine (c : CoreCtx) : Bool := c.core.samePhase s.core && c.a.mode != .idle
  let told := s.pkg.trackTold
  let ids := (s.ctxs.filter mine).map fun c => (c.core.id, s.core.fn, s.core.lid, s.core.phnum)
  (s.onPkg fun pk => { pk with trackFull := pk.trackFull ++ [(die, s.core.fn, s.core.lid, s.core.phnum)]
                               trackTold := (pk.trackTold ++ ids).eraseDups }).onAll fun c =>
    if mine c then { c with core := c.core.tellFull told } else c

/-- Write tracking of a deterministic phase (08 R210): an access to a block that another gang of the phase wrote first is
logged; a write records the block. A table is full when a block finds no entry free. (DEDUCED, unsafe: notes/assumptions/29.md.) -/
def State.trackBy (s : State) (log : State → State) (write : Bool) (pas : List PAddr) : State :=
  if s.core.free then s
  else
    let blocks := ((pas.filter (·.tier == 0)).map fun p => p.addr / 256).eraseDups
    let known (t : TrackEnt) (b : Nat) : Bool := t.fn == s.core.fn && t.lid == s.core.lid && t.num == s.core.phnum && t.block == b
    let full (s : State) (b : Nat) : Bool := s.pkg.trackFull.contains (trackDie b, s.core.fn, s.core.lid, s.core.phnum)
    let foreign := blocks.any fun b => !full s b && s.pkg.tracking.any fun t => known t b && t.gang != s.core.gang
    let s := if foreign then log s else s
    if !write then s
    else blocks.foldl (fun s b =>
      if full s b || s.pkg.tracking.any (fun t => known t b) then s
      else if s.pkg.tracking.countP (fun t => t.die == trackDie b) < 2 ^ 20 then
        s.onPkg fun pk => { pk with tracking := pk.tracking ++ [⟨s.core.fn, s.core.lid, s.core.phnum, trackDie b, b, s.core.gang⟩] }
      else s.tableFull (trackDie b)) s

/-- The same for an access of the bundle in hand: code 0x04. -/
def State.track (s : State) (write : Bool) (pas : List PAddr) : State := s.trackBy (·.cause 0x04) write pas

/-- The watch ranges on virtual addresses, after every other fault of the syllable (20 R455). -/
def State.gwatch (s : State) (rs : List (Word × Nat)) : Try Unit :=
  trapOpt s ((rs.filterMap fun r => s.watched true (bits r.1.toNat 56 0) r.2).foldl (fun t u => lowUnit t u) none)

/-- Counters and tracking of a global access, once its bundle goes on; before a read the stream's own atomics on its
bytes are performed. -/
def State.gcounted (s : State) (need : Need) (rs : List (Word × Nat)) : State :=
  let pas := rs.flatMap fun r => s.pkg.physOf s.core.fn r.1 r.2
  let s := (s.gcount rs).track need.w pas
  if need.r then s.settleG pas else s

/-- A global access of a syllable without further checks: an acquire it waits for, checks, watch, counters and tracking. -/
def State.gacc (s : State) (need : Need) (rs : List (Word × Nat))
    (extra : Package → Option Trap := fun _ => none) : Try State := do
  holdIf s (s.acquiring true (rs.map fun r => (bits r.1.toNat 56 0, r.2)))
  let s ← s.gcheckFn s.core.fn need rs extra
  s.gwatch rs
  .ok (s.gcounted need rs)

/-- Objects of the binding table touched by a plain load write code 0x07 (11 R304). -/
def State.gloadCause (s : State) (rs : List (Word × Nat)) : State :=
  if rs.any fun r => s.touchesObject true (bits r.1.toNat 56 0) r.2 then s.cause 0x07 else s

/-- The fault that a read of these bytes brings to the bundle of its landing lc: an unreachable peer (21 R467) or a
poisoned granule (18 R430). -/
def State.readFault (s : State) (va : Word) (pas : List PAddr) : Option Trap :=
  let leaf (i : Nat) : Word := match s.pkg.translate s.core.fn (va + BitVec.ofNat 64 i) with | .ok e => e.leaf | .error _ => 0
  if pas.any s.pkg.unreachable then
    some { code := 0x0C, sub := 5, va := va, aux0 := leaf (pas.findIdx s.pkg.unreachable) }
  else if pas.any s.pkg.poisonAt then
    some { code := 0x11, sub := 1, va := va, cmd := some s.str.pc }
  else none

/-- The requests that a read of some ranges makes of peer packages (21 R465): the address of the range of each, and the
port that carries it. -/
def State.peersOf (s : State) (rs : List (Word × Nat)) : List (Word × Nat) :=
  rs.flatMap fun r => (peerRequests ((s.pkg.physOf s.core.fn r.1 r.2).filter fun p =>
    p.tier == 2 && decide (p.addr / 2 ^ 40 ≠ s.pkg.podn))).map fun p => (r.1, s.pkg.portOf p)

/-- The reply of a global read: when it arrives, its result lands `LAT` lc after issue, or late behind a freeze; in
the secondary stream it lands when it arrives (10 R282). A read of no byte waits for none. -/
def State.emitG (s : State) (t : Target) (cls : Nat) (fault : Option Trap) (rs : List (Word × Nat)) (fl : Flg := 0) :
    State :=
  let (d, s) := if rs.isEmpty then (0, s) else s.delay
  let lat := if s.str.sec then 1 else (vget s.core.nomlat cls 0).toNat % 2 ^ 20
  s.onStr fun r => { r with pend := r.pend ++ [{ target := t, left := lat, flags := fl, arrive := s.pkg.clock + d
                                                 fault := fault, baddr := r.pc, keys := s.pageKeys rs, peers := s.peersOf rs }] }

/-- The bytes of a checked range as the stream sees them. -/
def State.gbytes (s : State) (va : Word) (n : Nat) : List Byte :=
  let v := s.view
  (s.pkg.physOf s.core.fn va n).map v.readPA

/-- Stores of a checked list of (address, bytes), in order; each request of one to an unreachable peer is counted and
dropped (21 R465, R467). -/
def State.gstore (s : State) (ws : List (Word × List Byte)) : State :=
  let cells := ws.flatMap fun w => (s.pkg.physOf s.core.fn w.1 w.2.length).zip w.2
  let bad := ws.flatMap fun w => peerRequests ((s.pkg.physOf s.core.fn w.1 w.2.length).filter s.pkg.unreachable)
  let s := bad.foldl State.portError s
  let good := cells.filter fun c => !s.pkg.unreachable c.1
  if good.isEmpty then s else s.issueG (.bytes good)

/-- A release or a FENCE waits until the stream's earlier global accesses have been performed: its writes of earlier
bundles (01 R17), its tagged commands and the started actions of its plan (11 R297, R316; 14 R374; 15 R399). -/
def State.unperformed (s : State) : Bool :=
  s.str.gq.any (·.lc != s.core.issue) || s.core.tags.any (fun t => t.st == .outstanding && t.sec == s.str.sec) ||
  match s.core.plan with | some p => p.sec == s.str.sec && p.acts.any (fun a => !a.done) | none => false

end Sys2Proof.Machine
end

