-- ==== Sys2Proof/Machine/Flags.lean ====
section
/-! DEFINITION. The rounding state and the fallbacks that set MF: RMODE (02 R63, R64), the stochastic seed (02 R71
to R73), rounding fields (03 R94, 04 R122) and 03 Table 6. -/
namespace Sys2Proof.Machine

/-- RMODE.MODE (02 Table 3). -/
def Stream.mode2 (t : Stream) : Nat := bits t.rmode.toNat 1 0
def Stream.sr (t : Stream) : Bool := t.rmode.getLsbD 2
def Stream.ent (t : Stream) : Bool := t.rmode.getLsbD 3
/-- The rounding mode of a form without a rounding field (02 R64, 05 R147). -/
def State.rnd (s : State) : Rnd := rndOf s.str.mode2

/-- Flags of a saturating integer form, of a fallback. -/
def flIf (b : Bool) (f : Flg) : Flg := if b then f else 0
def orFlags (fs : List Flg) : Flg := fs.foldl (· ||| ·) 0

/-- PHASE, COORD, TASK (08 Tables 2 to 4) and the CSRs derived from the bind. -/
def Core.phaseCsr (k : Core) : Word := BitVec.ofNat 64 (k.phnum.toNat + if k.free then 2 ^ 16 else 0)
def Core.coordCsr (k : Core) : Word :=
  BitVec.ofNat 64 (k.tx.toNat + k.ty.toNat * 2 ^ 8 + k.gw.toNat * 2 ^ 16 + k.gh.toNat * 2 ^ 24)
def State.taskCsr (s : State) : Word :=
  BitVec.ofNat 64 (s.core.tile.toNat + (if s.str.sec then 2 ^ 8 else 0) + s.core.gang.toNat * 2 ^ 16)

/-- The deterministic seed of stochastic rounding (02 R71). -/
def State.srSeed (s : State) : Word :=
  let c := if s.str.sec then 2 ^ 32 else 0
  mix64 (mix64 (mix64 (mix64 s.core.lid ^^^ s.core.phaseCsr) ^^^ s.core.coordCsr) ^^^
    BitVec.ofNat 64 (c + bits s.str.rmode.toNat 63 32))

/-- The seed of an instruction that rounds stochastically, with SRCNT incremented at issue (02 R72) and, with ENT, a
draw of the entropy source logged under code 0x02 (02 R73). -/
def State.stochastic (s : State) : Word × State :=
  let bump (s : State) := s.onStr fun t =>
    { t with rmode := BitVec.ofNat 64 (t.rmode.toNat % 2 ^ 32 + (bits t.rmode.toNat 63 32 + 1) % 2 ^ 32 * 2 ^ 32) }
  if s.str.ent then
    let (e, s) := s.entropy
    (e, bump (s.cause 0x02 e))
  else (s.srSeed, bump s)

/-- A rounding field read for a destination that no stochastic mode applies to: rm 4 rounds RNE and sets MF
(03 Table 6). -/
def State.rmPlain (s : State) (rm : Nat) : Rnd × Flg :=
  if rm < 4 then (rndOf rm, 0) else if rm = 4 then (.rne, flMF) else (s.rnd, 0)

/-- Whether a conversion to E4M3, E5M2 or BF16 rounds stochastically (02 R64, 05 R159). -/
def State.rmIsSr (s : State) (rm : Nat) : Bool := rm == 4 || (rm == 5 && s.str.sr)

/-- The rounding of element `i`: a mode, or the coin of 02 R70. -/
def rndAt (base : Rnd) (seed : Option Word) (i : Nat) : Rnd :=
  match seed with
  | none => base
  | some s => .sr ((coin s (BitVec.ofNat 64 i)).toNat / 2 ^ 32)

end Sys2Proof.Machine
end

