-- ==== Sys2Proof/Machine/Scalar.lean ====
section
/-! DEFINITION. Scalar integer forms, majors 1 to 3 (04 R113 to R120). Every form lands its result at issue plus its
latency; xa and xb are read at issue (01 R17, R21). -/
namespace Sys2Proof.Machine

/-- A 64-bit clamp: the value and SA when it clamps (04 Table 2). -/
def clamp64 (i : Int) : Word × Flg :=
  if i < -(2 ^ 63) then (BitVec.ofInt 64 (-(2 ^ 63)), flSA)
  else if (2 ^ 63 - 1 : Int) < i then (BitVec.ofInt 64 (2 ^ 63 - 1), flSA)
  else (BitVec.ofInt 64 i, 0)

/-- Shifts read all 64 bits of the amount (04 R116). -/
def shl64 (a b : Word) : Word := if b.toNat < 64 then a <<< b.toNat else 0
def shr64 (a b : Word) : Word := if b.toNat < 64 then a >>> b.toNat else 0
def sar64 (a b : Word) : Word := a.sshiftRight (min b.toNat 63)

/-- Division truncates toward zero; by zero it gives all ones and NV; -2^63 / -1 wraps (04 R119). -/
def divS (a b : Word) : Word × Flg :=
  if b = 0 then (BitVec.allOnes 64, flNV) else (BitVec.ofInt 64 (a.toInt.tdiv b.toInt), 0)
def divU (a b : Word) : Word × Flg :=
  if b = 0 then (BitVec.allOnes 64, flNV) else (BitVec.ofNat 64 (a.toNat / b.toNat), 0)
def remS (a b : Word) : Word × Flg :=
  if b = 0 then (a, flNV) else (BitVec.ofInt 64 (a.toInt.tmod b.toInt), 0)
def remU (a b : Word) : Word × Flg :=
  if b = 0 then (a, flNV) else (BitVec.ofNat 64 (a.toNat % b.toNat), 0)

/-- The bit field of EXTU and EXTS: start xb[5:0], width xb[13:8] with 0 for 64, cut at bit 63 (04 R120). -/
def extField (a b : Word) : Nat × Nat :=
  let lo := bits b.toNat 5 0
  let w := if bits b.toNat 13 8 = 0 then 64 else bits b.toNat 13 8
  let w' := min w (64 - lo)
  (bits a.toNat (lo + w' - 1) lo, w')

def bswap64 (a : Word) : Word := BitVec.ofNat 64 (ofBytes (toBytes 8 a.toNat).reverse)

/-- A form that lands `v` in xd at issue + `lat`. -/
def landX (s : State) (d : BitVec 5) (lat : Nat) (v : Word) (fl : Flg := 0) : Res := finish (.ok (s.emitX d lat v fl))
def landP (s : State) (d : BitVec 4) (v : Bool) : Res := finish (.ok (s.emitP d 1 v))

/-- 04 Table 2, op 0. -/
def execAdd (d a b : BitVec 5) (s : State) : Res := landX s d 1 (s.rx a + s.rx b)

/-- 04 Table 2, op 1. -/
def execSub (d a b : BitVec 5) (s : State) : Res := landX s d 1 (s.rx a - s.rx b)

/-- 04 Table 2, op 2. -/
def execAnd (d a b : BitVec 5) (s : State) : Res := landX s d 1 (s.rx a &&& s.rx b)

/-- 04 Table 2, op 3. -/
def execOr (d a b : BitVec 5) (s : State) : Res := landX s d 1 (s.rx a ||| s.rx b)

/-- 04 Table 2, op 4. -/
def execXor (d a b : BitVec 5) (s : State) : Res := landX s d 1 (s.rx a ^^^ s.rx b)

/-- 04 Table 2, op 5. -/
def execAndn (d a b : BitVec 5) (s : State) : Res := landX s d 1 (s.rx a &&& ~~~(s.rx b))

/-- 04 Table 2, op 6. -/
def execSll (d a b : BitVec 5) (s : State) : Res := landX s d 1 (shl64 (s.rx a) (s.rx b))

/-- 04 Table 2, op 7. -/
def execSrl (d a b : BitVec 5) (s : State) : Res := landX s d 1 (shr64 (s.rx a) (s.rx b))

/-- 04 Table 2, op 8. -/
def execSra (d a b : BitVec 5) (s : State) : Res := landX s d 1 (sar64 (s.rx a) (s.rx b))

/-- 04 Table 2, op 9. -/
def execMin (d a b : BitVec 5) (s : State) : Res := landX s d 1 (if (s.rx b).slt (s.rx a) then s.rx b else s.rx a)

/-- 04 Table 2, op 10. -/
def execMax (d a b : BitVec 5) (s : State) : Res := landX s d 1 (if (s.rx a).slt (s.rx b) then s.rx b else s.rx a)

/-- 04 Table 2, op 11. -/
def execMinu (d a b : BitVec 5) (s : State) : Res := landX s d 1 (if (s.rx b).ult (s.rx a) then s.rx b else s.rx a)

/-- 04 Table 2, op 12. -/
def execMaxu (d a b : BitVec 5) (s : State) : Res := landX s d 1 (if (s.rx a).ult (s.rx b) then s.rx b else s.rx a)

/-- 04 Table 2, op 13. -/
def execAdds (d a b : BitVec 5) (s : State) : Res :=
  landX s d 1 (clamp64 ((s.rx a).toInt + (s.rx b).toInt)).1 (clamp64 ((s.rx a).toInt + (s.rx b).toInt)).2

/-- 04 Table 2, op 14. -/
def execSubs (d a b : BitVec 5) (s : State) : Res :=
  landX s d 1 (clamp64 ((s.rx a).toInt - (s.rx b).toInt)).1 (clamp64 ((s.rx a).toInt - (s.rx b).toInt)).2

/-- 04 Table 2, op 15. -/
def execSel (d a b : BitVec 5) (p : BitVec 4) (s : State) : Res :=
  landX s d 1 (if s.rp p then s.rx a else s.rx b)

/-- 04 Table 2, op 16. -/
def execCmpeq (p : BitVec 4) (a b : BitVec 5) (s : State) : Res := landP s p (s.rx a == s.rx b)

/-- 04 Table 2, op 17. -/
def execCmpne (p : BitVec 4) (a b : BitVec 5) (s : State) : Res := landP s p (s.rx a != s.rx b)

/-- 04 Table 2, op 18. -/
def execCmplt (p : BitVec 4) (a b : BitVec 5) (s : State) : Res := landP s p ((s.rx a).slt (s.rx b))

/-- 04 Table 2, op 19. -/
def execCmpltu (p : BitVec 4) (a b : BitVec 5) (s : State) : Res := landP s p ((s.rx a).ult (s.rx b))

/-- 04 Table 2, op 20. -/
def execCmple (p : BitVec 4) (a b : BitVec 5) (s : State) : Res := landP s p ((s.rx a).sle (s.rx b))

/-- 04 Table 2, op 21. -/
def execCmpleu (p : BitVec 4) (a b : BitVec 5) (s : State) : Res := landP s p ((s.rx a).ule (s.rx b))

/-- 04 Table 3, fn 0. -/
def execAddi (d a : BitVec 5) (i : BitVec 12) (s : State) : Res := landX s d 1 (s.rx a + i.signExtend 64)

/-- 04 Table 3, fn 1. -/
def execAndi (d a : BitVec 5) (i : BitVec 12) (s : State) : Res := landX s d 1 (s.rx a &&& i.signExtend 64)

/-- 04 Table 3, fn 2. -/
def execOri (d a : BitVec 5) (i : BitVec 12) (s : State) : Res := landX s d 1 (s.rx a ||| i.setWidth 64)

/-- 04 Table 3, fn 3. -/
def execXori (d a : BitVec 5) (i : BitVec 12) (s : State) : Res := landX s d 1 (s.rx a ^^^ i.signExtend 64)

/-- 04 Table 3, fn 4. -/
def execSlli (d a : BitVec 5) (n : BitVec 6) (s : State) : Res := landX s d 1 (s.rx a <<< n.toNat)

/-- 04 Table 3, fn 5. -/
def execSrli (d a : BitVec 5) (n : BitVec 6) (s : State) : Res := landX s d 1 (s.rx a >>> n.toNat)

/-- 04 Table 3, fn 6. -/
def execSrai (d a : BitVec 5) (n : BitVec 6) (s : State) : Res := landX s d 1 ((s.rx a).sshiftRight n.toNat)

/-- 04 Table 3, fn 7. -/
def execShlor (d a : BitVec 5) (i : BitVec 12) (s : State) : Res := landX s d 1 (s.rx a <<< 12 + i.setWidth 64)

/-- 04 Table 3, fn 8. -/
def execMovi (d : BitVec 5) (i : BitVec 12) (s : State) : Res := landX s d 1 (i.signExtend 64)

/-- 04 Table 3, fn 9. -/
def execCmpeqi (p : BitVec 4) (a : BitVec 5) (i : BitVec 12) (s : State) : Res := landP s p (s.rx a == i.signExtend 64)

/-- 04 Table 3, fn 10. -/
def execCmplti (p : BitVec 4) (a : BitVec 5) (i : BitVec 12) (s : State) : Res := landP s p ((s.rx a).slt (i.signExtend 64))

/-- 04 Table 3, fn 11. -/
def execCmpltui (p : BitVec 4) (a : BitVec 5) (i : BitVec 12) (s : State) : Res := landP s p ((s.rx a).ult (i.signExtend 64))

/-- 04 Table 4, op 0. -/
def execMul (d a b : BitVec 5) (s : State) : Res := landX s d 3 (s.rx a * s.rx b)

/-- 04 Table 4, op 1. -/
def execMulh (d a b : BitVec 5) (s : State) : Res := landX s d 3 (BitVec.ofInt 64 ((s.rx a).toInt * (s.rx b).toInt / 2 ^ 64))

/-- 04 Table 4, op 2. -/
def execMulhu (d a b : BitVec 5) (s : State) : Res := landX s d 3 (BitVec.ofNat 64 ((s.rx a).toNat * (s.rx b).toNat / 2 ^ 64))

/-- 04 Table 4, op 3; 04 R119. -/
def execDiv (d a b : BitVec 5) (s : State) : Res :=
  landX s d 12 (divS (s.rx a) (s.rx b)).1 (divS (s.rx a) (s.rx b)).2

/-- 04 Table 4, op 4; 04 R119. -/
def execDivu (d a b : BitVec 5) (s : State) : Res :=
  landX s d 12 (divU (s.rx a) (s.rx b)).1 (divU (s.rx a) (s.rx b)).2

/-- 04 Table 4, op 5; 04 R119. -/
def execRem (d a b : BitVec 5) (s : State) : Res :=
  landX s d 12 (remS (s.rx a) (s.rx b)).1 (remS (s.rx a) (s.rx b)).2

/-- 04 Table 4, op 6; 04 R119. -/
def execRemu (d a b : BitVec 5) (s : State) : Res :=
  landX s d 12 (remU (s.rx a) (s.rx b)).1 (remU (s.rx a) (s.rx b)).2

/-- 04 Table 4, op 8. -/
def execClz (d a : BitVec 5) (s : State) : Res := landX s d 3 (BitVec.ofNat 64 (64 - bitLen (s.rx a).toNat))

/-- 04 Table 4, op 9. -/
def execCtz (d a : BitVec 5) (s : State) : Res := landX s d 3 (BitVec.ofNat 64 (trailing 64 (s.rx a).toNat))

/-- 04 Table 4, op 10. -/
def execPopc (d a : BitVec 5) (s : State) : Res := landX s d 3 (BitVec.ofNat 64 (popcount 64 (s.rx a).toNat))

/-- 04 Table 4, op 11. -/
def execBrev (d a : BitVec 5) (s : State) : Res := landX s d 3 (BitVec.ofNat 64 (revBits 64 (s.rx a).toNat))

/-- 04 Table 4, op 12. -/
def execBswap (d a : BitVec 5) (s : State) : Res := landX s d 3 (bswap64 (s.rx a))

/-- 04 Table 4, op 13. -/
def execRol (d a b : BitVec 5) (s : State) : Res := landX s d 3 ((s.rx a).rotateLeft ((s.rx b).toNat % 64))

/-- 04 Table 4, op 14. -/
def execRor (d a b : BitVec 5) (s : State) : Res := landX s d 3 ((s.rx a).rotateRight ((s.rx b).toNat % 64))

/-- 04 Table 4, op 15. -/
def execExtu (d a b : BitVec 5) (s : State) : Res := landX s d 3 (BitVec.ofNat 64 (extField (s.rx a) (s.rx b)).1)

/-- 04 Table 4, op 16. -/
def execExts (d a b : BitVec 5) (s : State) : Res := landX s d 3 (BitVec.ofInt 64 (toSigned (extField (s.rx a) (s.rx b)).2 (extField (s.rx a) (s.rx b)).1))

end Sys2Proof.Machine
end

