-- ==== Sys2Proof/Machine/LdSt.lean ====
section
/-! DEFINITION. Scalar loads and stores, majors 8 and 9: L-space (04 R124) and global (10 R280 to R284). -/
namespace Sys2Proof.Machine

/-- xa + sext(imm9) x size, modulo 2^64 (03 R89). -/
def ea (x : Word) (i : BitVec 9) (size : Nat) : Word := x + BitVec.ofInt 64 (i.toInt * size)

/-- Bytes of a scalar size code (04 Table 6). -/
def scalarSize (z : BitVec 3) : Nat := 2 ^ (z.toNat / 2)

/-- A loaded value: sign-extended for the odd codes (04 Table 6). -/
def extendBy (z : BitVec 3) (v : Nat) : Word :=
  if z.toNat % 2 = 1 then sext (8 * scalarSize z) v else BitVec.ofNat 64 v

/-- MF of a latency class on an L-space form (03 Table 6). -/
def classFlag (c : BitVec 2) : Flg := flIf (c != 0) flMF

/-- 04 Table 6, major 8. -/
def execLd (d a : BitVec 5) (c : BitVec 2) (z : BitVec 3) (i : BitVec 9) (s : State) : Res :=
  guarded (.ld d a c z i) s do
    let n := scalarSize z
    let la := ea (s.rx a) i n
    let p ← s.lspace la n n
    let s ← s.lacc false 0 la [(p, n)]
    let s := s.lloadCause la n
    .ok (s.emitX d 4 (extendBy z (s.core.spad.num p n)) (classFlag c))

/-- 04 Table 6, major 9: the value is read at issue, the effect is at issue + 1. -/
def execSt (t a : BitVec 5) (c : BitVec 2) (z : BitVec 3) (i : BitVec 9) (s : State) : Res :=
  guarded (.st t a c z i) s do
    let n := scalarSize z
    let la := ea (s.rx a) i n
    let p ← s.lspace la n n
    let s ← s.lacc true 1 la [(p, n)]
    .ok ((s.store 1 (cellsAt p (toBytes n (s.rx t).toNat)) 2).emitFlags 1 (classFlag c))

/-- A misaligned global access (10 R281). -/
def misaligned (s : State) (va : Word) (n : Nat) : Try Unit :=
  trapWith s (decide (va.toNat % n ≠ 0)) { code := 0x05, va := va }

/-- A global read of one range: checks, causes, then the bytes and the fault they may bring. -/
def State.gread (s : State) (va : Word) (n : Nat) : Try (State × List Byte × Option Trap) := do
  let s ← s.gacc { r := true } [(va, n)]
  let s := s.gloadCause [(va, n)]
  .ok (s, s.gbytes va n, s.readFault va (s.pkg.physOf s.core.fn va n))

/-- Major 8 with SP = 1 (10 R280, R282). -/
def execLdg (d a : BitVec 5) (c : BitVec 2) (z : BitVec 3) (i : BitVec 9) (s : State) : Res :=
  guarded (.ldg d a c z i) s do
    let n := scalarSize z
    let va := ea (s.rx a) i n
    misaligned s va n
    let (s, bs, f) ← s.gread va n
    .ok (s.emitG (.x d (extendBy z (ofBytes bs))) c.toNat f [(va, n)])

/-- Major 9 with SP = 1 (10 R283). -/
def execStg (t a : BitVec 5) (z : BitVec 3) (i : BitVec 9) (s : State) : Res :=
  guarded (.stg t a z i) s do
    let n := scalarSize z
    let va := ea (s.rx a) i n
    misaligned s va n
    let s ← s.gacc { w := true } [(va, n)]
    .ok (s.gstore [(va, toBytes n (s.rx t).toNat)])

end Sys2Proof.Machine
end

