-- ==== Sys2Proof/Machine/Mask.lean ====
section
/-! DEFINITION. Predicates, guards and the mask stack, major 7 (04 R134 to R137). Every form lands at issue + 1. -/
namespace Sys2Proof.Machine

def Pending.maskOp (p : Pending) : Option MaskOp := match p.target with | .mask o => some o | _ => none

/-- The depth that a mask-stack write with latency `lat` meets: every pending write that lands no later applies
before it, in order of landing and issue (05 R151). -/
def Stream.maskDepth (t : Stream) (lat : Nat) : Nat :=
  (sortBy (fun a b => decide (a.left ≤ b.left)) (t.pend.filter fun p => p.left ≤ lat)).foldl (fun d p =>
    match p.maskOp with
    | some o => match o.depth d with | .ok d' => d' | .error _ => d
    | none => d) t.masks.length

/-- A write of the mask stack: the depth it will meet is checked at issue (04 R135, 05 R151). -/
def maskWrite (s : State) (op : MaskOp) (lat : Nat) (fl : Flg := 0) : Try State :=
  match op.depth (s.str.maskDepth lat) with
  | .error sub => .error (.trap s { code := 0x01, sub := sub })
  | .ok _ => .ok (s.emit (.mask op) lat fl)

def maskForm (s : State) (op : MaskOp) : Res := finish (maskWrite s op 1)

/-- 04 Table 11, group 0, form 0. -/
def execMpushAll (s : State) : Res := maskForm s (.push (BitVec.allOnes 1024))
/-- 04 Table 11, group 0, form 1. -/
def execMdup (s : State) : Res := maskForm s .dup
/-- 04 Table 11, group 0, form 2. -/
def execMpop (s : State) : Res := maskForm s .pop
/-- 04 Table 11, group 0, form 3. -/
def execMand (s : State) : Res := maskForm s .and
/-- 04 Table 11, group 0, form 4. -/
def execMor (s : State) : Res := maskForm s .or
/-- 04 Table 11, group 0, form 5. -/
def execMxor (s : State) : Res := maskForm s .xor
/-- 04 Table 11, group 0, form 6. -/
def execMandn (s : State) : Res := maskForm s .andn
/-- 04 Table 11, group 0, form 7. -/
def execMnot (s : State) : Res := maskForm s .not
/-- 04 Table 11, group 0, form 8. -/
def execMelse (s : State) : Res := maskForm s .els
/-- 04 Table 11, group 0, form 9: Pk is read at issue. -/
def execMpushP (p : BitVec 4) (s : State) : Res :=
  maskForm s (.push (if s.rp p then BitVec.allOnes 1024 else 0))
/-- 04 Table 11, group 0, form 10: the top is read at issue. -/
def execMcnt (d : BitVec 5) (s : State) : Res := landX s d 1 (BitVec.ofNat 64 (popcount 1024 s.top.toNat))
/-- 04 Table 11, group 0, form 11. -/
def execMany (p : BitVec 4) (s : State) : Res := landP s p (s.top != 0)

/-- Group 1: a predicate function, inverted when inv is 1. -/
def predForm (s : State) (d a b : BitVec 4) (i : BitVec 1) (f : Bool → Bool → Bool) : Res :=
  landP s d (f (s.rp a) (s.rp b) != (i == 1))

/-- 04 Table 11, group 1, op 0. -/
def execPand (d a b : BitVec 4) (i : BitVec 1) (s : State) : Res := predForm s d a b i (· && ·)
/-- 04 Table 11, group 1, op 1. -/
def execPor (d a b : BitVec 4) (i : BitVec 1) (s : State) : Res := predForm s d a b i (· || ·)
/-- 04 Table 11, group 1, op 2. -/
def execPxor (d a b : BitVec 4) (i : BitVec 1) (s : State) : Res := predForm s d a b i (· != ·)
/-- 04 Table 11, group 1, op 3. -/
def execPandn (d a b : BitVec 4) (i : BitVec 1) (s : State) : Res := predForm s d a b i (fun x y => x && !y)
/-- 04 Table 11, group 2. -/
def execPnz (p : BitVec 4) (a : BitVec 5) (s : State) : Res := landP s p (s.rx a != 0)
/-- 04 Table 11, group 3: P0 reads 1. -/
def execPrd (d : BitVec 5) (s : State) : Res := landX s d 1 ((s.str.p ||| 1).setWidth 64)

/-- 04 R136: with Pk = 0 the syllables of the bundle whose slots the mask names are squashed, but not the GUARD. -/
def execGuard (p : BitVec 4) (m : BitVec 8) (s : State) : Res :=
  finish (.ok (if s.rp p then s else s.onStr fun t => { t with squash := m &&& 0xFE }))

/-- 04 R137: the test of the next lc's top is noted; `step` makes it and skips the bundles. -/
def execMskip (n : BitVec 8) (s : State) : Res :=
  guarded (.mskip n) s (.ok (s.onStr fun t => { t with skipTest := some n.toNat }))

end Sys2Proof.Machine
end

