-- ==== Sys2Proof/Machine/VInt.lean ====
section
/-! DEFINITION. Vector integer forms, major 12 (05 R142 to R151), and the operand and result forms that every
masked vector instruction shares (05 R143 to R146). -/
namespace Sys2Proof.Machine

/-- Element `i` of the b operand: of vb, or xb[w - 1:0] for a scalar form (05 R146). -/
def State.velB (s : State) (b : BitVec 6) (k : BitVec 1) (w i : Nat) : Nat :=
  if k = 1 then (s.rx (b.setWidth 5)).toNat % 2 ^ w else el (s.rv b).toNat w i

/-- The active elements of va, of width w, in ascending order (05 R164, 06 R182). -/
def State.activeVals (s : State) (a : BitVec 6) (w : Nat) : List Nat :=
  ((els w (4096 / w) (s.rv a).toNat).zip (actives w s.top)).filterMap fun x => if x.2 then some x.1 else none

/-- The results of the active elements, 0 for the others, and the flags they raise (01 R27, 02 R75). -/
def masked (act : List Bool) (f : Nat → Nat × Flg) : List Nat × Flg :=
  let rs := act.zipIdx.map fun a => if a.1 then f a.2 else (0, 0)
  (rs.map (·.1), orFlags (rs.map (·.2)))

/-- A masked write of vd: element `i` of width w takes `f i` when it is active (05 R143). -/
def State.vput (s : State) (d : BitVec 6) (w lat : Nat) (f : Nat → Nat × Flg) (fl : Flg := 0) : State :=
  let act := actives w s.top
  let r := masked act f
  s.emit (.v d (enables w act) (vreg w r.1)) lat (r.2 ||| fl)

/-- The mask entry of a compare: the w / 4 bits of element i hold its truth (05 R150). -/
def maskEntry (w : Nat) (ts : List Bool) : MaskEntry :=
  BitVec.ofNat 1024 (ofEls (w / 4) (ts.map fun t => if t then 2 ^ (w / 4) - 1 else 0))

/-- A compare: inactive elements give 0; the entry is pushed at issue + `lat`. -/
def State.vcompare (s : State) (w lat : Nat) (f : Nat → Bool × Flg) : Try State :=
  let rs := (actives w s.top).zipIdx.map fun a => if a.1 then f a.2 else (false, 0)
  maskWrite s (.push (maskEntry w (rs.map (·.1)))) lat (orFlags (rs.map (·.2)))

/-- The elements of va and the b operand as their type reads them. -/
def State.vint (s : State) (a b : BitVec 6) (t : BitVec 3) (k : BitVec 1) (f : Int → Int → Nat × Flg) (i : Nat) :
    Nat × Flg :=
  f (readEl (intSigned t) (intWidth t) (el (s.rv a).toNat (intWidth t) i))
    (readEl (intSigned t) (intWidth t) (s.velB b k (intWidth t) i))

/-- A form of 05 Table 1 whose result is an integer modulo 2^w. -/
def vintWrap (s : State) (d a b : BitVec 6) (t : BitVec 3) (k : BitVec 1) (f : Int → Int → Int) : Try State :=
  .ok (s.vput d (intWidth t) 2 (s.vint a b t k fun x y => (wrap (intWidth t) (f x y), 0)))

/-- An exact result clamped to its type, with SA when the clamp changes it (02 R51). -/
def clampTo (t : BitVec 3) (v : Int) : Nat × Flg :=
  let lo := intMin (intSigned t) (intWidth t)
  let hi := intMax (intSigned t) (intWidth t)
  (wrap (intWidth t) (if v < lo then lo else if hi < v then hi else v), flIf (decide (v < lo ∨ hi < v)) flSA)

def vintClamp (s : State) (d a b : BitVec 6) (t : BitVec 3) (k : BitVec 1) (f : Int → Int → Int) : Try State :=
  .ok (s.vput d (intWidth t) 2 (s.vint a b t k fun x y => clampTo t (f x y)))

/-- A bitwise form: its bits do not depend on how the type reads them. -/
def vintBits (s : State) (d a b : BitVec 6) (t : BitVec 3) (k : BitVec 1) (f : Nat → Nat → Nat) : Try State :=
  .ok (s.vput d (intWidth t) 2 fun i =>
    (f (el (s.rv a).toNat (intWidth t) i) (s.velB b k (intWidth t) i) % 2 ^ intWidth t, 0))

/-- A shift: the amount is u(b), or all 64 bits of xb in the scalar form. -/
def vintShift (s : State) (d a b : BitVec 6) (t : BitVec 3) (k : BitVec 1) (f : Nat → Nat → Nat) : Try State :=
  .ok (s.vput d (intWidth t) 2 fun i =>
    (f (el (s.rv a).toNat (intWidth t) i)
      (if k = 1 then (s.rx (b.setWidth 5)).toNat else el (s.rv b).toNat (intWidth t) i) % 2 ^ intWidth t, 0))

/-- The conditions of 05 R150. -/
def intCond (c : BitVec 3) (x y : Int) : Bool :=
  match c.toNat with
  | 0 => decide (x = y)
  | 1 => decide (x ≠ y)
  | 2 => decide (x < y)
  | 3 => decide (x ≤ y)
  | 4 => decide (y < x)
  | _ => decide (y ≤ x)

/-- 05 Table 1, fn 0. -/
def execVadd (d a b : BitVec 6) (t : BitVec 3) (k : BitVec 1) (s : State) : Res :=
  guarded (.vadd d a b t k) s (vintWrap s d a b t k (· + ·))

/-- 05 Table 1, fn 1. -/
def execVsub (d a b : BitVec 6) (t : BitVec 3) (k : BitVec 1) (s : State) : Res :=
  guarded (.vsub d a b t k) s (vintWrap s d a b t k (· - ·))

/-- 05 Table 1, fn 2. -/
def execVadds (d a b : BitVec 6) (t : BitVec 3) (k : BitVec 1) (s : State) : Res :=
  guarded (.vadds d a b t k) s (vintClamp s d a b t k (· + ·))

/-- 05 Table 1, fn 3. -/
def execVsubs (d a b : BitVec 6) (t : BitVec 3) (k : BitVec 1) (s : State) : Res :=
  guarded (.vsubs d a b t k) s (vintClamp s d a b t k (· - ·))

/-- 05 Table 1, fn 4. -/
def execVmin (d a b : BitVec 6) (t : BitVec 3) (k : BitVec 1) (s : State) : Res :=
  guarded (.vmin d a b t k) s (vintWrap s d a b t k min)

/-- 05 Table 1, fn 5. -/
def execVmax (d a b : BitVec 6) (t : BitVec 3) (k : BitVec 1) (s : State) : Res :=
  guarded (.vmax d a b t k) s (vintWrap s d a b t k max)

/-- 05 Table 1, fn 6. -/
def execVmul (d a b : BitVec 6) (t : BitVec 3) (k : BitVec 1) (s : State) : Res :=
  guarded (.vmul d a b t k) s (vintWrap s d a b t k (· * ·))

/-- 05 Table 1, fn 7. -/
def execVmulh (d a b : BitVec 6) (t : BitVec 3) (k : BitVec 1) (s : State) : Res :=
  guarded (.vmulh d a b t k) s (vintWrap s d a b t k fun x y => x * y / 2 ^ intWidth t)

/-- 05 Table 1, fn 8. -/
def execVand (d a b : BitVec 6) (t : BitVec 3) (k : BitVec 1) (s : State) : Res :=
  guarded (.vand d a b t k) s (vintBits s d a b t k (· &&& ·))

/-- 05 Table 1, fn 9. -/
def execVor (d a b : BitVec 6) (t : BitVec 3) (k : BitVec 1) (s : State) : Res :=
  guarded (.vor d a b t k) s (vintBits s d a b t k (· ||| ·))

/-- 05 Table 1, fn 10. -/
def execVxor (d a b : BitVec 6) (t : BitVec 3) (k : BitVec 1) (s : State) : Res :=
  guarded (.vxor d a b t k) s (vintBits s d a b t k (· ^^^ ·))

/-- 05 Table 1, fn 11. -/
def execVandn (d a b : BitVec 6) (t : BitVec 3) (k : BitVec 1) (s : State) : Res :=
  guarded (.vandn d a b t k) s (vintBits s d a b t k fun x y => x &&& (2 ^ intWidth t - 1 - y))

/-- 05 Table 1, fn 12. -/
def execVsll (d a b : BitVec 6) (t : BitVec 3) (k : BitVec 1) (s : State) : Res :=
  guarded (.vsll d a b t k) s (vintShift s d a b t k fun x n => if n < intWidth t then x * 2 ^ n else 0)

/-- 05 Table 1, fn 13. -/
def execVsrl (d a b : BitVec 6) (t : BitVec 3) (k : BitVec 1) (s : State) : Res :=
  guarded (.vsrl d a b t k) s (vintShift s d a b t k fun x n => if n < intWidth t then x / 2 ^ n else 0)

/-- 05 Table 1, fn 14. -/
def execVsra (d a b : BitVec 6) (t : BitVec 3) (k : BitVec 1) (s : State) : Res :=
  guarded (.vsra d a b t k) s (vintShift s d a b t k fun x n =>
    wrap (intWidth t) (toSigned (intWidth t) x / 2 ^ min n (intWidth t - 1)))

/-- 05 Table 1, fn 15; 05 R150. -/
def execVcmp (c : BitVec 3) (a b : BitVec 6) (t : BitVec 3) (k : BitVec 1) (s : State) : Res :=
  guarded (.vcmp c a b t k) s <| s.vcompare (intWidth t) 2 fun i =>
    (intCond c (readEl (intSigned t) (intWidth t) (el (s.rv a).toNat (intWidth t) i))
      (readEl (intSigned t) (intWidth t) (s.velB b k (intWidth t) i)), 0)

end Sys2Proof.Machine
end

