-- ==== Sys2Proof/Machine/VFp.lean ====
section
/-! DEFINITION. Vector floating point, majors 13 and 14 (05 R147, R152 to R155). Every form rounds in RMODE.MODE. -/
namespace Sys2Proof.Machine

def State.vfa (s : State) (a : BitVec 6) (t : BitVec 3) (i : Nat) : FVal :=
  fdecode (fmtOf t) (el (s.rv a).toNat (fpWidth t) i)
def State.vfb (s : State) (b : BitVec 6) (t : BitVec 3) (k : BitVec 1) (i : Nat) : FVal :=
  fdecode (fmtOf t) (s.velB b k (fpWidth t) i)

/-- A two-operand form. -/
def vfp2 (s : State) (d a b : BitVec 6) (t : BitVec 3) (k : BitVec 1) (lat : Nat) (f : FVal → FVal → Nat × Flg) :
    Try State :=
  .ok (s.vput d (fpWidth t) lat fun i => f (s.vfa a t i) (s.vfb b t k i))

/-- A one-operand form. -/
def vfp1 (s : State) (d a : BitVec 6) (t : BitVec 3) (lat : Nat) (f : FVal → Nat × Flg) : Try State :=
  .ok (s.vput d (fpWidth t) lat fun i => f (s.vfa a t i))

/-- 05 Table 2, fn 0. -/
def execVfadd (d a b : BitVec 6) (t : BitVec 3) (k : BitVec 1) (s : State) : Res :=
  guarded (.vfadd d a b t k) s (vfp2 s d a b t k 5 (faddV (fmtOf t) s.rnd))
/-- 05 Table 2, fn 1. -/
def execVfsub (d a b : BitVec 6) (t : BitVec 3) (k : BitVec 1) (s : State) : Res :=
  guarded (.vfsub d a b t k) s (vfp2 s d a b t k 5 fun x y => faddV (fmtOf t) s.rnd x y.neg)
/-- 05 Table 2, fn 2. -/
def execVfmul (d a b : BitVec 6) (t : BitVec 3) (k : BitVec 1) (s : State) : Res :=
  guarded (.vfmul d a b t k) s (vfp2 s d a b t k 5 (fmulR (fmtOf t) s.rnd))

/-- VFMIN and VFMAX work on codes (04 R123). -/
def vfpMinMax (s : State) (mx : Bool) (d a b : BitVec 6) (t : BitVec 3) (k : BitVec 1) : Try State :=
  .ok (s.vput d (fpWidth t) 5 fun i =>
    fminmax (fmtOf t) mx (el (s.rv a).toNat (fpWidth t) i) (s.velB b k (fpWidth t) i))

/-- 05 Table 2, fn 3. -/
def execVfmin (d a b : BitVec 6) (t : BitVec 3) (k : BitVec 1) (s : State) : Res :=
  guarded (.vfmin d a b t k) s (vfpMinMax s false d a b t k)
/-- 05 Table 2, fn 4. -/
def execVfmax (d a b : BitVec 6) (t : BitVec 3) (k : BitVec 1) (s : State) : Res :=
  guarded (.vfmax d a b t k) s (vfpMinMax s true d a b t k)
/-- 05 Table 2, fn 5. -/
def execVfdiv (d a b : BitVec 6) (t : BitVec 3) (k : BitVec 1) (s : State) : Res :=
  guarded (.vfdiv d a b t k) s (vfp2 s d a b t k 14 (fdivR (fmtOf t) s.rnd))
/-- 05 Table 2, fn 6. -/
def execVfsqrt (d a : BitVec 6) (t : BitVec 3) (s : State) : Res :=
  guarded (.vfsqrt d a t) s (vfp1 s d a t 14 (fsqrtR (fmtOf t) s.rnd))
/-- 05 Table 2, fn 7. -/
def execVfrsqrt (d a : BitVec 6) (t : BitVec 3) (s : State) : Res :=
  guarded (.vfrsqrt d a t) s (vfp1 s d a t 14 (frsqrtR (fmtOf t) s.rnd))
/-- 05 Table 2, fn 8. -/
def execVfexp2 (d a : BitVec 6) (t : BitVec 3) (s : State) : Res :=
  guarded (.vfexp2 d a t) s (vfp1 s d a t 14 (fexp2R (fmtOf t) s.rnd))
/-- 05 Table 2, fn 9. -/
def execVflog2 (d a : BitVec 6) (t : BitVec 3) (s : State) : Res :=
  guarded (.vflog2 d a t) s (vfp1 s d a t 14 (flog2R (fmtOf t) s.rnd))

/-- 05 Table 2, fn 10: the sign bit flipped, no flag. -/
def execVfneg (d a : BitVec 6) (t : BitVec 3) (s : State) : Res :=
  guarded (.vfneg d a t) s <| .ok <| s.vput d (fpWidth t) 2 fun i =>
    ((el (s.rv a).toNat (fpWidth t) i + 2 ^ (fpWidth t - 1)) % 2 ^ fpWidth t, 0)
/-- 05 Table 2, fn 11: the sign bit cleared, no flag. -/
def execVfabs (d a : BitVec 6) (t : BitVec 3) (s : State) : Res :=
  guarded (.vfabs d a t) s <| .ok <| s.vput d (fpWidth t) 2 fun i =>
    (el (s.rv a).toNat (fpWidth t) i % 2 ^ (fpWidth t - 1), 0)

/-- 05 Table 2, fn 12; 05 R153. -/
def execVfcmp (c : BitVec 3) (a b : BitVec 6) (t : BitVec 3) (k : BitVec 1) (s : State) : Res :=
  guarded (.vfcmp c a b t k) s <| s.vcompare (fpWidth t) 5 fun i =>
    fcompare (fmtOf t) c.toNat (el (s.rv a).toNat (fpWidth t) i) (s.velB b k (fpWidth t) i)

/-- A fused form: c is vd's element as it stands at issue (05 R154). -/
def vfp3 (s : State) (d a b : BitVec 6) (t : BitVec 3) (k : BitVec 1) (f : FVal → FVal → FVal → Nat × Flg) :
    Try State :=
  .ok (s.vput d (fpWidth t) 5 fun i => f (s.vfa a t i) (s.vfb b t k i) (s.vfa d t i))

/-- 05 Table 3, fn 0. -/
def execVfma (d a b : BitVec 6) (t : BitVec 3) (k : BitVec 1) (s : State) : Res :=
  guarded (.vfma d a b t k) s (vfp3 s d a b t k (ffmaR (fmtOf t) s.rnd))
/-- 05 Table 3, fn 1. -/
def execVfnma (d a b : BitVec 6) (t : BitVec 3) (k : BitVec 1) (s : State) : Res :=
  guarded (.vfnma d a b t k) s (vfp3 s d a b t k fun x y z => ffmaR (fmtOf t) s.rnd x.neg y z)
/-- 05 Table 3, fn 2. -/
def execVfmsub (d a b : BitVec 6) (t : BitVec 3) (k : BitVec 1) (s : State) : Res :=
  guarded (.vfmsub d a b t k) s (vfp3 s d a b t k fun x y z => ffmaR (fmtOf t) s.rnd x y z.neg)

/-- A masked write of a group of `r` registers: element i of the narrow width w goes to register d + i mod r, element
i div r, of width r w (05 R144, R145). -/
def State.vputGroup (s : State) (d : BitVec 6) (r w lat : Nat) (f : Nat → Nat × Flg) (fl : Flg := 0) : State :=
  let act := actives w s.top
  let res := masked act f
  let part {α : Type} (g : Nat) (xs : List α) : List α :=
    (xs.zipIdx.filter fun x => x.2 % r == g).map (·.1)
  let s := (List.range r).foldl (fun s g =>
    s.emit (.v (d + BitVec.ofNat 6 g) (enables (r * w) (part g act)) (vreg (r * w) (part g res.1))) lat
      (if g = 0 then res.2 ||| fl else 0)) s
  s

/-- Element `i` of a group of `r` registers of element width W. -/
def State.velGroup (s : State) (g : BitVec 6) (r w i : Nat) : Nat :=
  el (s.rv (g + BitVec.ofNat 6 (i % r))).toNat w (i / r)

/-- 05 Table 3, fn 3; 05 R155: BF16 or F16 into an F32 pair, F32 into an F64 pair. -/
def execVfmaw (d a b : BitVec 6) (t : BitVec 3) (k : BitVec 1) (s : State) : Res :=
  guarded (.vfmaw d a b t k) s <|
    let wide := if t = 0 then F64 else F32
    .ok (s.vputGroup d 2 (fpWidth t) 5 fun i =>
      ffmaR wide s.rnd (s.vfa a t i) (s.vfb b t k i) (fdecode wide (s.velGroup d 2 (2 * fpWidth t) i)))

/-- 05 Table 3, fn 4. -/
def execVmac (d a b : BitVec 6) (t : BitVec 3) (k : BitVec 1) (s : State) : Res :=
  guarded (.vmac d a b t k) s <| .ok <| s.vput d (intWidth t) 2 fun i =>
    (wrap (intWidth t) ((el (s.rv d).toNat (intWidth t) i : Int) +
      readEl (intSigned t) (intWidth t) (el (s.rv a).toNat (intWidth t) i) *
      readEl (intSigned t) (intWidth t) (s.velB b k (intWidth t) i)), 0)

/-- 05 Table 3, fn 5; 05 R155: 8-bit sources into a 32-bit quad, 4-bit ones into a 16-bit quad. -/
def execVmacw (d a b : BitVec 6) (t : BitVec 3) (k : BitVec 1) (s : State) : Res :=
  guarded (.vmacw d a b t k) s <| .ok <| s.vputGroup d 4 (intWidth t) 2 fun i =>
    (wrap (4 * intWidth t) ((s.velGroup d 4 (4 * intWidth t) i : Int) +
      readEl (intSigned t) (intWidth t) (el (s.rv a).toNat (intWidth t) i) *
      readEl (intSigned t) (intWidth t) (s.velB b k (intWidth t) i)), 0)

end Sys2Proof.Machine
end

