-- ==== Sys2Proof/Machine/VCvt.lean ====
section
/-! DEFINITION. Vector conversions, major 15 (05 R156 to R160), with the block-integer formats (02 R58 to R62). -/
namespace Sys2Proof.Machine

/-- Element width and F of an MXW code (05 R160, 02 Table 2). -/
def mxWidth (m : BitVec 2) : Nat := match m.toNat with | 0 => 8 | 1 => 6 | _ => 4

/-- 02 R62: 32 source values quantised; the element codes, the scale and the flags. -/
def mxQuantise (w : Nat) (r : Rnd) (vs : List FVal) : List Nat × Nat × Flg :=
  let bad := vs.any fun v => match v with | .fin _ _ _ => false | _ => true
  if bad then (vs.map fun _ => 0, 255, flNV)
  else
    let tops := vs.filterMap fun v => match v with
      | .fin _ m e => if m = 0 then none else some ((bitLen m : Int) + e - 1)
      | _ => none
    match tops with
    | [] => (vs.map fun _ => 0, 127, 0)
    | t :: ts =>
      let x : Int := min 254 (max 0 (ts.foldl max t + 127))
      let lim : Int := 2 ^ (w - 1) - 1
      let rs := vs.map fun v => match v with
        | .fin neg m e =>
          let q := roundInt r neg m (e + (mxF w : Int) - (x - 127))
          if q.1 < -lim then (wrap w (-lim), flSA ||| flNX)
          else if lim < q.1 then (wrap w lim, flSA ||| flNX)
          else (wrap w q.1, flIf q.2 flNX)
        | _ => (0, 0)
      (rs.map (·.1), x.toNat, orFlags (rs.map (·.2)))

/-- 02 R61: one element decoded, as an exact value with its flags. -/
def mxDecode (w scale c : Nat) : FVal × Flg :=
  let res := mxReserved w c
  if scale = 255 ∨ res then (.nan false, flNV ||| flIf res flRC)
  else
    let i := toSigned w c
    (.fin (decide (i < 0)) i.natAbs ((scale : Int) - 127 - mxF w), 0)

/-- 05 R160: the block register of a quantisation, and its flags. -/
def quantiseReg (w : Nat) (r : Rnd) (a : Nat) : VReg × Flg :=
  let bs := (List.range 4).map fun b =>
    mxQuantise w r ((List.range 32).map fun i => fdecode F32 (el a 32 (32 * b + i)))
  (BitVec.ofNat 4096 (ofEls 256 (bs.map fun b => ofEls w b.1) + 2 ^ 1024 * ofEls 8 (bs.map fun b => b.2.1)),
   orFlags (bs.map fun b => b.2.2))

/-- 05 R160: F32 elements decoded from a block register. -/
def decodeReg (w : Nat) (a : Nat) : VReg × Flg :=
  let rs := (List.range 128).map fun i =>
    let v := mxDecode w (el a 8 (128 + i / 32)) (el (el a 256 (i / 32)) w (i % 32))
    ((fput F32 .rne v.1).1, v.2)
  (vreg 32 (rs.map (·.1)), orFlags (rs.map (·.2)))

/-- A source element read as an exact conversion of its class does (05 R158). -/
def cvtEl (l : BitVec 2) (c e : BitVec 3) (r : Rnd) (sat : Bool) (x : Nat) : Nat × Flg :=
  match l.toNat with
  | 0 => fconvert (fmtOf c) (fmtOf e) r sat x
  | 1 => ftoInt (fmtOf c) r (intSigned e) (intWidth e) x
  | 2 => fofInt (fmtOf e) r sat (readEl (intSigned c) (intWidth c) x)
  | _ =>
    let v := readEl (intSigned c) (intWidth c) x
    let lo := intMin (intSigned e) (intWidth e)
    let hi := intMax (intSigned e) (intWidth e)
    if v < lo then (wrap (intWidth e) lo, flNV)
    else if hi < v then (wrap (intWidth e) hi, flNV)
    else (wrap (intWidth e) v, 0)

/-- Class 3 widening extends: it never clamps (05 R158). -/
def cvtElem (l : BitVec 2) (c e : BitVec 3) (r : Rnd) (sat : Bool) (x : Nat) : Nat × Flg :=
  if l = 3 ∧ intWidth c < intWidth e then (wrap (intWidth e) (readEl (intSigned c) (intWidth c) x), 0)
  else cvtEl l c e r sat x

/-- A destination that stochastic rounding applies to: E4M3, E5M2 or BF16 (02 R64). -/
def srDest (l : BitVec 2) (e : BitVec 3) : Bool := (l == 0 || l == 2) && (e == 1 || e == 3 || e == 4)

/-- Masked conversion between the narrow and the wide side (05 R145, R157). -/
def vcvtPut (s : State) (d a : BitVec 6) (ws wd : Nat) (f : Nat → Nat → Nat × Flg) (fl : Flg) : State :=
  if ws < wd then s.vputGroup d (wd / ws) ws 4 (fun i => f i (el (s.rv a).toNat ws i)) fl
  else s.vput d wd 4 (fun i => f i (s.velGroup a (ws / wd) ws i)) fl

/-- 05 R156 to R160. -/
def execVcvt (d a : BitVec 6) (r : BitVec 3) (x : BitVec 1) (m : BitVec 2) (c e : BitVec 3) (l : BitVec 2)
    (s : State) : Res :=
  guarded (.vcvt d a r x m c e l) s <|
    if l = 0 ∧ (c = 6 ∨ e = 6) then
      let md := s.rmPlain r.toNat
      let o := if e = 6 then quantiseReg (mxWidth m) md.1 (s.rv a).toNat else decodeReg (mxWidth m) (s.rv a).toNat
      .ok (s.emit (.v d (BitVec.allOnes 4096) o.1) 4 (o.2 ||| md.2))
    else
      let w := cvtWidths l c e
      if cvtExact l c e then
        -- rm other than 5 is ignored with MF; SAT falls back as for every destination but E4M3 and E5M2
        let mf := flIf (r != 5) flMF ||| flIf (x = 1) flMF
        .ok (vcvtPut s d a w.1 w.2 (fun _ v => cvtElem l c e .rne (x == 1) v) mf)
      else
        let satMf := flIf (x == 1 && !((l == 0 || l == 2) && (e == 3 || e == 4))) flMF
        if srDest l e && s.rmIsSr r.toNat then
          let sd := s.stochastic
          .ok (vcvtPut sd.2 d a w.1 w.2 (fun i v => cvtElem l c e (rndAt .rne (some sd.1) i) (x == 1) v) satMf)
        else
          let md := s.rmPlain r.toNat
          .ok (vcvtPut s d a w.1 w.2 (fun _ v => cvtElem l c e md.1 (x == 1) v) (md.2 ||| satMf))

end Sys2Proof.Machine
end

