-- ==== Sys2Proof/Machine/Mx.lean ====
section
/-! DEFINITION. The matrix engine (13): rings, commands and their start check, micro-ops, the updates that take
effect at the end of an lc, and major 23. -/
namespace Sys2Proof.Machine

/-! ### Tiles and rings -/

def tileEls (t : Tile) : List Nat := els 64 256 t.toNat
def tileOf (xs : List Nat) : Tile := BitVec.ofNat 16384 (ofEls 64 xs)

/-- Place of an accumulator in the core's SRAM (18 R425), and the fault of a read of `len` of its bytes from `off` that
meets a poisoned granule (18 R430, Table 8; the address: DESIGN CHOICE, unsafe: notes/assumptions/75.md). -/
def Core.accPool (k : Core) (n : Nat) : Nat := k.nsb * Config.bankBytes + 2048 * n
def Core.accFault (k : Core) (sub : BitVec 16) (n off len : Nat) : Option Trap :=
  (k.poisonUnder [(k.accPool n + off, len)]).map fun p =>
    { code := 0x11, sub := sub, va := BitVec.ofNat 64 (k.accPool n + off), aux0 := BitVec.ofNat 64 (p / Config.bankBytes) }

/-- Granules of an accumulator written whole lose their poison (18 R430). -/
def Core.accClean (k : Core) (n off len : Nat) : Core :=
  if k.poison.isEmpty then k
  else { k with poison := k.poison.filter fun p => !decide (k.accPool n + off ≤ p ∧ p < k.accPool n + off + len) }

/-- An accumulator index that the partition does not have (01 R32, 13 R332). -/
def Core.badAcc (k : Core) (n : Nat) : Bool := decide (16 * k.acb ≤ n) || decide (255 < n)

def Core.ring (k : Core) (r : BitVec 4) : Option Ring := k.rings[r.toNat]'r.isLt
def Ring.stage (g : Ring) (i : Nat) : StageSt × Nat := g.stages.getD i (.empty, 0)
def Ring.count (g : Ring) (st : StageSt) : Nat := g.stages.countP (·.1 == st)
def Ring.nst (g : Ring) : Nat := g.stages.length

/-- A consuming micro-op that read stage `i` commits: the stage has one consumer less, and none left empties it (13 R335). -/
def Ring.pop (g : Ring) (i : Nat) : Ring :=
  let s := g.stage i
  if s.1 ≠ .full then g
  else if s.2 ≤ 1 then { g with stages := g.stages.set i (.empty, g.cc), head := (g.head + 1) % g.nst }
  else { g with stages := g.stages.set i (.full, s.2 - 1) }

/-- MXRPUSH reaches `n` stages from TAIL (13 R335, R356). -/
def Ring.push (g : Ring) : Nat → Ring
  | 0 => g
  | n + 1 => Ring.push { g with stages := g.stages.set g.tail (.full, (g.stage g.tail).2), tail := (g.tail + 1) % g.nst } n

def Core.setRing (k : Core) (r : Nat) (g : Option Ring) : Core := { k with rings := vset k.rings r g }

/-- The clocks until a claimed iteration lands are an input, taken from the package when the claim is made. -/
def claimGo (clock : Nat) : Nat → Ring → Nat → Copy → List Nat → Ring × Copy × List Nat
  | 0, g, _, c, ds => (g, c, ds)
  | k + 1, g, r, c, ds =>
    match c.todo with
    | it :: rest =>
      if (g.stage g.tail).1 = .empty ∧ g.tail < g.nst then
        let base := g.base + g.tail * g.sb
        let run : CopyRun := { cells := it.2.map fun x => (base + x.1, x.2), stage := some (r, g.tail), bytes := it.1
                               rows := rowsOf base g.sb, due := clock + ds.headD 0 }
        claimGo clock k { g with stages := g.stages.set g.tail (.filling, (g.stage g.tail).2), tail := (g.tail + 1) % g.nst }
          r { c with todo := rest, runs := c.runs ++ [run] } ds.tail
      else (g, c, ds)
    | [] => (g, c, ds)

/-- Iterations of the looping copies claim the EMPTY stages from TAIL onward (14 R381). -/
def Core.claims (k : Core) (clock : Nat) (ds : List Nat) : Core × List Nat :=
  k.copies.zipIdx.foldl (fun (acc : Core × List Nat) ci =>
    match ci.1.ring with
    | none => acc
    | some r =>
      match vget acc.1.rings r none with
      | none => acc
      | some g =>
        let res := claimGo clock 31 g r ci.1 acc.2
        ({ (acc.1.setRing r (some res.1)) with copies := acc.1.copies.set ci.2 res.2.1 }, res.2.2)) (k, ds)

/-! ### Arithmetic of passes (02 R79 to R81; 13 R327, R328, R347 to R349) -/

/-- A pass format: the formats of A and B, K and the length in lc (13 Table 2). -/
structure PassFmt where
  fa : Fmt
  fb : Fmt
  k : Nat
  len : Nat

def passFmt (f : BitVec 4) : PassFmt :=
  match f.toNat with
  | 0 => ⟨BF16, BF16, 48, 4⟩
  | 1 => ⟨F16, F16, 48, 9⟩
  | 2 => ⟨E4M3, E4M3, 96, 2⟩
  | 3 => ⟨E5M2, E5M2, 96, 2⟩
  | 7 => ⟨E4M3, E5M2, 96, 2⟩
  | _ => ⟨E5M2, E4M3, 96, 2⟩

/-- MX formats: element width, blocks of 32, pass length. -/
def mxFmt (f : BitVec 4) : Nat × Nat × Nat :=
  match f.toNat with | 4 => (8, 3, 8) | 5 => (6, 4, 6) | _ => (4, 6, 4)

def passLen (f : BitVec 4) : Nat := if fmtIsMx f then (mxFmt f).2.2 else (passFmt f).len

/-- The K-rows of a slice, as values (13 R328). -/
def sliceRows (f : Fmt) (k : Nat) (bs : List Byte) : List (List FVal) :=
  (List.range 16).map fun i => (els f.width k (ofBytes ((bs.drop (96 * i)).take 96))).map (fdecode f)

/-- A sum of products in blocks of 16 (02 R79), each step in format `f`. -/
def blockSum (f : Fmt) (xs : List (FVal × FVal)) : Nat × Flg :=
  let ps := xs.map fun p => fmulR f .rne p.1 p.2
  let add := fun a b => faddV f .rne (fdecode f a) (fdecode f b)
  let bs := (pieces 16 (ps.length / 16) ps).map fun b => treeSum add 4 (b.map (·.1), 0)
  let fl := orFlags (ps.map (·.2)) ||| orFlags (bs.map (·.2))
  match bs with
  | [] => (0, fl)
  | b :: rest => rest.foldl (fun (acc : Nat × Flg) x => let r := add acc.1 x.1; (r.1, acc.2 ||| r.2)) (b.1, fl)

/-- The 256 sums of a floating pass, row-major, with their flags. -/
def passSums (a b : List (List FVal)) : List Nat × Flg :=
  let rs := a.flatMap fun ra => b.map fun cb => blockSum F64 (ra.zip cb)
  (rs.map (·.1), orFlags (rs.map (·.2)))

def fval32 (v : FVal) : Nat × Flg := fput F32 .rne v

/-- The sum of 16 values of one k, pairwise in binary32 (13 R349). -/
def laneTree (xs : List FVal) : Nat × Flg :=
  let cs := xs.map fval32
  treeSum add32 4 (cs.map (·.1), orFlags (cs.map (·.2)))

/-- The checksum lanes of a pass: 16 row lanes, then 16 column lanes (13 R349). -/
def passLanes (k : Nat) (a b : List (List FVal)) : List (BitVec 32) × Flg :=
  let col (m : List (List FVal)) (i : Nat) : List FVal := m.map fun r => r.getD i (.fin false 0 0)
  let sa := (List.range k).map fun i => laneTree (col a i)
  let sb := (List.range k).map fun i => laneTree (col b i)
  let va := sa.map fun x => fdecode F32 x.1
  let vb := sb.map fun x => fdecode F32 x.1
  let rows := a.map fun r => blockSum F32 (r.zip vb)
  let cols := b.map fun c => blockSum F32 (va.zip c)
  ((rows ++ cols).map fun x => BitVec.ofNat 32 x.1,
   orFlags (sa.map (·.2)) ||| orFlags (sb.map (·.2)) ||| orFlags (rows.map (·.2)) ||| orFlags (cols.map (·.2)))

/-- The element codes of the K-rows of an MX slice. -/
def mxRows (w k : Nat) (bs : List Byte) : List (List Nat) :=
  (List.range 16).map fun i => els w k (ofBytes ((bs.drop (96 * i)).take 96))

/-- An integer sum of one block, none for NaN, and its flags (02 R61, R80). -/
def mxDot (w : Nat) (xs ys : List Nat) : Option Int × Flg :=
  if xs.any (mxReserved w) || ys.any (mxReserved w) then (none, flNV ||| flRC)
  else (some ((xs.zip ys).foldl (fun n p => n + toSigned w p.1 * toSigned w p.2) 0), 0)

/-- The partials of an MX pass: for each block, 256 sums row-major. -/
def mxPartials (w blocks : Nat) (a b : List Byte) : List (List (Option Int)) × Flg :=
  let ra := mxRows w (32 * blocks) a
  let rb := mxRows w (32 * blocks) b
  let blk (r : List Nat) (i : Nat) : List Nat := (r.drop (32 * i)).take 32
  let rs := (List.range blocks).map fun i => ra.flatMap fun x => rb.map fun y => mxDot w (blk x i) (blk y i)
  (rs.map fun r => r.map (·.1), orFlags (rs.map fun r => orFlags (r.map (·.2))))

/-- One addend of MSCALE: the partial with its two scales, as an integer and a power (02 R80). -/
def mxAddend (w : Nat) (p : Option Int) (xa xb : Nat) : (Option Int × Int) × Flg :=
  if xa = 255 ∨ xb = 255 then ((none, 0), flNV)
  else ((p, (xa : Int) - 127 + ((xb : Int) - 127) - 2 * mxF w), 0)

def addendVal (x : Option Int × Int) : FVal :=
  match x.1 with | none => .nan false | some i => .fin (decide (i < 0)) i.natAbs x.2

/-! ### Updates at the end of an lc -/

/-- An element-wise change of a tile by rounded additions. -/
def tileAdd (t : Tile) (xs : List FVal) : Tile × Flg :=
  let rs := ((tileEls t).zip xs).map fun p => faddV F64 .rne (fdecode F64 p.1) p.2
  (tileOf (rs.map (·.1)), orFlags (rs.map (·.2)))

/-- A binary32 lane update: lane := rne(lane + s), or s with ZA (13 R349). -/
def laneAdd (za : Bool) (cr : BitVec 1024) (xs : List (BitVec 32)) : BitVec 1024 × Flg :=
  let rs := ((els 32 32 cr.toNat).zip xs).map fun p => if za then (p.2.toNat, (0 : Flg)) else add32 p.1 p.2.toNat
  (BitVec.ofNat 1024 (ofEls 32 (rs.map (·.1))), orFlags (rs.map (·.2)))

/-- The addends of MSCALE applied block by block (13 R348). -/
def tileScale (t : Tile) (za : Bool) (bs : List (List (Option Int × Int))) : Tile × Flg :=
  bs.foldl (fun (acc : Tile × Flg) b => let r := tileAdd acc.1 (b.map addendVal); (r.1, acc.2 ||| r.2))
    (if za then 0 else t, 0)

/-- An update applied; `acc0` holds the accumulators as they stood before this lc's updates (13 R330). -/
def MxEffect.apply (e : MxEffect) (acc0 : Vector Tile 256) (k : Core) : Core × Flg :=
  match e with
  | .acc n t => ({ k with acc := vset k.acc n t }.accClean n 0 2048, 0)
  | .pass n sums za =>
    if za then ({ k with acc := vset k.acc n (tileOf (sums.map BitVec.toNat)) }.accClean n 0 2048, 0)
    else
      let r := tileAdd (vget acc0 n 0) (sums.map fun x => fdecode F64 x.toNat)
      ({ k with acc := vset k.acc n r.1 }, r.2)
  | .scale n bs za =>
    let r := tileScale (vget acc0 n 0) za bs
    let k : Core := { k with acc := vset k.acc n r.1, partial_ := none }
    (if za then k.accClean n 0 2048 else k, r.2)
  | .add n m =>
    let r := tileAdd (vget acc0 n 0) ((tileEls (vget acc0 m 0)).map (fdecode F64))
    ({ k with acc := vset k.acc n r.1 }, r.2)
  | .quarter n q v =>
    let en : Tile := BitVec.ofNat 16384 ((2 ^ 4096 - 1) * 2 ^ (4096 * q))
    ({ k with acc := vset k.acc n (blend en (v.setWidth 16384 <<< (4096 * q)) (vget k.acc n 0)) }.accClean n (512 * q) 512, 0)
  | .partials f ts => ({ k with partial_ := some (f, ts) }, 0)
  | .check n xs za =>
    let r := laneAdd za (vget k.ck n 0) xs
    ({ k with ck := vset k.ck n r.1 }, r.2)
  | .zeroCheck n => ({ k with ck := vset k.ck n 0 }, 0)
  | .pop r i => match vget k.rings r none with
    | some g => (k.setRing r (some (g.pop i)), 0)
    | none => (k, 0)
  | .push r n => match vget k.rings r none with
    | some g => (k.setRing r (some (g.push n)), 0)
    | none => (k, 0)
  | .slots st cl => ({ k with dslots := (k.dslots ||| st) &&& ~~~cl }, 0)
  | .words w ws => ({ k with ustore := (ws.zipIdx).foldl (fun m x => sset 0 m (w + x.2) x.1) k.ustore }, 0)
  | .ring n r => (k.setRing n r, 0)
  | .flip n bit => ({ k with acc := vset k.acc n (vget k.acc n 0 ^^^ BitVec.ofNat 16384 (2 ^ bit)) }, 0)
  | .complete slot fl => ({ k with dslots := match slot with | some i => k.dslots ||| (1#8 <<< i) | none => k.dslots
                                   seq := none }, fl)

/-- Applies the updates of one lc whose rank lies in [lo, hi), in order of rank; their flags go to the routine. -/
def Core.mxApply (k : Core) (acc0 : Vector Tile 256) (lo hi : Nat) : Core :=
  (sortBy (fun a b => decide (a.rank ≤ b.rank)) (k.mxpend.filter fun p => p.left == 0 && lo ≤ p.rank && p.rank < hi)).foldl
    (fun k p =>
      let r := p.eff.apply acc0 k
      match r.1.seq with
      | some q => { r.1 with seq := some { q with cmd := { q.cmd with flags := q.cmd.flags ||| p.flags ||| r.2 } } }
      | none => r.1) k

/-- The flags that a routine completing in this lc delivers (13 R341). -/
def Core.mxDone (k : Core) : Flg :=
  if k.mxpend.any (fun p => p.left == 0 && match p.eff with | .complete _ _ => true | _ => false) then
    match k.seq with | some q => q.cmd.flags | none => 0
  else 0

/-- The rings as pops and claims will leave them at the end of this lc (13 R356). -/
def Core.ringsAtClose (k : Core) (clock : Nat) (ds : List Nat) : Core :=
  ((k.mxpend.filter fun p => p.left == 0 && p.rank == 3).foldl (fun k p => (p.eff.apply k.acc k).1) k |>.claims clock ds).1

def State.mxPend (s : State) (e : MxEffect) (left rank : Nat) (fl : Flg := 0) : State :=
  s.onCore fun k => { k with mxpend := k.mxpend ++ [{ eff := e, left := left, rank := rank, flags := fl }] }

/-! ### Commands -/

/-- Sub-codes of a failing start check (13 R340). -/
def Core.startFails (k : Core) (dep : Word) : List (BitVec 16) :=
  (if dep.extractLsb' 0 8 &&& ~~~k.dslots ≠ 0 then ([2] : List (BitVec 16)) else []) ++
  (if k.seq.isSome || k.mxpend.any (fun p => match p.eff with | .words _ _ => true | _ => false) then ([3] : List (BitVec 16)) else [])

/-- The sequencer takes a command: the consumed slots are cleared. -/
def Core.startCmd (k : Core) (c : MxCmd) : Core :=
  { k with dslots := k.dslots &&& ~~~(c.dep.extractLsb' 0 8)
           seq := some { cmd := c, upc := c.first, ix := List.replicate 8 0, stack := [], wait := 0 } }

/-- The start of the command at the head of the queue, at the start of its lc (13 R340). One whose check fails stays at the
head, so that the fault repeats after a RESUME (18 R423). -/
def execRoutineStart (s : State) : Res :=
  match s.core.cmdq with
  | [] => .next s
  | c :: rest =>
    match s.core.startFails c.dep with
    | sub :: _ =>
      let t : Trap := { code := 0x07, sub := sub, cmd := some c.baddr, aux1 := BitVec.ofNat 64 c.start }
      .next (s.onCore fun k => { k with engTrap := some t })
    | [] => .next (s.onCore fun k => ({ k with cmdq := rest } : Core).startCmd c)

/-! ### Micro-ops -/

/-- The fault of a micro-op names its command and its word where 18 Table 2 gives the code these fields (13 R343). (DEDUCED, unsafe: notes/assumptions/93.md.) -/
def MxCmd.named (c : MxCmd) (upc : Nat) (t : Trap) : Trap :=
  if t.code = 0x07 ∨ t.code = 0x0E ∨ t.code = 0x0F then { t with cmd := some c.baddr, aux0 := BitVec.ofNat 64 upc }
  else if t.code = 0x11 then { t with cmd := some c.baddr } else t

/-- How a micro-op ends: with its effects scheduled, waiting on a fill (the core freezes), or on a fault that stops
the task before its next bundle (13 R343). (DEDUCED, unsafe: notes/assumptions/10.md.) -/
def microFinish (s : State) (r : Seqr → Try State) : Res :=
  match s.core.seq with
  | none => .next s
  | some q =>
    match r q with
    | .ok s => .next (s.onStr fun t => { t with held := false })
    | .error (.hold s) => .next (s.onStr fun t => { t with held := true })
    | .error (.trap s t) => .next (s.onCore fun k => { k with engTrap := some (q.cmd.named q.upc t) })

/-- A micro-op that breaks its own limits (13 R345). -/
def microLegal (s : State) (ok : Bool) : Try Unit := trapIf s (!ok) 0x0E 0x50

def Seqr.ixAt (q : Seqr) (x : BitVec 3) : Nat := (q.ix.getD x.toNat 0).toNat

/-- The sequencer moves on: a timed micro-op of `len` lc, or a control one (len 0). -/
def State.seqNext (s : State) (q : Seqr) (len : Nat) : State :=
  s.onCore fun k => { k with seq := k.seq.map fun c => { q with cmd := c.cmd, upc := q.upc + 1, wait := len } }

def accIn (s : State) (n : Nat) : Try Unit := trapIf s (s.core.badAcc n) 0x06 0
/-- The fault of a micro-op that takes a value from accumulator `n`. -/
def Core.accRead (k : Core) (n : Nat) : Option Trap := k.accFault 3 n 0 2048

/-- The fault of reading `n` bytes at an offset of a ring's HEAD stage, lowest sub-code first (13 R336). -/
def ringFault (g : Option Ring) (r : BitVec 4) (off n : Nat) : Option Trap :=
  let t (sub : BitVec 16) : Option Trap := some { code := 0x0F, sub := sub, aux1 := r.setWidth 64 }
  match g with
  | none => t 5
  | some g => if (g.stage g.head).1 = .empty then t 1 else if g.sb < off + n then t 4 else none

/-- An engine's read of a marked row is logged once for its command (08 R218); in a free phase it is an event of the
journal, which a replay holds (18 R440). -/
def State.engineMark (s : State) (baddr : Word) (f : Core → Core) : Try State := do
  let s ← s.gateEvent 0x03 baddr
  let s := s.onCore fun k => f (k.logEvent 0x03 baddr false)
  .ok (if s.core.free then s.onPkg fun pk => pk.journalAdd s.core 0x03 false baddr s.str.lcc 0 else s)

/-- Accesses of the engine to pool ranges (13 R336; 14 R371, R376; 08 R218; 18 R430); `extra` is the micro-op's own fault
of the same point. -/
def State.macc (s : State) (write : Bool) (lat : Nat) (rs : List (Nat × Nat)) (extra : Option Trap := none) : Try State := do
  holdIf s (s.core.mustWait rs)
  let off := match s.core.seq with | some q => q.cmd.spb.toNat % 128 * Config.bankBytes | none => 0
  let fault (r : Nat × Nat) : Option Trap :=
    let la : Word := BitVec.ofNat 64 (r.1 - off)
    lowTrap (if write then none else (s.core.poisonUnder [r]).map fun p =>
      { code := 0x11, sub := 3, va := la, aux0 := BitVec.ofNat 64 (p / Config.bankBytes) }) (s.early write lat la [r])
  trapOpt s (rs.foldl (fun t r => lowTrap t (fault r)) extra)
  if write then .ok s
  else
    let s ← match s.core.seq with
      | some q =>
        if !q.cmd.marked && (rs.flatMap fun r => rowsOf r.1 r.2).any s.core.marks.contains then
          s.engineMark q.cmd.baddr fun k => { k with seq := some { q with cmd := { q.cmd with marked := true } } }
        else .ok s
      | none => .ok s
    .ok (s.onCore fun k => { k with touched := k.touched ++ rs.map fun r => (0, banksOf r.1 r.2) })

/-- Reads of slices at the HEAD stages of two rings (13 R336): a fault, a freeze on a fill, or the bytes. -/
def State.slices (s : State) (rs : List (BitVec 4 × Nat × Nat)) (extra : Option Trap := none) :
    Try (State × List (List Byte)) := do
  trapOpt s (rs.foldl (fun t r => lowTrap t (ringFault (s.core.ring r.1) r.1 r.2.1 r.2.2)) none)
  let gs := rs.filterMap fun r => (s.core.ring r.1).map fun g => (g.base + g.head * g.sb + r.2.1, r.2.2)
  holdIf s (rs.any fun r => match s.core.ring r.1 with | some g => (g.stage g.head).1 == .filling | none => false)
  let s ← s.macc false 0 gs extra
  .ok (s, gs.map fun g => s.core.spad.readN g.1 g.2)

/-- The stages that a micro-op read, each popped once, `left` lc from now. -/
def State.popRings (s : State) (rs : List (BitVec 4)) (left : Nat) : State :=
  rs.eraseDups.foldl (fun s r => s.mxPend (.pop r.toNat (match s.core.ring r with | some g => g.head | none => 0)) left 3) s

/-- Whether an MSCALE in flight invalidates the partial buffer within `n` lc (13 R347). -/
def Core.scaleWithin (k : Core) (n : Nat) : Bool :=
  k.mxpend.any fun p => decide (p.left ≤ n) && match p.eff with | .scale _ _ _ => true | _ => false

/-- 13 Table 6, op 0: the routine ends with this micro-op's last lc, which is that of an MSCALE in flight. -/
def execMend (s : State) : Res :=
  microFinish s fun q =>
    let left := (s.core.mxpend.map fun p => match p.eff with | .scale _ _ _ => p.left | _ => 0).foldl max 0
    let slot := if q.cmd.dep.getLsbD 11 then some (bits q.cmd.dep.toNat 10 8) else none
    .ok ((s.mxPend (.complete slot 0) left 7).onCore fun k =>
      { k with seq := some { q with wait := left + 1, ending := true } })

/-- 13 Table 6, op 1; 13 R347. -/
def execMpass (ra rb : BitVec 4) (xc xp xq : BitVec 3) (fmt : BitVec 4) (ck za : BitVec 1) (s : State) : Res :=
  microFinish s fun q => do
    microLegal s (fmtLegal fmt && (!fmtIsMx fmt || ck == 0 && za == 0))
    let n := q.ixAt xc
    accIn s n
    let len := passLen fmt
    if fmtIsMx fmt then
      trapIf s (s.core.partial_.isSome && !s.core.scaleWithin (len - 1)) 0x0E 0x52
      let r ← s.slices [(ra, 1536 * q.ixAt xp, 1536), (rb, 1536 * q.ixAt xq, 1536)]
      let m := mxFmt fmt
      let p := mxPartials m.1 m.2.1 (r.2.getD 0 []) (r.2.getD 1 [])
      .ok (((r.1.mxPend (.partials fmt.toNat p.1) (len - 1) 1 p.2).popRings [ra, rb] (len - 1)).seqNext q len)
    else
      let r ← s.slices [(ra, 1536 * q.ixAt xp, 1536), (rb, 1536 * q.ixAt xq, 1536)] (if za = 1 then none else s.core.accRead n)
      let f := passFmt fmt
      let a := sliceRows f.fa f.k (r.2.getD 0 [])
      let b := sliceRows f.fb f.k (r.2.getD 1 [])
      let sums := passSums a b
      let s := r.1.mxPend (.pass n (sums.1.map (BitVec.ofNat 64)) (za == 1)) (len - 1) 1 sums.2
      let s := if ck = 1 then
          let l := passLanes f.k a b
          s.mxPend (.check (n % 16) l.1 (za == 1)) (len - 1) 1 l.2
        else s
      .ok ((s.popRings [ra, rb] (len - 1)).seqNext q len)

/-- 13 Table 6, op 2; 13 R348. -/
def execMscale (ra rb : BitVec 4) (xc xp xq : BitVec 3) (fmt : BitVec 4) (za : BitVec 1) (s : State) : Res :=
  microFinish s fun q => do
    microLegal s (fmtLegal fmt)
    let n := q.ixAt xc
    accIn s n
    match s.core.partial_ with
    | none => .error (.trap s { code := 0x0E, sub := 0x52 })
    | some (pf, ps) =>
      trapIf s (pf != fmt.toNat) 0x0E 0x52
      let r ← s.slices [(ra, 96 * q.ixAt xp, 96), (rb, 96 * q.ixAt xq, 96)] (if za = 1 then none else s.core.accRead n)
      let sa := (r.2.getD 0 []).map BitVec.toNat
      let sb := (r.2.getD 1 []).map BitVec.toNat
      let bs := ps.zipIdx.map fun blk => blk.1.zipIdx.map fun e =>
        mxAddend (mxFmt fmt).1 e.1 (sa.getD (6 * (e.2 / 16) + blk.2) 0) (sb.getD (6 * (e.2 % 16) + blk.2) 0)
      let s := r.1.mxPend (.scale n (bs.map fun b => b.map (·.1)) (za == 1)) 1 0
        (orFlags (bs.map fun b => orFlags (b.map (·.2))))
      .ok ((s.popRings [ra, rb] 1).seqNext q 0)

/-- 13 Table 6, op 3. -/
def execMzero (xc : BitVec 3) (s : State) : Res :=
  microFinish s fun q => do
    accIn s (q.ixAt xc)
    .ok ((s.mxPend (.acc (q.ixAt xc) 0) 0 1).seqNext q 1)

/-- Output of `n` bytes to the captured MP register's address, written in the micro-op's last lc (13 R350). -/
def mxOut (s : State) (q : Seqr) (mpr xq : BitVec 3) (lat : Nat) (bs : List Byte) (fl : Flg) (extra : Option Trap := none) :
    Try State := do
  let la : Word := BitVec.ofNat 64 (bits (q.cmd.mp.getD mpr.toNat 0).toNat 21 0 + 64 * q.ixAt xq)
  let a ← s.lspaceBy q.cmd.spb la bs.length 64
  let s ← s.macc true lat [(a, bs.length)] extra
  let s := s.onCore fun k =>
    { k with stores := k.stores ++ [{ cells := cellsAt a bs, left := lat, seq := matrixSeq }]
             seq := k.seq.map fun c => { c with cmd := { c.cmd with flags := c.cmd.flags ||| fl } } }
  .ok (s.seqNext q (lat + 1))

/-- Output formats (13 Table 7). -/
def outFmt (f : BitVec 4) : Fmt :=
  match f.toNat with | 0 => F64 | 1 => F32 | 2 => BF16 | 3 => F16 | 4 => E4M3 | _ => E5M2

/-- 13 Table 6, op 4; 13 R350. -/
def execMout (xc xq : BitVec 3) (fmt : BitVec 4) (sat : BitVec 1) (rm mpr : BitVec 3) (s : State) : Res :=
  microFinish s fun q => do
    microLegal s (decide (fmt.toNat < 6) && rmLegal rm)
    let n := q.ixAt xc
    accIn s n
    let f := outFmt fmt
    let r := if rm = 5 then rndOf q.cmd.mode.toNat else if rm = 4 then .rne else rndOf rm.toNat
    let cs := (tileEls (vget s.core.acc n 0)).map fun x => fconvert F64 f r (sat == 1) x
    let fl := orFlags (cs.map (·.2)) ||| flIf (rm == 4 || (sat == 1 && decide (fmt.toNat < 4))) flMF
    mxOut s q mpr xq 3 (cs.flatMap fun c => toBytes (f.width / 8) c.1) fl (s.core.accRead n)

/-- 13 Table 6, op 5. -/
def execMckz (xc : BitVec 3) (s : State) : Res :=
  microFinish s fun q => .ok ((s.mxPend (.zeroCheck (q.ixAt xc % 16)) 0 1).seqNext q 1)

/-- 13 Table 6, op 6; 13 R350. -/
def execMckout (xc xq mpr : BitVec 3) (s : State) : Res :=
  microFinish s fun q => mxOut s q mpr xq 1 (toBytes 128 (vget s.core.ck (q.ixAt xc % 16) 0).toNat) 0

/-- 13 Table 6, op 7: consumes the HEAD stage as a read would, without reading bytes. -/
def execMpopMicroOp (ra : BitVec 4) (s : State) : Res :=
  microFinish s fun q => do
    match ringFault (s.core.ring ra) ra 0 0 with
    | some t => .error (.trap s t)
    | none => .ok ()
    holdIf s (match s.core.ring ra with | some g => (g.stage g.head).1 == .filling | none => false)
    .ok ((s.popRings [ra] 0).seqNext q 1)

/-- 13 Table 6, op 8. -/
def execMacc (xc xp : BitVec 3) (s : State) : Res :=
  microFinish s fun q => do
    accIn s (q.ixAt xc)
    accIn s (q.ixAt xp)
    trapOpt s (lowTrap (s.core.accRead (q.ixAt xc)) (s.core.accRead (q.ixAt xp)))
    .ok ((s.mxPend (.add (q.ixAt xc) (q.ixAt xp)) 0 1).seqNext q 1)

/-- 13 Table 6, op 9. -/
def execMidle (imm : BitVec 16) (s : State) : Res :=
  microFinish s fun q => do
    microLegal s (imm != 0)
    .ok (s.seqNext q imm.toNat)

def Seqr.setIx (q : Seqr) (x : BitVec 3) (v : Nat) : Seqr := { q with ix := q.ix.set x.toNat (BitVec.ofNat 16 v) }

/-- 13 Table 6, op 10. -/
def execMldi (xc : BitVec 3) (sel : BitVec 1) (mpr : BitVec 3) (mpf : BitVec 2) (imm : BitVec 16) (s : State) : Res :=
  microFinish s fun q => .ok (s.seqNext (q.setIx xc
    (if sel = 1 then el (q.cmd.mp.getD mpr.toNat 0).toNat 16 mpf.toNat else imm.toNat)) 0)

/-- 13 Table 6, op 11. -/
def execMaddi (xc : BitVec 3) (imm : BitVec 16) (s : State) : Res :=
  microFinish s fun q => .ok (s.seqNext (q.setIx xc (q.ixAt xc + imm.toNat)) 0)

def Core.uword (k : Core) (w : Nat) : Nat := (sget 0 k.ustore w : Word).toNat

/-- The MNEXT that matches an MLOOP, before any MEND (13 R346): scanned from word `w` at nesting depth d. -/
def matchNext (k : Core) : Nat → Nat → Nat → Option Nat
  | 0, _, _ => none
  | n + 1, w, d =>
    if 4095 < w then none
    else
      let op := bits (k.uword w) 63 59
      if op = 0 then none
      else if op = 12 then matchNext k n (w + 1) (d + 1)
      else if op = 13 then (if d = 0 then some w else matchNext k n (w + 1) (d - 1))
      else matchNext k n (w + 1) d

/-- 13 Table 6, op 12. -/
def execMloop (xc : BitVec 3) (s : State) : Res :=
  microFinish s fun q => do
    match matchNext s.core 4096 (q.upc + 1) 0 with
    | none => .error (.trap s { code := 0x0E, sub := 0x50 })
    | some w =>
      if q.ixAt xc = 0 then .ok (s.seqNext { q with upc := w } 0)
      else do
        trapIf s (decide (2 ≤ q.stack.length)) 0x0E 0x50
        .ok (s.seqNext { q with stack := (q.upc, q.ixAt xc) :: q.stack } 0)

/-- 13 Table 6, op 13. -/
def execMnext (s : State) : Res :=
  microFinish s fun q =>
    match q.stack with
    | [] => .error (.trap s { code := 0x0E, sub := 0x50 })
    | (w, n) :: rest =>
      if n ≤ 1 then .ok (s.seqNext { q with stack := rest } 0)
      else .ok (s.seqNext { q with upc := w, stack := (w, n - 1) :: rest } 0)

/-! ### Major 23 -/

/-- A form of major 23, which the secondary stream may not issue (08 R217). -/
def mxForm (s : State) (k : Try State) : Res := finish (do primaryOnly s; k)

/-- The lowest of several faults stops the bundle (03 R99). -/
def trapLow (s : State) (ts : List (Bool × Trap)) : Try Unit :=
  match (ts.filter (·.1)).foldl (fun t x => lowTrap t (some x.2)) none with
  | some t => .error (.trap s t)
  | none => .ok ()

/-- Whether a command is queued or running. -/
def Core.mxBusy (k : Core) : Bool := k.seq.isSome || !k.cmdq.isEmpty

/-- Start cycle of the last command issued that has not completed (13 R339). -/
def Core.lastStart (k : Core) : Option Nat :=
  match k.cmdq.getLast? with
  | some c => some c.start
  | none => k.seq.map (·.cmd.start)

/-- 13 R337 to R340, R344. -/
def execMxcall (a b : BitVec 5) (n : BitVec 8) (s : State) : Res :=
  mxForm s do
    let c := s.str.lcc.toNat
    let x := s.rx a
    let dep := s.rx b
    let start := if a = 0 then c else bits x.toNat 47 0
    let entry := s.core.uword n.toNat
    let valid := entry / 2 ^ 63 = 1 ∧ bits entry 62 12 = 0 ∧ 256 ≤ bits entry 11 0
    let t7 (sub : BitVec 16) : Trap :=
      { code := 0x07, sub := sub, cmd := some s.str.pc, aux1 := BitVec.ofNat 64 start }
    let fails := if start = c then s.core.startFails dep else []
    trapLow s
      [(decide (start < c), t7 1), (fails.contains 2, t7 2), (fails.contains 3, t7 3),
       (decide (4 ≤ s.core.cmdq.length), t7 4),
       ((match s.core.lastStart with | some l => decide (start ≤ l) | none => false), t7 5),
       (!decide valid, { code := 0x0E, sub := 0x51, cmd := some s.str.pc }),
       (decide (bits x.toNat 63 48 ≠ 0) && a != 0 || decide (bits dep.toNat 63 12 ≠ 0),
         { code := 0x0E, sub := 0x54, cmd := some s.str.pc })]
    let cmd : MxCmd := { start := start, mp := s.core.mp.toList, dep := dep, mode := s.str.rmode.extractLsb' 0 2
                         first := bits entry 11 0, spb := s.str.spb, baddr := s.str.pc }
    .ok (s.onCore fun k => if start = c then k.startCmd cmd else { k with cmdq := k.cmdq ++ [cmd] })

/-- 13 R355. -/
def execMxparm (a : BitVec 5) (n : BitVec 3) (s : State) : Res := mxForm s (.ok (s.emit (.mp n (s.rx a)) 1))

/-- Fields of a ring configuration word: SB, CC, NST, and whether it is well formed (13 Table 3). -/
def ringWord (w : Nat) : Nat × Nat × Nat × Bool :=
  let sb := bits w 35 16
  let cc := bits w 15 8
  let nst := bits w 4 0
  (sb, cc, nst, decide (bits w 63 36 = 0 ∧ bits w 7 5 = 0) &&
    if nst = 0 then decide (sb = 0 ∧ cc = 0)
    else decide (sb % 32 = 0 ∧ 96 ≤ sb ∧ sb ≤ 1048544 ∧ 1 ≤ cc))

def ringOf (base sb cc nst : Nat) : Option Ring :=
  if nst = 0 then none
  else some { base := base, sb := sb, cc := cc, stages := List.replicate nst (.empty, cc), head := 0, tail := 0 }

/-- A looping copy that feeds the ring: it still has iterations that have claimed no stage (13 R356). -/
def Core.feeds (k : Core) (r : Nat) : Bool := k.copies.any fun c => c.ring == some r && !c.todo.isEmpty

/-- 13 R333, R356. -/
def execMxrcfg (a b : BitVec 5) (r : BitVec 4) (s : State) : Res :=
  mxForm s do
    let w := ringWord (s.rx b).toNat
    let base := s.rx a
    trapLow s
      [(!s.core.inBounds s.str.spb base (w.2.2.1 * w.1) && w.2.2.1 * w.1 != 0, { code := 0x06, va := base }),
       (s.core.mxBusy, { code := 0x07, sub := 6 }),
       (!w.2.2.2 || decide (base.toNat % 32 ≠ 0), { code := 0x0E, sub := 0x53 }),
       (s.core.feeds r.toNat, { code := 0x0F, sub := 3, aux1 := r.setWidth 64 })]
    holdIf s (match s.core.ring r with | some g => decide (0 < g.count .filling) | none => false)
    .ok (s.mxPend (.ring r.toNat (ringOf (poolAddr s.str.spb base) w.1 w.2.1 w.2.2.1)) 0 5)

/-- Whether the `n` stages from TAIL are EMPTY. -/
def Ring.emptyFrom (g : Ring) (n : Nat) : Bool :=
  (List.range n).all fun i => (g.stage ((g.tail + i) % g.nst)).1 == .empty

/-- 13 R356: decided on the rings as this lc's pops and claims will leave them. -/
def execMxrpush (a : BitVec 5) (r : BitVec 4) (s : State) : Res :=
  mxForm s do
    let n := (s.rx a).toNat
    match s.core.ring r with
    | none => .error (.trap s { code := 0x0E, sub := 0x53 })
    | some g =>
      trapWith s (decide (n = 0 ∨ g.nst < n)) { code := 0x0E, sub := 0x53 }
      let after := (s.core.ringsAtClose s.pkg.clock s.pkg.delays).ring r
      trapWith s (match after with | some g => !g.emptyFrom n | none => true)
        { code := 0x0F, sub := 2, aux1 := r.setWidth 64 }
      .ok (s.mxPend (.push r.toNat n) 0 5)

/-- 13 R357, Table 11. -/
def execMxrstat (d : BitVec 5) (r : BitVec 4) (s : State) : Res :=
  mxForm s <|
    match s.core.ring r with
    | none => .ok (s.emitX d 2 0)
    | some g =>
      let w := g.head + g.tail * 2 ^ 8 + g.count .full * 2 ^ 16 + g.count .filling * 2 ^ 24 +
        (g.stage g.head).2 * 2 ^ 32 + 2 ^ 40
      let v : Word := BitVec.ofNat 64 w
      if 0 < g.count .filling then .ok ((s.cause 0x05 v).emitX d 2 (s.replayed v)) else .ok (s.emitX d 2 v)

/-- 13 R358. -/
def execMxrda (a : BitVec 5) (q : BitVec 2) (d : BitVec 6) (s : State) : Res :=
  mxForm s do
    let n := (s.rx a).toNat
    accIn s n
    trapOpt s (s.core.accFault 2 n (512 * q.toNat) 512)
    .ok (s.emit (.v d (BitVec.allOnes 4096) ((vget s.core.acc n 0).extractLsb' (4096 * q.toNat) 4096)) 3)

/-- 13 R358. -/
def execMxwra (a : BitVec 5) (q : BitVec 2) (v : BitVec 6) (s : State) : Res :=
  mxForm s do
    accIn s (s.rx a).toNat
    .ok (s.mxPend (.quarter (s.rx a).toNat q.toNat (s.rv v)) 0 2)

/-- 13 R359. -/
def execMxdset (m : BitVec 8) (s : State) : Res := mxForm s (.ok (s.mxPend (.slots m 0) 0 6))
/-- 13 R359. -/
def execMxdclr (m : BitVec 8) (s : State) : Res := mxForm s (.ok (s.mxPend (.slots 0 m) 0 6))
/-- 13 R359. -/
def execMxdrd (d : BitVec 5) (s : State) : Res := mxForm s (.ok (s.emitX d 1 (s.core.dslots.setWidth 64)))

/-- 13 R360. -/
def execMxuld (a b : BitVec 5) (s : State) : Res :=
  mxForm s do
    let dsc := (s.rx b).toNat
    let w := bits dsc 11 0
    let n := bits dsc 28 16
    let la := s.rx a
    let good := bits dsc 15 12 = 0 ∧ bits dsc 63 29 = 0 ∧ 1 ≤ n ∧ w + n ≤ 4096 ∧ la.toNat % 8 = 0
    trapLow s
      [(!s.core.inBounds s.str.spb la (8 * n) && n != 0, { code := 0x06, va := la }),
       (s.core.mxBusy, { code := 0x07, sub := 6 }),
       (!decide good, { code := 0x0E, sub := 0x55 })]
    let p := poolAddr s.str.spb la
    let s ← s.laccEngine false 0 la [(p, 8 * n)]
    let ws := (List.range n).map fun i => (BitVec.ofNat 64 (s.core.spad.num (p + 8 * i) 8) : Word)
    .ok (s.mxPend (.words w ws) ((n + 63) / 64 - 1) 6)

/-! ### The standard image (13 R351, R352) -/

def uw (op : Nat) (fields : Nat) : Nat := op * 2 ^ 59 + fields
def uMldi (xc mpf : Nat) : Nat := uw 10 (xc * 2 ^ 48 + mpf * 2 ^ 27 + 2 ^ 26)
def uPass (f ck : Nat) : Nat :=
  uw 1 (1 * 2 ^ 51 + 2 * 2 ^ 45 + 2 * 2 ^ 42 + f * 2 ^ 38 + ck * 2 ^ 37)
def uScale (f : Nat) : Nat := uw 2 (2 * 2 ^ 55 + 3 * 2 ^ 51 + 2 * 2 ^ 45 + 2 * 2 ^ 42 + f * 2 ^ 38)

/-- Words of a standard routine, as 13 Table 8 gives its body and Table 9 the layout. -/
def stdRoutine (n : Nat) : Option (List Nat) :=
  let pre := [uMldi 0 0, uMldi 1 1, uw 10 (2 * 2 ^ 48)]
  let isMx (f : Nat) : Bool := decide (4 ≤ f ∧ f ≤ 6)
  let loop (f ck : Nat) := [uw 12 (2 ^ 48), uPass f ck] ++ (if isMx f then [uScale f] else []) ++ [uw 13 0, 0]
  if n < 9 then some (pre ++ loop n 0)
  else if 16 ≤ n ∧ n < 25 then some (pre ++ [uw 3 0] ++ loop (n - 16) 0)
  else if 32 ≤ n ∧ n < 41 ∧ !isMx (n - 32) then some (pre ++ [uw 3 0, uw 5 0] ++ loop (n - 32) 1)
  else if 48 ≤ n ∧ n < 54 then
    some (pre ++ [uw 4 (2 * 2 ^ 42 + (n - 48) * 2 ^ 38 + (if 52 ≤ n then 2 ^ 35 else 0) + 5 * 2 ^ 32 + 2 ^ 29), 0])
  else if n = 56 then some (pre ++ [uw 6 (2 * 2 ^ 42 + 2 ^ 29), 0])
  else if n = 57 then some (pre ++ [uw 8 (1 * 2 ^ 45), 0])
  else none

/-- The store at bind: the routines one after another from word 256, in number order (DESIGN CHOICE, unsafe: notes/assumptions/14.md). -/
def standardImage : List (Nat × Word) :=
  let r := (List.range 256).foldl (fun (acc : Nat × List (Nat × Word) × List (Nat × Word)) n =>
    match stdRoutine n with
    | some ws => (acc.1 + ws.length, acc.2.1 ++ [(n, BitVec.ofNat 64 (2 ^ 63 + acc.1))],
        acc.2.2 ++ ws.zipIdx.map fun w => (acc.1 + w.2, BitVec.ofNat 64 w.1))
    | none => acc) (256, [], [])
  (r.2.1 ++ r.2.2).filter (·.2 != 0)

end Sys2Proof.Machine
end

