-- ==== Sys2Proof/Machine/Tagged.lean ====
section
/-! DEFINITION. Tags of the asynchronous commands and their observation (14 R372, R378), and the haul plan's
deferred faults (15 R402, R404). -/
namespace Sys2Proof.Machine

def Core.tag (k : Core) (t : Nat) : Tag := vget k.tags t {}
def Core.onTag (k : Core) (t : Nat) (f : Tag → Tag) : Core := { k with tags := vset k.tags t (f (k.tag t)) }
def Core.tagBusy (k : Core) (t : Nat) : Bool := (k.tag t).st == .outstanding

/-- CTB (14 Table 4). -/
def Core.ctb (k : Core) : Word :=
  BitVec.ofNat 64 (ofEls 1 (k.tags.toList.map fun t => if t.st == .done then 1 else 0))

/-- The tags of a mask. -/
def maskTags (m : Word) : List Nat := (List.range 64).filter fun t => m.getLsbD t

/-- Tags of commands that the stream in focus issued. -/
def State.ownTags (s : State) : List Nat := (List.range 64).filter fun t => (s.core.tag t).sec == s.str.sec

def Plan.busy (p : Plan) : Bool := p.acts.any (!·.done)
/-- 4,096 deferred faults are kept (18 R514). -/
def Plan.full (p : Plan) : Bool := decide (4096 ≤ p.acts.countP fun a => a.fault.isSome)

def eAction (e : BitVec 256) : Nat := bits e.toNat 1 0
def eStier (e : BitVec 256) : Nat := bits e.toNat 9 8
def eDtier (e : BitVec 256) : Nat := bits e.toNat 11 10
def eStart (e : BitVec 256) : Nat := bits e.toNat 63 32
def eNeed (e : BitVec 256) : Nat := bits e.toNat 95 64
def eBytes (e : BitVec 256) : Nat := bits e.toNat 127 96
def eSrc (e : BitVec 256) : Word := e.extractLsb' 128 64
def eDst (e : BitVec 256) : Word := e.extractLsb' 192 64

/-- 15 Table 3. -/
def entryTiers (e : BitVec 256) : Bool :=
  let s := eStier e
  let d := eDtier e
  match eAction e with
  | 0 => decide ((s = 1 ∨ s = 2) ∧ d < s ∧ d < 2)
  | 1 => decide (s = 0 ∧ (d = 1 ∨ d = 2))
  | 2 => decide (s < 2 ∧ (d = 1 ∨ d = 2) ∧ s < d)
  | _ => decide (s = 0 ∧ d = 0 ∧ eDst e = 0)

/-- L-ranges of haul tier 0 that an entry names. -/
def entryLocal (e : BitVec 256) : List Word :=
  (if eStier e = 0 then [eSrc e] else []) ++ (if eDtier e = 0 ∧ eAction e ≠ 3 then [eDst e] else [])
def entryReads (e : BitVec 256) : List (Word × Nat) := if eStier e = 0 then [] else [(eSrc e, eBytes e)]
def entryWrites (e : BitVec 256) : List (Word × Nat) :=
  if eDtier e = 0 then [] else [(eDst e, eBytes e)]

/-- 15 R393. -/
def entryLegal (wbase wbytes : Nat) (e : BitVec 256) : Bool :=
  decide (bits e.toNat 7 2 = 0 ∧ bits e.toNat 31 15 = 0) && entryTiers e && decide (eStart e < eNeed e) &&
  decide ((eSrc e).toNat % 32 = 0 ∧ (eDst e).toNat % 32 = 0 ∧ eBytes e % 32 = 0) &&
  (entryLocal e).all fun a => decide (wbase ≤ a.toNat ∧ a.toNat + eBytes e ≤ wbase + wbytes)

def Plan.entry (p : Plan) (i : Nat) : BitVec 256 := p.entries.getD i 0

/-- Byte ranges of an action: 0 in the pool, 1 in global space. -/
def Plan.ranges (p : Plan) (i : Nat) : List (Nat × Nat × Nat) :=
  let e := p.entry i
  (entryLocal e).map (fun a => (0, poolAddr p.spb a, eBytes e)) ++
    (entryReads e ++ entryWrites e).map fun r => (1, bits r.1.toNat 56 0, r.2)

/-- Two actions share a byte (15 R398). -/
def Plan.share (p : Plan) (i j : Nat) : Bool :=
  (p.ranges i).any fun a => (p.ranges j).any fun b => a.1 == b.1 && overlap a.2.1 a.2.2 b.2.1 b.2.2

/-- Started actions before `i` in start order that have not completed and share a byte with it. -/
def Plan.before (p : Plan) (i : Nat) : List HaulAct :=
  (p.acts.takeWhile (·.idx != i)).filter fun b => !b.done && p.share b.idx i

def Plan.onAct (p : Plan) (i : Nat) (f : HaulAct → HaulAct) : Plan :=
  { p with acts := p.acts.map fun a => if a.idx = i then f a else a }

/-- Entry `i` has completed. -/
def Plan.complete (p : Plan) (i : Nat) : Bool := p.acts.any fun a => a.idx == i && a.done

/-- The wait for some entries depends on a stuck action (18 R514). -/
def Plan.jammed (p : Plan) (ids : List Nat) : Bool :=
  p.full && (p.acts.foldl (fun (bad : List Nat) a =>
    if !a.done && (a.stuck || (p.before a.idx).any fun b => bad.contains b.idx) then a.idx :: bad else bad) []).any ids.contains

/-- The unreported fault of the lowest-indexed action among some, and the plan with it reported (15 R402). -/
def Plan.deferred (p : Plan) (sel : HaulAct → Bool) : Option (Trap × Plan) :=
  match (sortBy (fun a b => decide (a.idx ≤ b.idx)) (p.acts.filter fun a => sel a && a.fault.isSome)).head? with
  | some a => a.fault.map fun t =>
      ({ t with defer := true, cmd := some (BitVec.ofNat 64 a.idx) },
       { p with acts := p.acts.map fun b => if b.idx = a.idx then { b with fault := none } else b })
  | none => none

/-- The deferred errors that a bundle finds on some tags and, with `plan`, on the plan: the lowest of them, and the
state in which it has been consumed (14 R378; 04 R139). -/
def State.deferred (s : State) (ts : List Nat) (plan : Bool) : Option (Trap × State) :=
  let ofTags := ts.filterMap fun t => if (s.core.tag t).fresh then (s.core.tag t).err.map fun e =>
    ({ e with defer := true }, s.onCore fun k => k.onTag t fun g => { g with err := none }) else none
  let ofPlan := match s.core.plan with
    | some p => if plan then (p.deferred fun _ => true).toList.map fun r =>
        (r.1, s.onCore fun k => { k with plan := some r.2 }) else []
    | none => []
  (ofTags ++ ofPlan).foldl (fun best (c : Trap × State) => match best with
    | none => some c
    | some b => if c.1.code.toNat < b.1.code.toNat ∨ (c.1.code = b.1.code ∧ c.1.sub.toNat < b.1.sub.toNat) then some c
                else best) none

/-- The bundle in hand observes tags: a deferred error stops it, else their flags join FLAGS (14 R378). -/
def State.observe (s : State) (ts : List Nat) (plan : Bool := false) : Try State :=
  match s.deferred ts plan with
  | some (t, s') => .error (.trap s' t)
  | none =>
    let fresh := ts.filter fun t => (s.core.tag t).fresh
    let fl := orFlags (fresh.map fun t => (s.core.tag t).flags)
    let s := if !s.str.sec && fresh.any (fun t => (s.core.tag t).sec) then s.cause 0x03 else s
    .ok ((s.onStr fun r => { r with flags := r.flags ||| fl }).onCore fun k =>
      fresh.foldl (fun k t => k.onTag t fun g => { g with fresh := false, flags := 0 }) k)

/-- What every tagged command does with its tag before issue (14 R373). -/
def State.tagFree (s : State) (t : Nat) : Try State := do
  holdIf s (s.core.tagBusy t)
  s.observe [t]

/-- A tagged command starts on its tag; `bytes` is what TCNT will return. -/
def State.tagStart (s : State) (t bytes : Nat) : State :=
  s.onCore fun k => k.onTag t fun _ => { st := .outstanding, bytes := bytes, sec := s.str.sec }

/-- A tagged command completes: its tag becomes DONE, unobserved (14 R375, R378). -/
def Core.tagDone (k : Core) (t : Nat) (fl : Flg) (err : Option Trap) : Core :=
  k.onTag t fun g => { g with st := .done, flags := fl, err := err, fresh := true }

/-- The plan of the stream in focus, if it owns one. -/
def State.ownPlan (s : State) : Option Plan :=
  match s.core.plan with
  | some p => if p.sec == s.str.sec then some p else none
  | none => none

end Sys2Proof.Machine
end

