-- ==== Sys2Proof/Machine/Atom.lean ====
section
/-! DEFINITION. Atomics, major 10 (11 R309 to R314; wide cells 02 R82 to R85). An atomic with a result is performed
when it issues; one without departs (11 R310; DEDUCED, unsafe: notes/assumptions/18.md). -/
namespace Sys2Proof.Machine

/-- Fallbacks of 11 R313: WRD drops .rel; an ordered form takes CORE for LANE and QUAD for a wider L-space scope. -/
def atomMf (glob wrd : Bool) (o : BitVec 2) (c : BitVec 3) : Flg :=
  flIf (wrd && decide (2 ≤ o.toNat) || o != 0 && (c == 0 || !glob && decide (3 ≤ c.toNat))) flMF


/-- Operations of 11 Table 4 at a tier. -/
def tierAllows (t : BitVec 2) (op : Nat) : Bool :=
  match t.toNat with | 0 => true | 1 => decide (op < 3) | _ => decide (op < 10)

/-- Fault 0x0C, sub-code 4, of a translated target (11 R309). -/
def tierFault (fn : Nat) (va : Word) (op : Nat) (pk : Package) : Option Trap :=
  match pk.translate fn va with
  | .ok e => if tierAllows (leafTier e.leaf) op then none else some { code := 0x0C, sub := 4, va := va, aux0 := e.leaf }
  | .error _ => none

/-- A global lock word that the stream has bound (11 R314). -/
def State.boundLock (s : State) (va : Word) (n : Nat) : Bool :=
  s.str.binds.any fun b => b.kind == 0 && b.objGlobal &&
    overlap (bits va.toNat 56 0) n (bits b.obj.toNat 56 0) 8


/-- An ATOM of 11 R312. A failed AMCAS writes nothing, so that no acquire observes it as a release (11 R296). -/
structure Atom where
  glob : Bool
  op : Nat
  n : Nat
  va : Word
  d : BitVec 5
  /-- The operand of the operation at the target, and what AMCAS compares with. -/
  data : Nat
  cmp : Nat
  acq : Bool
  rel : Bool
  /-- Flags of the form, and its register result for an old value; none for a wide add. -/
  flags : Flg
  res : Option (Nat → Nat × Flg)

/-- The new value at the target, if the operation writes one. -/
def Atom.new (q : Atom) (old : Nat) : Option Nat :=
  if q.op = 15 ∨ (q.op = 1 ∧ old ≠ q.cmp) then none else some (atomicNew q.op (8 * q.n) old q.data)

/-- An acquire waits for the stream's earlier acquires, a release for all that is not yet performed (11 R297). -/
def Atom.waits (q : Atom) (s : State) : Bool := q.rel && s.unperformed || q.acq && s.unacquired

def atomL (s : State) (q : Atom) : Try State := do
  let p ← s.lspace q.va q.n q.n
  let rs := [(p, q.n)]
  holdIf s (q.waits s || s.lheld rs)
  let old := s.core.spad.num p q.n
  let new := q.new old
  trapOpt s (lowTrap (s.laccFault false 0 q.va rs) (if new.isSome then s.laccFault true 1 q.va rs else none))
  s.lwatch rs
  let s := s.lcount false rs
  let s := match new with | some v => s.store 1 (cellsAt p (toBytes q.n v)) 2 | none => s
  let s := if q.rel && new.isSome then s.noteRelease false (wordsOf p q.n) none else s
  let s := if q.acq then s.noteAcquire false (wordsOf p q.n) Option.isNone else s
  match q.res with
  | some r => .ok (s.emitX q.d 4 (BitVec.ofNat 64 (r old).1) ((r old).2 ||| q.flags))
  | none => .ok (s.emitFlags 1 q.flags)

/-- The causes of 11 R314; the journal orders them at the clock `due` of the performance or of a peer's reply (18 R439). -/
def Atom.causes (q : Atom) (s : State) (old due : Nat) : State :=
  let s := if q.op < 2 || (q.op < 10 && q.d != 0) then s.cause 0x01 (BitVec.ofNat 64 old) due else s
  if q.acq && s.boundLock q.va q.n then s.cause 0x08 (BitVec.ofNat 64 old) due else s

/-- An atomic on a global target. One without a result departs and freezes nothing (11 R310): an error response to it is
counted at the port (21 R467), and WRD into X0 sets its rounding flags when the result would land. MF of an ordered form
without a result is set at issue + 1 (DESIGN CHOICE, unsafe: notes/assumptions/83.md). -/
def atomG (s : State) (q : Atom) : Try State := do
  misaligned s q.va q.n
  holdIf s (q.waits s)
  let s ← s.gacc { r := true, w := true } [(q.va, q.n)] (tierFault s.core.fn q.va q.op)
  let pas := s.pkg.physOf s.core.fn q.va q.n
  let loc := pas.headD { tier := 0, addr := 0 }
  let lost := s.pkg.unreachable loc
  let peer := loc.tier == 2 && decide (loc.addr / 2 ^ 40 ≠ s.pkg.podn)
  let words := wordsOf loc.word q.n
  let none_ := q.res.isNone || q.d == 0
  if none_ && decide (2 ≤ q.op) && q.op != 15 then
    let s := if lost then s.portError loc
      else s.issueG (.atomic loc (BitVec.ofNat 4 q.op) q.n q.data) q.rel (if q.acq then some q.va else none)
    .ok ((q.causes s 0 (if lost then 0 else (s.str.gq.getLast?.map (·.due)).getD 0)).emitFlags 1 q.flags)
  else
    let s := s.flush
    let old := s.pkg.numPA loc q.n
    let fault := s.readFault q.va pas
    let s := match q.new old with
      | some v => if lost then s else s.onPkg fun pk => pk.perform s.core.fn (.atomic loc 0 q.n v)
      | none => s
    let s := if q.rel && (q.new old).isSome then s.noteRelease true words none else s
    let s := if q.acq then s.noteAcquire true words Option.isNone else s
    let r := match q.res with | some r => r old | none => (0, 0)
    if none_ then
      let s := if lost then s.portError loc else s
      let (d, s) := if peer then s.delay else (0, s)
      let s := q.causes s old (if peer then s.pkg.clock + d else 0)
      if q.op = 15 then
        let lat := if s.str.sec then 1 else (vget s.core.nomlat 0 0).toNat % 2 ^ 20
        .ok (s.emit .none lat (if lost then q.flags else r.2 ||| q.flags))
      else .ok (s.emitFlags 1 q.flags)
    else
      let s := s.emitG (.x q.d (BitVec.ofNat 64 r.1)) 0 fault [(q.va, q.n)] (r.2 ||| q.flags)
      .ok (q.causes s old (if peer then (s.str.pend.getLast?.map (·.arrive)).getD 0 else 0))

def atom (s : State) (q : Atom) : Try State := if q.glob then atomG s q else atomL s q

/-- Operations 0 to 9. -/
def atomWord (s : State) (op : Nat) (d a b : BitVec 5) (p w : BitVec 1) (c : BitVec 3) (o : BitVec 2) : Try State :=
  let n := if w = 1 then 8 else 4
  atom s { glob := p == 1, op := op, n := n, va := s.rx a, d := d, data := (s.rx b).toNat % 2 ^ (8 * n)
           cmp := (s.rx d).toNat % 2 ^ (8 * n), acq := o.getLsbD 0, rel := o.getLsbD 1
           flags := atomMf (p == 1) false o c, res := some fun old => (old, 0) }

/-- 11 Table 5, op 0. -/
def execAmswap (d a b : BitVec 5) (p w : BitVec 1) (c : BitVec 3) (o : BitVec 2) (s : State) : Res :=
  guarded (.amswap d a b p w c o) s (atomWord s 0 d a b p w c o)
/-- 11 Table 5, op 1. -/
def execAmcas (d a b : BitVec 5) (p w : BitVec 1) (c : BitVec 3) (o : BitVec 2) (s : State) : Res :=
  guarded (.amcas d a b p w c o) s (atomWord s 1 d a b p w c o)
/-- 11 Table 5, op 2. -/
def execAmadd (d a b : BitVec 5) (p w : BitVec 1) (c : BitVec 3) (o : BitVec 2) (s : State) : Res :=
  guarded (.amadd d a b p w c o) s (atomWord s 2 d a b p w c o)
/-- 11 Table 5, op 3. -/
def execAmand (d a b : BitVec 5) (p w : BitVec 1) (c : BitVec 3) (o : BitVec 2) (s : State) : Res :=
  guarded (.amand d a b p w c o) s (atomWord s 3 d a b p w c o)
/-- 11 Table 5, op 4. -/
def execAmor (d a b : BitVec 5) (p w : BitVec 1) (c : BitVec 3) (o : BitVec 2) (s : State) : Res :=
  guarded (.amor d a b p w c o) s (atomWord s 4 d a b p w c o)
/-- 11 Table 5, op 5. -/
def execAmxor (d a b : BitVec 5) (p w : BitVec 1) (c : BitVec 3) (o : BitVec 2) (s : State) : Res :=
  guarded (.amxor d a b p w c o) s (atomWord s 5 d a b p w c o)
/-- 11 Table 5, op 6. -/
def execAmmin (d a b : BitVec 5) (p w : BitVec 1) (c : BitVec 3) (o : BitVec 2) (s : State) : Res :=
  guarded (.ammin d a b p w c o) s (atomWord s 6 d a b p w c o)
/-- 11 Table 5, op 7. -/
def execAmmax (d a b : BitVec 5) (p w : BitVec 1) (c : BitVec 3) (o : BitVec 2) (s : State) : Res :=
  guarded (.ammax d a b p w c o) s (atomWord s 7 d a b p w c o)
/-- 11 Table 5, op 8. -/
def execAmminu (d a b : BitVec 5) (p w : BitVec 1) (c : BitVec 3) (o : BitVec 2) (s : State) : Res :=
  guarded (.amminu d a b p w c o) s (atomWord s 8 d a b p w c o)
/-- 11 Table 5, op 9. -/
def execAmmaxu (d a b : BitVec 5) (p w : BitVec 1) (c : BitVec 3) (o : BitVec 2) (s : State) : Res :=
  guarded (.ammaxu d a b p w c o) s (atomWord s 9 d a b p w c o)

/-- The exponent of the region that holds a wide cell (11 R295). -/
def State.wideExp (s : State) (glob : Bool) (va : Word) : Int :=
  let a := if glob then bits va.toNat 56 0 else va.toNat
  match s.str.binds.find? fun b => b.regionGlobal == glob &&
      (let lo := if glob then bits b.base.toNat 56 0 else b.base.toNat
       decide (lo ≤ a ∧ a + 16 ≤ lo + b.bytes.toNat)) with
  | some b => b.exp
  | none => -96

/-- The integer addend of 02 R83 and its flags. -/
def wideAddend (x : FVal) (e : Int) : Int × Flg :=
  match x with
  | .fin neg m k =>
    let r := roundInt .rne neg m (k - e)
    if 2 ^ 127 ≤ r.1.natAbs then (if neg then -(2 ^ 127 - 1) else 2 ^ 127 - 1, flSA ||| flIf r.2 flNX)
    else (r.1, flIf r.2 flNX)
  | _ => (0, flNV)

/-- Operations 10 to 14. -/
def wideAdd (s : State) (op : Nat) (a : BitVec 5) (p : BitVec 1) (c : BitVec 3) (o : BitVec 2) (t : Int × Flg) :
    Try State :=
  atom s { glob := p == 1, op := op, n := 16, va := s.rx a, d := 0, data := wrap 128 t.1, cmp := 0
           acq := o.getLsbD 0, rel := o.getLsbD 1, flags := t.2 ||| atomMf (p == 1) false o c, res := none }

def wideFloat (s : State) (op : Nat) (f : Fmt) (a b : BitVec 5) (p : BitVec 1) (c : BitVec 3) (o : BitVec 2) :
    Try State :=
  wideAdd s op a p c o (wideAddend (fdecode f ((s.rx b).toNat % 2 ^ f.width)) (s.wideExp (p == 1) (s.rx a)))

/-- 11 Table 5, op 10. -/
def execWaddF64 (a b : BitVec 5) (p : BitVec 1) (c : BitVec 3) (o : BitVec 2) (s : State) : Res :=
  guarded (.waddF64 a b p c o) s (wideFloat s 10 F64 a b p c o)
/-- 11 Table 5, op 11. -/
def execWaddF32 (a b : BitVec 5) (p : BitVec 1) (c : BitVec 3) (o : BitVec 2) (s : State) : Res :=
  guarded (.waddF32 a b p c o) s (wideFloat s 11 F32 a b p c o)
/-- 11 Table 5, op 12. -/
def execWaddF16 (a b : BitVec 5) (p : BitVec 1) (c : BitVec 3) (o : BitVec 2) (s : State) : Res :=
  guarded (.waddF16 a b p c o) s (wideFloat s 12 F16 a b p c o)
/-- 11 Table 5, op 13. -/
def execWaddBf16 (a b : BitVec 5) (p : BitVec 1) (c : BitVec 3) (o : BitVec 2) (s : State) : Res :=
  guarded (.waddBf16 a b p c o) s (wideFloat s 13 BF16 a b p c o)
/-- 11 Table 5, op 14. -/
def execWaddI64 (a b : BitVec 5) (p : BitVec 1) (c : BitVec 3) (o : BitVec 2) (s : State) : Res :=
  guarded (.waddI64 a b p c o) s (wideAdd s 14 a p c o ((s.rx b).toInt, 0))

/-- 11 Table 5, op 15; 02 R85: W selects binary32 or binary64. -/
def execWrd (d a : BitVec 5) (p w : BitVec 1) (c : BitVec 3) (o : BitVec 2) (s : State) : Res :=
  guarded (.wrd d a p w c o) s <|
    let f := if w = 1 then F64 else F32
    let e := s.wideExp (p == 1) (s.rx a)
    let value (old : Nat) : Nat × Flg :=
      let n := toSigned 128 old
      fround f s.rnd false (decide (n < 0)) n.natAbs e
    atom s { glob := p == 1, op := 15, n := 16, va := s.rx a, d := d, data := 0, cmp := 0, acq := o.getLsbD 0
             rel := false, flags := atomMf (p == 1) true o c, res := some value }

/-- An atomic that departed executes at its target (11 R309): the oldest queued effect of the stream, if it is one. -/
def execAtomicExecution (s : State) : Res :=
  match s.str.gq with
  | o :: _ => match o.eff with
    | .atomic _ _ _ _ => .next (s.performN 1)
    | _ => .next s
  | [] => .next s

/-- The oldest queued write of the stream is performed (11 R293). -/
def execGlobalWritePerformed (s : State) : Res :=
  .next (s.performN 1)

end Sys2Proof.Machine
end

