-- ==== Sys2Proof/Machine/Sync.lean ====
section
/-! DEFINITION. Synchronisation, major 11 (11 R315 to R321): FENCE, bindings, seals, and barrier objects. -/
namespace Sys2Proof.Machine

/-- MF of a SYNC form (03 Table 6): LANE becomes CORE, a wide scope of an L-space target QUAD. -/
def syncMf (lspace : Bool) (c : BitVec 3) : Flg := flIf (c == 0 || lspace && decide (3 ≤ c.toNat)) flMF

/-- 11 R316. -/
def execFence (c : BitVec 3) (s : State) : Res :=
  guarded (.fence c) s do
    holdIf s s.unperformed
    .ok (s.emitFlags 1 (syncMf false c))

/-! ### Bindings -/

/-- A binding record read from its 256 bits (11 Table 1). -/
def bindingOf (r : Nat) : Binding :=
  { slot := bits r 3 0, kind := BitVec.ofNat 3 (bits r 18 16), regionGlobal := bits r 19 19 = 1
    objGlobal := bits r 20 20 = 1, scope := BitVec.ofNat 3 (bits r 23 21), exp := toSigned 12 (bits r 47 36)
    base := BitVec.ofNat 64 (bits r 127 64), bytes := BitVec.ofNat 64 (bits r 191 128)
    obj := BitVec.ofNat 64 (bits r 255 192) }

/-- The fields of a record (11 Tables 1 and 2), but for the placement of OBJ. -/
def bindingLegal (r : Nat) : Bool :=
  let b := bindingOf r
  decide (bits r 15 4 = 0 ∧ bits r 35 24 = 0 ∧ bits r 63 48 = 0 ∧ -1152 ≤ b.exp ∧ b.exp ≤ 1023 ∧ b.kind.toNat < 4 ∧
    1 ≤ b.bytes.toNat ∧ b.bytes.toNat ≤ 2 ^ 57) &&
  (if b.kind = 2 then decide (1 ≤ b.scope.toNat ∧ b.scope.toNat ≤ 5) else b.scope == 0) &&
  (decide (b.kind.toNat < 2) || b.obj == 0)

/-- Bytes and alignment of an object of KIND 0 or 1. -/
def Binding.objSize (b : Binding) : Nat := if b.kind = 0 then 8 else 32

/-- Broken placement of an object (11 R317). -/
def State.objMisplaced (s : State) (pk : Package) (b : Binding) : Bool :=
  if 2 ≤ b.kind.toNat then false
  else if b.obj.toNat % b.objSize ≠ 0 then true
  else if b.objGlobal then match pk.translate s.core.fn b.obj with
    | .ok e => leafTier e.leaf != 0
    | .error _ => false
  else !s.core.inBounds s.str.spb b.obj b.objSize

def Binding.lo (b : Binding) : Nat := if b.regionGlobal then bits b.base.toNat 56 0 else b.base.toNat
def Binding.overlaps (a b : Binding) : Bool :=
  a.regionGlobal == b.regionGlobal && overlap a.lo a.bytes.toNat b.lo b.bytes.toNat

def distinct {α : Type} [BEq α] : List α → Bool
  | [] => true
  | x :: xs => !xs.contains x && distinct xs

def noOverlap : List Binding → Bool
  | [] => true
  | b :: bs => bs.all (fun c => !b.overlaps c) && noOverlap bs

/-- The fault of a list of records (11 R317). -/
def State.bindFault (s : State) (pk : Package) (recs : List Nat) : Option Trap :=
  let news := recs.map bindingOf
  let kept := s.str.binds.filter fun b => !news.any (·.slot == b.slot)
  if !recs.all bindingLegal || news.any (s.objMisplaced pk) || !distinct (news.map (·.slot)) then
    some { code := 0x0E, sub := 0x45 }
  else if !noOverlap news || news.any (fun b => kept.any b.overlaps) then some { code := 0x0E, sub := 0x46 }
  else none

/-- The record array of a BIND (11 R317): its bytes, its pool range, and a fault of the read that ranks after those of the
records. A count above 16 ranks after the faults of xa (03 R99). -/
def State.bindRead (s : State) (glob : Bool) (la : Word) (n : Nat) (count : Option Trap) :
    Try (State × List Byte × List (Nat × Nat) × Option Trap) :=
  if glob then do
    holdIf s (s.acquiring true [(bits la.toNat 56 0, n)])
    let s ← s.gcheckFn s.core.fn { r := true } [(la, n)] fun _ => count
    trapOpt s (s.readFault la (s.pkg.physOf s.core.fn la n))
    .ok (s, s.gbytes la n, [], none)
  else do
    let q ← s.lspace la n 32
    trapOpt s count
    holdIf s (s.lheld [(q, n)])
    if (s.core.poisonUnder [(q, n)]).isSome then trapOpt s (s.laccFault false 0 la [(q, n)])
    .ok (s, s.core.spad.readN q n, [(q, n)], s.early false 0 la [(q, n)])

/-- 11 R317. Objects are translated with R and W; BIND writes none of them. -/
def execBind (a b : BitVec 5) (p : BitVec 1) (s : State) : Res :=
  finish do
    let la := s.rx a
    let n := (s.rx b).toNat
    let m := min n 16
    let count : Option Trap := if n = 0 ∨ 16 < n then some { code := 0x0E, sub := 0x45 } else none
    trapWith s (decide (la.toNat % 32 ≠ 0)) { code := 0x05, va := la }
    if n = 0 then trapOpt s count
    let (s, bs, rs, late) ← s.bindRead (p == 1) la (32 * m) count
    let recs := els 256 m (ofBytes bs)
    let news := recs.map bindingOf
    let objs := (news.filter fun b => decide (b.kind.toNat < 2) && b.objGlobal).map fun b => (b.obj, b.objSize)
    let s ← s.gcheckFn s.core.fn { r := true, w := true, plain := true } objs fun pk => lowTrap (s.bindFault pk recs) late
    if p = 1 then s.gwatch [(la, 32 * m)] else s.lwatch rs
    let s := if p = 1 then s.gcounted { r := true } [(la, 32 * m)] else s.lcount false rs
    .ok (s.emit (.binds 0 news) 1)

/-- 11 R317. -/
def execUnbind (a : BitVec 5) (s : State) : Res :=
  finish do
    trapIf s (decide (2 ^ 16 ≤ (s.rx a).toNat)) 0x0E 0x46
    .ok (s.emit (.binds ((s.rx a).setWidth 16) []) 1)

/-! ### Seals -/

/-- 11 R318: alignment, then translation and permission, then the tier. -/
def sealChecks (s : State) (a n : Word) (extra : Package → Option Trap) : Try State := do
  trapWith s (decide (a.toNat % 65536 ≠ 0 ∨ n.toNat % 65536 ≠ 0 ∨ n = 0)) { code := 0x05, va := a }
  s.gcheckFn s.core.fn { w := true, plain := true } [(a, n.toNat)] fun pk =>
    lowTrap ((pageParts a n.toNat).foldl (fun t p => lowTrap t (match pk.translate s.core.fn p.1 with
      | .ok e => if leafTier e.leaf = 0 then none else some { code := 0x0E, sub := 0x41, va := p.1 }
      | .error _ => none)) none) (extra pk)

/-- The seal range of a function that begins at `base`. -/
def FnState.sealAt (f : FnState) (base : Nat) : Option SealRange := f.seals.find? (·.base == base)

/-- 11 R305, R318: the range is taken, and the stream held until the seal is complete. -/
def execSealRange (a b : BitVec 5) (s : State) : Res :=
  finish <|
    let fn := s.core.fn
    let base := bits (s.rx a).toNat 56 0
    let n := (s.rx b).toNat
    match s.str.sealing with
    | some _ =>
      match (s.pkg.fnOf fn).sealAt base with
      | some r => do
        holdIf s (r.st == .taking)
        .ok (s.onStr fun t => { t with sealing := none })
      | none => .ok (s.onStr fun t => { t with sealing := none })
    | none => do
      let s ← sealChecks s (s.rx a) (s.rx b) fun pk =>
        let seals := (pk.fnOf fn).seals
        if 256 ≤ seals.length then some { code := 0x0E, sub := 0x43, va := s.rx a }
        else if seals.any fun r => overlap base n r.base r.bytes then some { code := 0x0E, sub := 0x44, va := s.rx a }
        else none
      holdIf s s.unperformed
      let s := s.onPkg fun pk => pk.onFn fn fun f => { f with seals := f.seals ++ [⟨base, n, .taking⟩] }
      .error (.hold (s.onStr fun t => { t with sealing := some (s.rx a) }))

/-- 11 R307, R318. -/
def execUnsealRange (a b : BitVec 5) (s : State) : Res :=
  finish <|
    let fn := s.core.fn
    let base := bits (s.rx a).toNat 56 0
    let n := (s.rx b).toNat
    match s.str.sealing with
    | some _ => do
      holdIf s ((s.pkg.fnOf fn).sealAt base).isSome
      .ok (s.onStr fun t => { t with sealing := none })
    | none => do
      let s ← sealChecks s (s.rx a) (s.rx b) fun pk =>
        if (pk.fnOf fn).seals.any fun r => r.base == base && r.bytes == n && r.st == .sealed then none
        else some { code := 0x0E, sub := 0x44, va := s.rx a }
      let s := s.onPkg fun pk => pk.onFn fn fun f =>
        { f with seals := f.seals.map fun r => if r.base = base then { r with st := .leaving } else r }
      .error (.hold (s.onStr fun t => { t with sealing := some (s.rx a) }))

/-- Every queued effect of a function's streams is performed; the focus stays on its stream. -/
def State.performFn (s : State) (fn : Nat) : State :=
  let t := (s.ctxs.foldl (fun s c => if c.core.fn = fn then (s.focus c.core.id).flush.swap.flush else s) s).focus s.core.id
  if s.str.sec then t.swap else t

/-- A migration in progress writes a page of a range of the function's space (15 R408). -/
def Package.migrating (pk : Package) (fn base bytes : Nat) : Bool :=
  pk.migrations.any fun m => m.fn == fn && (overlap m.a.base m.a.size base bytes || overlap m.b.base m.b.size base bytes)

/-- A SEAL completes: the writes translated before it are performed, those of migrations among them, and no cached
translation allows a write (11 R305). -/
def execSealCompletion (fn : BitVec 5) (base : BitVec 64) (s : State) : Res :=
  let b := bits base.toNat 56 0
  match (s.pkg.fnOf fn.toNat).sealAt b with
  | some r =>
    if r.st = .taking && !s.pkg.migrating fn.toNat r.base r.bytes then
      .next ((s.performFn fn.toNat).onPkg fun pk =>
        { (pk.onFn fn.toNat fun f =>
            { f with seals := f.seals.map fun q => if q.base = b then { q with st := .sealed } else q }) with
          tlb := pk.tlb.filter fun e => !(e.fn == fn.toNat && overlap e.base e.size r.base r.bytes) })
    else .next s
  | none => .next s

/-- An UNSEAL completes: the range leaves the table (11 R307). -/
def execUnsealCompletion (fn : BitVec 5) (base : BitVec 64) (s : State) : Res :=
  .next (s.onPkg fun pk => pk.onFn fn.toNat fun f =>
    { f with seals := f.seals.filter fun r => !(r.base == bits base.toNat 56 0 && r.st == .leaving) })

/-! ### Barrier objects -/

/-- An object of a space and tier that may not hold one (11 R319). -/
def objTier (fn : Nat) (va : Word) (pk : Package) : Option Trap :=
  match pk.translate fn va with
  | .ok e => if leafTier e.leaf = 0 then none else some { code := 0x0E, sub := 0x41, va := va }
  | .error _ => none

/-- 11 R319: an object in global space, checked; `more` holds the form's own later faults. -/
def objGlobal (s : State) (va : Word) (need : Need) (more : Option Trap := none) : Try State := do
  misaligned s va 32
  s.gacc need [(va, 32)] fun pk => lowTrap (objTier s.core.fn va pk) more

/-- 11 R319: BINIT writes the whole object. -/
def execBinit (c a b : BitVec 5) (p : BitVec 1) (s : State) : Res :=
  finish do
    let va := s.rx a
    let bad : Option Trap := if bits (s.rx b).toNat 31 0 = 0 ∨ bits (s.rx b).toNat 63 32 ≠ 0 then
        some { code := 0x0E, sub := 0x42 } else none
    let obj := toBytes 32 ((s.rx c).toNat + (s.rx b).toNat % 2 ^ 32 * 2 ^ 128)
    if p = 1 then
      let s ← objGlobal s va { r := true, w := true } bad
      .ok (s.gstore [(va, obj)])
    else
      let q ← s.lspace va 32 32
      match bad with
      | some t => .error (.trap s t)
      | none => do
        let s ← s.lacc true 1 va [(q, 32)]
        .ok (s.store 1 (cellsAt q obj) 2)

def objGen (o : Nat) : Nat := bits o 255 224

/-- 11 R320: the update, a release; the generation joined goes to xd. -/
def execArrb (d a : BitVec 5) (p : BitVec 1) (c : BitVec 3) (s : State) : Res :=
  guarded (.arrb d a p c) s do
    let va := s.rx a
    if p = 1 then
      misaligned s va 32
      holdIf s s.unperformed
      let s ← objGlobal s va { r := true, w := true }
      let loc := (s.pkg.physOf s.core.fn va 32).headD { tier := 0, addr := 0 }
      let s := s.flush
      let gen := objGen (s.pkg.numPA loc 32)
      let fault := s.readFault va (s.pkg.physOf s.core.fn va 32)
      let s := (s.onPkg fun pk => pk.perform s.core.fn (.update loc 0 1)).noteRelease true [loc.word] (some gen)
      if d = 0 then .ok (s.emitFlags 1 (syncMf false c))
      else .ok (s.emitG (.x d (BitVec.ofNat 64 gen)) 0 fault [(va, 32)] (syncMf false c))
    else
      let q ← s.lspace va 32 32
      holdIf s (s.unperformed || s.lheld [(q, 32)])
      trapOpt s (lowTrap (s.laccFault false 0 va [(q, 32)]) (s.laccFault true 1 va [(q, 32)]))
      s.lwatch [(q, 32)]
      let s := s.lcount false [(q, 32)]
      let o := s.core.spad.num q 32
      let s := (s.store 1 (cellsAt q (toBytes 32 (objUpdate o 0 1))) 2).noteRelease false [q] (some (objGen o))
      .ok (s.emitX d 4 (BitVec.ofNat 64 (objGen o)) (syncMf true c))

/-- Whether generation `g` of an object has not completed (11 R321). -/
def genOpen (gen g : Nat) : Bool :=
  let k := (gen + 2 ^ 32 - g) % 2 ^ 32
  decide (k = 0 ∨ 2 ^ 31 ≤ k)

/-- 11 R321: WAITPH acquires the generations from `g` to the one before the object's. -/
def execWaitph (a b : BitVec 5) (p : BitVec 1) (c : BitVec 3) (s : State) : Res :=
  guarded (.waitph a b p c) s do
    let va := s.rx a
    let g := (s.rx b).toNat % 2 ^ 32
    let sees (gen : Nat) (r : Option Nat) : Bool := match r with
      | some j => decide ((j + 2 ^ 32 - g) % 2 ^ 32 < (gen + 2 ^ 32 - g) % 2 ^ 32)
      | none => false
    if p = 1 then
      misaligned s va 32
      holdIf s s.unacquired
      let s ← s.gcheckFn s.core.fn { r := true } [(va, 32)] (objTier s.core.fn va)
      trapOpt s (s.readFault va (s.pkg.physOf s.core.fn va 32))
      let o := ofBytes (s.gbytes va 32)
      trapWith s (decide (bits o 193 193 = 1)) { code := 0x0E, sub := 0x40 }
      holdIf s (genOpen (objGen o) g)
      let s ← objGlobal s va { r := true }
      let loc := (s.pkg.physOf s.core.fn va 32).headD { tier := 0, addr := 0 }
      .ok ((s.noteAcquire true [loc.word] (sees (objGen o))).emitFlags 1 (syncMf false c))
    else
      let q ← s.lspace va 32 32
      holdIf s (s.unacquired || s.lheld [(q, 32)])
      if (s.core.poisonUnder [(q, 32)]).isSome then trapOpt s (s.laccFault false 0 va [(q, 32)])
      let o := s.core.spad.num q 32
      trapWith s (decide (bits o 193 193 = 1)) { code := 0x0E, sub := 0x40 }
      holdIf s (genOpen (objGen o) g)
      let s ← s.lacc false 0 va [(q, 32)]
      .ok ((s.noteAcquire false [q] (sees (objGen o))).emitFlags 1 (syncMf true c))

/-- An update by an engine or a port (11 R302): at a pool address of the core in focus, or a virtual address. -/
def execBarrierObjectUpdate (sp : BitVec 1) (addr bytes : BitVec 64) (arr : BitVec 1) (s : State) : Res :=
  if sp = 1 then
    match s.pkg.physOf s.core.fn addr 32 with
    | loc :: _ => .next (s.onPkg fun pk => pk.perform s.core.fn (.update loc bytes.toNat arr.toNat))
    | [] => .next s
  else .next (s.onCore fun k => k.objPut addr.toNat (objUpdate (k.objNum addr.toNat) bytes.toNat arr.toNat))

/-- Where an object in the function's space is served. -/
def State.objAt (s : State) (fn : Nat) (va : Word) : Option PAddr := (s.pkg.physOf fn va 32).head?

/-- The update that a copy or a collective makes of its object. -/
def State.updateRef (s : State) (fn : Nat) (o : ObjRef) (bytes arr : Nat) : State :=
  match o with
  | .pool a => s.onCore fun k => k.objPut a (objUpdate (k.objNum a) bytes arr)
  | .glob va => match s.objAt fn va with
    | some p => s.onPkg fun pk => pk.perform fn (.update p bytes arr)
    | none => s
  | .fixed _ loc => s.onPkg fun pk => pk.performOp fn { eff := .update loc bytes arr, due := 0 }

/-- An update that a copy in progress counts into an object on a page of the range is outstanding: the page was translated
when the copy issued (10 R271; 14 R375). -/
def State.objOutstanding (s : State) (fn base size : Nat) : Bool :=
  s.ctxs.any fun c => c.core.fn == fn && c.core.copies.any fun x => match x.cnt with
    | some (.fixed va _) => overlap (bits va.toNat 56 0) 32 base size
    | _ => false

end Sys2Proof.Machine
end

