-- ==== Sys2Proof/Machine/Mem2.lean ====
section
/-! DEFINITION. Lock-and-key tags, major 28 (10 R276 to R279, R290), and the probe cache, major 27 with cfn 0 to 4
(10 R285 to R289). -/
namespace Sys2Proof.Machine

/-! ### Tags -/

/-- Bytes and their granules' keys of a checked range in device memory. -/
def State.granules (s : State) (va : Word) (n : Nat) : List Nat :=
  ((s.pkg.physOf s.core.fn va n).map fun p => p.addr / 32).eraseDups

/-- A retag journal entry (10 R279, Table 7). -/
def retagEntry (s : State) (va : Word) (n : Nat) (zero : Bool) (old new : BitVec 4) (seq : Nat) : Nat :=
  old.toNat + new.toNat * 2 ^ 4 + (if zero then 2 ^ 38 else 0) + (if s.str.sec then 2 ^ 39 else 0) +
    s.core.id * 2 ^ 40 + s.str.lcc.toNat * 2 ^ 48 + n * 2 ^ 96 + bits va.toNat 56 0 * 2 ^ 135 + seq * 2 ^ 192

/-- TAGSET and TAGSETZ (10 R290): the keys, and the bytes, change at issue. (DEDUCED, unsafe: notes/assumptions/28.md.) -/
def retag (s : State) (a b : BitVec 5) (zero : Bool) : Res :=
  finish do
    let va := s.rx a
    let n := (s.rx b).toNat
    trapWith s (decide (va.toNat % 32 ≠ 0 ∨ n % 32 ≠ 0 ∨ n = 0 ∨ 2 ^ 20 < n)) { code := 0x05, va := va }
    holdIf s (s.acquiring true [(bits va.toNat 56 0, n)])
    let s ← s.gcheck { w := true, tagOp := true } [(va, n)]
    let s := ((s.gcount [(va, n)]).track true (s.pkg.physOf s.core.fn va n)).flush
    let fn := s.core.fn
    let new := va.extractLsb' 60 4
    let gs := s.granules va n
    let f := s.pkg.fnOf fn
    let e := retagEntry s va n zero (sget 0 s.pkg.keys (gs.headD 0)) new f.retagSeq
    .ok (s.onPkg fun pk =>
      let pk := pk.perform fn (.keys (gs.map fun g => (g, new)))
      let pk := if zero then pk.perform fn (.bytes ((pk.physOf fn va n).map fun p => (p, 0))) else pk
      match if f.retag = 0 then none else
          pk.fnWrite fn (f.retag + BitVec.ofNat 64 (32 * (f.retagSeq % 4096))) (toBytes 32 e) with
      | some pk => pk.onFn fn fun f => { f with retagSeq := f.retagSeq + 1 }
      | none => pk)

/-- 10 Table 10, cfn 0. -/
def execTagset (a b : BitVec 5) (s : State) : Res := retag s a b false
/-- 10 Table 10, cfn 1. -/
def execTagsetz (a b : BitVec 5) (s : State) : Res := retag s a b true

/-- 10 Table 10, cfn 2. -/
def execTagget (a d : BitVec 5) (s : State) : Res :=
  finish do
    let va := s.rx a
    let s ← s.gcheck { r := true, tagOp := true } [(va, 1)]
    let ps := s.pkg.physOf s.core.fn va 1
    let s := (s.gcount [(va, 1)]).track false ps
    .ok (s.emitX d 4 ((s.view.keyAt (match ps with | p :: _ => p.addr | [] => 0)).setWidth 64))

/-! ### The probe cache -/

def Probe.sets (p : Probe) : Nat := p.nslot / p.ways
def Probe.way (p : Probe) (i : Nat) : Way := p.tab.getD i {}
/-- Slots of the set of a block. -/
def Probe.slots (p : Probe) (b : Nat) : List Nat := (List.range p.ways).map fun w => b % p.sets * p.ways + w
/-- The slot that holds a block. -/
def Probe.find (p : Probe) (b : Nat) : Option Nat := (p.slots b).find? fun i => (p.way i).block == some b
/-- The slot that a miss takes: the lowest invalid way, else the least recently named (10 R287). -/
def Probe.victim (p : Probe) (b : Nat) : Nat :=
  match (p.slots b).find? fun i => (p.way i).block.isNone with
  | some i => i
  | none => ((p.slots b).foldl (fun (m : Option Nat) i => match m with
      | none => some i
      | some j => if (p.way i).used < (p.way j).used then some i else some j) none).getD 0
def Probe.set (p : Probe) (i : Nat) (w : Way) : Probe := { p with tab := p.tab.set i w }
def Probe.filling (p : Probe) : Bool := p.tab.any fun w => w.fill.isSome

/-- 10 R286. (DEDUCED, unsafe: notes/assumptions/16.md.) -/
def execPcfg (a b : BitVec 5) (s : State) : Res :=
  finish do
    let la := s.rx a
    let w := (s.rx b).toNat
    let n := bits w 12 0
    let ways := 2 ^ bits w 17 16
    trapWith s (!s.core.inBounds s.str.spb la (256 * n)) { code := 0x06, va := la }
    trapIf s (decide (bits w 15 13 ≠ 0 ∨ bits w 63 18 ≠ 0 ∨ n = 0 ∨ 4096 < n ∨ n % ways ≠ 0 ∨ la.toNat % 256 ≠ 0)) 0x0E 0x30
    holdIf s s.core.probe.filling
    .ok (s.onCore fun k => { k with probe := { region := la.toNat, pool := poolAddr s.str.spb la, nslot := n
                                               ways := ways, tab := List.replicate n {}, stamp := 0 } })

def probeReady (s : State) : Try Unit := trapIf s (s.core.probe.nslot == 0) 0x0E 0x31

/-- The register results of PROBE and PLOOK at issue + 2. -/
def probeResult (s : State) (d : BitVec 5) (p : BitVec 4) (v : Word) (miss : Bool) : State :=
  (s.emitX d 2 v).emitP p 2 miss

/-- 10 R287. The bytes of the fill are read at issue; it lands when its reply arrives. -/
def execProbe (d b : BitVec 5) (p : BitVec 4) (s : State) : Res :=
  finish do
    probeReady s
    let pr := s.core.probe
    let x := s.rx b
    let blk := bits x.toNat 56 8
    let at_ (i : Nat) : Word := BitVec.ofNat 64 (pr.region + 256 * i)
    let stamp := pr.stamp + 1
    match pr.find blk with
    | some i =>
      let w := pr.way i
      let s := if w.bySec != s.str.sec then s.cause 0x06 else s
      let s := s.onCore fun k => { k with probe := { (k.probe.set i { w with used := stamp }) with stamp := stamp } }
      .ok (probeResult s d p (at_ i) false)
    | none =>
      let i := pr.victim blk
      holdIf s ((pr.way i).fill.isSome || s.core.mustWait [(pr.pool + 256 * i, 256)])
      let va := x >>> 8 <<< 8
      holdIf s (s.acquiring true [(bits va.toNat 56 0, 256)])
      let s ← s.gcheck { r := true } [(va, 256)]
      match s.readFault va (s.pkg.physOf s.core.fn va 256) with
      | some t => .error (.trap s t)
      | none =>
        let s := (s.gcounted { r := true } [(va, 256)]).gloadCause [(va, 256)]
        let bs := s.gbytes va 256
        let (dl, s) := s.delay
        let w : Way := { block := some blk, used := stamp, bySec := s.str.sec, fill := some (s.pkg.clock + dl, bs),
                         keys := s.pageKeys [(va, 256)] }
        let s := s.onCore fun k => { k with probe := { (k.probe.set i w) with stamp := stamp } }
        .ok (probeResult s d p (at_ i) true)

/-- 10 R289. -/
def execPlook (d b : BitVec 5) (p : BitVec 4) (s : State) : Res :=
  finish do
    probeReady s
    let pr := s.core.probe
    match pr.find (bits (s.rx b).toNat 56 8) with
    | some i => .ok (probeResult s d p (BitVec.ofNat 64 (pr.region + 256 * i)) false)
    | none => .ok (probeResult s d p (BitVec.allOnes 64) true)

/-- 10 R289: waits for the fill of the block's way, then invalidates it. -/
def execPinv (b : BitVec 5) (s : State) : Res :=
  finish do
    let pr := s.core.probe
    if pr.nslot = 0 then .ok s
    else match pr.find (bits (s.rx b).toNat 56 8) with
    | some i => do
      holdIf s (pr.way i).fill.isSome
      .ok (s.onCore fun k => { k with probe := k.probe.set i { (pr.way i) with block := none } })
    | none => .ok s

/-- 10 R289. -/
def execPinva (s : State) : Res :=
  finish do
    holdIf s s.core.probe.filling
    .ok (s.onCore fun k => { k with probe := { k.probe with tab := k.probe.tab.map fun w => { w with block := none } } })

/-- Marks the rows that the secondary stream wrote (08 R218). -/
def Core.mark (k : Core) (sec : Bool) (rows : List Nat) : Core :=
  if sec then { k with marks := (k.marks ++ rows).eraseDups } else k

/-- Pool granules wholly written lose their poison (18 R430). -/
def Core.cleanse (k : Core) (cells : List Host.Cell) : Core :=
  if k.poison.isEmpty then k
  else { k with poison := k.poison.filter fun p => !(List.range 32).all fun i => cells.any fun c => c.1 == p + i }

/-- Bytes written to the pool. -/
def Core.poolWrite (k : Core) (cells : List Host.Cell) : Core :=
  ({ k with spad := k.spad.writeCells cells }).cleanse cells

/-- A fill lands: its bytes are applied as one store effect (10 R287); one that has lost its key has none (22 R500). -/
def execProbeFillLanding (slot : Nat) (s : State) : Res :=
  let w := s.core.probe.way slot
  match w.fill with
  | none => .next s
  | some f =>
    let a := s.core.probe.pool + 256 * slot
    .next (s.onCore fun k =>
      (({ k with probe := k.probe.set slot { w with fill := none, keys := [] } }).poolWrite (cellsAt a f.2)).mark w.bySec
        (if f.2.isEmpty then [] else rowsOf a 256))

end Sys2Proof.Machine
end

