-- ==== Sys2Proof/Machine/Summ.lean ====
section
/-! DEFINITION. Summaries, major 19 (06 R171 to R197): layouts and their checks, the procedures of the three kinds,
the chain, and the instructions. -/
namespace Sys2Proof.Machine

/-! ### Quantile sketches -/

/-- Total order of binary32 codes as a key (06 R174). -/
def f32Key (x : Nat) : Nat := if x < 2 ^ 31 then x + 2 ^ 31 else 2 ^ 32 - 1 - x
def f32NaN (x : Nat) : Bool := (fdecode F32 x).isNaN

/-- Whether x lies below y; a NaN pattern in a header bound has no place in the order. -/
def f32Below (x y : Nat) : Bool := if f32NaN x || f32NaN y then Config.nanBound x y else decide (f32Key x < f32Key y)
def f32Sort (xs : List Nat) : List Nat := sortBy (fun a b => decide (f32Key a ≤ f32Key b)) xs

/-- A sketch's working copy: its levels hold binary32 codes. -/
structure Sketch where
  base : Nat
  nan : Nat
  count : Nat
  mn : Nat
  mx : Nat
  ccnt : Nat
  seed : Nat
  lv : List (List Nat)
  fl : Flg := 0

/-- 06 R172, R173, Table 1: the sketch in 2,048 bytes (as a number), or the sub-code of its fault. -/
def Sketch.parse (b : Nat) : Except (BitVec 16) Sketch :=
  let occ := (List.range 8).map fun l => el b 8 (40 + l)
  let lv := (List.range 8).map fun l => els 32 (el b 8 (40 + l)) (b / 2 ^ (8 * (256 + 224 * l)))
  if bits b 7 0 ≠ 1 then .error 0x20
  else if bits b 2047 384 ≠ 0 ∨ bits b 31 16 ≠ 0 ∨ 63 < bits b 15 8 ∨ occ.any (55 < ·) then .error 0x21
  else if lv.any (·.any f32NaN) then .error 0x22
  else .ok { base := bits b 15 8, nan := bits b 63 32, count := bits b 127 64, mn := bits b 159 128
             mx := bits b 191 160, ccnt := bits b 255 192, seed := bits b 319 256, lv := lv }

/-- Bits of a level as stored: ascending, the rest of its 56 slots 0 (06 R174). -/
def Sketch.bytes (q : Sketch) : List Byte :=
  toBytes 256 (1 + q.base * 2 ^ 8 + q.nan % 2 ^ 32 * 2 ^ 32 + q.count % 2 ^ 64 * 2 ^ 64 + q.mn * 2 ^ 128 +
    q.mx * 2 ^ 160 + q.ccnt % 2 ^ 64 * 2 ^ 192 + q.seed * 2 ^ 256 + ofEls 8 (q.lv.map List.length) * 2 ^ 320) ++
  q.lv.flatMap fun l => toBytes 224 (ofEls 32 (f32Sort l))

/-- Half of the sorted items, the even or the odd places by a coin, and the coin consumed (06 R184). -/
def Sketch.halve (q : Sketch) (items : List Nat) : List Nat × Sketch :=
  let c := coin (BitVec.ofNat 64 q.seed) (BitVec.ofNat 64 q.ccnt)
  (if c.getLsbD 63 then odds (f32Sort items) else evens (f32Sort items), { q with ccnt := (q.ccnt + 1) % 2 ^ 64 })

def Sketch.compact (q : Sketch) (l : Nat) : Sketch :=
  let h := q.halve (q.lv.getD l [])
  { h.2 with lv := (h.2.lv.set (l + 1) (h.2.lv.getD (l + 1) [] ++ h.1)).set l [] }

def Sketch.rebase (q : Sketch) : Sketch :=
  if q.base = 63 then
    let h := q.halve (q.lv.getD 7 [])
    { h.2 with lv := h.2.lv.set 7 h.1, fl := h.2.fl ||| flSA }
  else
    let q := if (q.lv.getD 0 []).isEmpty then q else q.compact 0
    { q with lv := q.lv.tail ++ [[]], base := q.base + 1 }

/-- settle() of 06 R184; the fuel exceeds the passes that the items of two sketches can take. -/
def Sketch.settleGo : Nat → Nat → Sketch → Sketch
  | 0, _, q => q
  | k + 1, l, q =>
    if 7 < l then q
    else if (q.lv.getD l []).length < 56 then Sketch.settleGo k (l + 1) q
    else if l < 7 then Sketch.settleGo k (l + 1) (q.compact l)
    else Sketch.settleGo k 0 q.rebase

def Sketch.settle (q : Sketch) : Sketch := Sketch.settleGo 4096 0 q

/-- One value of QSADD (06 R185), a binary32 code. -/
def Sketch.insert (q : Sketch) (x : Nat) : Sketch :=
  if f32NaN x then { q with nan := (q.nan + 1) % 2 ^ 32, fl := q.fl ||| flNV }
  else
    let q := { q with mn := if f32Below x q.mn then x else q.mn, mx := if f32Below q.mx x then x else q.mx }
    let c := coin (BitVec.ofNat 64 q.seed ^^^ 0x5A5A5A5A5A5A5A5A) (BitVec.ofNat 64 q.count)
    let q := if q.base = 0 ∨ c.toNat % 2 ^ q.base = 0 then
        { q with lv := q.lv.set 0 (q.lv.getD 0 [] ++ [x]) }.settle else q
    { q with count := (q.count + 1) % 2 ^ 64 }

def Sketch.rebaseTo : Nat → Nat → Sketch → Sketch
  | 0, _, q => q
  | k + 1, b, q => if q.base < b then Sketch.rebaseTo k b q.rebase else q

/-- 06 R186: every coin comes from the destination's SEED and CCNT. -/
def Sketch.merge (d s : Sketch) : Sketch :=
  let s1 := Sketch.rebaseTo 64 d.base { s with seed := d.seed, ccnt := d.ccnt }
  let d1 := Sketch.rebaseTo 64 s1.base { d with ccnt := s1.ccnt, fl := d.fl ||| s1.fl }
  { d1 with lv := List.zipWith (· ++ ·) d1.lv s1.lv, count := (d.count + s.count) % 2 ^ 64
            nan := (d.nan + s.nan) % 2 ^ 32, mn := if f32Below s.mn d.mn then s.mn else d.mn
            mx := if f32Below d.mx s.mx then s.mx else d.mx }.settle

/-- First item whose running weight reaches t. -/
def rankOf (t : Nat) : Nat → List (Nat × Nat) → Nat
  | _, [] => 0
  | acc, (x, w) :: rest => if t ≤ acc + w then x else rankOf t (acc + w) rest

/-- 06 R187: the quantile of a binary32 code q. -/
def Sketch.quantile (s : Sketch) (q : Nat) : Nat × Flg :=
  let items := ((s.lv.zipIdx).flatMap fun l => l.1.map fun x => (x, 2 ^ (s.base + l.2)))
  match fdecode F32 q with
  | .fin neg m e =>
    if s.count = 0 ∨ (neg ∧ m ≠ 0) ∨ 0 < fcmpV (.fin neg m e) (.fin false 1 0) then (F32.nan, flNV)
    else if m = 0 then (s.mn, 0)
    else if fcmpV (.fin neg m e) (.fin false 1 0) = 0 then (s.mx, 0)
    else if items.isEmpty then (F32.nan, flNV)
    else
      let w := items.foldl (fun n x => n + x.2) 0
      let k := (-e).toNat
      let t := (m * w + 2 ^ k - 1) / 2 ^ k
      (rankOf t 0 (sortBy (fun a b => decide (f32Key a.1 ≤ f32Key b.1)) items), 0)
  | _ => (F32.nan, flNV)

/-! ### Heavy hitters -/

structure Hitter where
  key : Nat
  count : Nat
  err : Nat
  deriving DecidableEq

structure Hitters where
  total : Nat
  es : List Hitter
  fl : Flg := 0

/-- Entry `i` of a list in 1,024 bytes (06 R175). -/
def hitterAt (b i : Nat) : Hitter :=
  let x := el b 128 (1 + i)
  { key := bits x 31 0, count := bits x 63 32, err := bits x 95 64 }

/-- One key twice. -/
def hittersDouble (es : List Hitter) : Bool := es.any fun e => decide (1 < es.countP fun f => f.key == e.key)

/-- 06 R172, R175. -/
def Hitters.parse (b : Nat) : Except (BitVec 16) Hitters :=
  let n := bits b 15 8
  let es := (List.range n).map (hitterAt b)
  if bits b 7 0 ≠ 2 then .error 0x20
  else if bits b 63 16 ≠ 0 ∨ 63 < n then .error 0x21
  else if hittersDouble es then .error 0x22
  else .ok { total := bits b 127 64, es := es }

/-- The order of 06 R176: COUNT descending, then KEY ascending. -/
def hitterLe (a b : Hitter) : Bool := decide (b.count < a.count ∨ (a.count = b.count ∧ a.key ≤ b.key))

def Hitter.bits (e : Hitter) : Nat := e.key + e.count * 2 ^ 32 + e.err * 2 ^ 64

def Hitters.bytes (h : Hitters) : List Byte :=
  toBytes 1024 (2 + h.es.length * 2 ^ 8 + h.total % 2 ^ 64 * 2 ^ 64 +
    ofEls 128 ((sortBy hitterLe h.es).map Hitter.bits) * 2 ^ 128)

def sat32 (n : Nat) : Nat × Flg := if n < 2 ^ 32 then (n, 0) else (2 ^ 32 - 1, flSA)

/-- The entry with the smallest COUNT and, among equals, the smallest KEY. -/
def Hitters.least (h : Hitters) : Option Hitter :=
  h.es.foldl (fun m e => match m with
    | none => some e
    | some x => if e.count < x.count ∨ (e.count = x.count ∧ e.key < x.key) then some e else some x) none

/-- One key of weight w > 0 (06 R189). -/
def Hitters.insert (h : Hitters) (k w : Nat) : Hitters :=
  let h := { h with total := (h.total + w) % 2 ^ 64 }
  match h.es.find? (·.key == k) with
  | some e =>
    let c := sat32 (e.count + w)
    { h with es := h.es.map fun x => if x.key = k then { x with count := c.1 } else x, fl := h.fl ||| c.2 }
  | none =>
    if h.es.length < 63 then { h with es := h.es ++ [{ key := k, count := w, err := 0 }] }
    else match h.least with
      | none => h
      | some e =>
        let c := sat32 (e.count + w)
        { h with es := h.es.map fun x => if x.key = e.key then { key := k, count := c.1, err := e.count } else x
                 fl := h.fl ||| c.2 }

/-- 06 R190. -/
def Hitters.merge (d s : Hitters) : Hitters :=
  let low (h : Hitters) : Nat := if h.es.length = 63 then (match h.least with | some e => e.count | none => 0) else 0
  let get (h : Hitters) (k : Nat) : Nat × Nat := match h.es.find? (·.key == k) with
    | some e => (e.count, e.err)
    | none => (low h, low h)
  let keys := ((d.es ++ s.es).map (·.key)).eraseDups
  let rs := keys.map fun k =>
    let c := sat32 ((get d k).1 + (get s k).1)
    let e := sat32 ((get d k).2 + (get s k).2)
    (({ key := k, count := c.1, err := e.1 } : Hitter), c.2 ||| e.2)
  { total := (d.total + s.total) % 2 ^ 64, es := (sortBy hitterLe (rs.map (·.1))).take 63
    fl := d.fl ||| orFlags (rs.map (·.2)) }

/-! ### Distinct counts -/

structure Distinct where
  salt : Nat
  adds : Nat
  reg : List Nat

/-- 06 R172, R177. -/
def Distinct.parse (b : Nat) : Except (BitVec 16) Distinct :=
  let reg := els 8 1024 (b / 2 ^ 512)
  if bits b 7 0 ≠ 3 then .error 0x20
  else if bits b 511 192 ≠ 0 ∨ bits b 63 8 ≠ 0 ∨ reg.any (55 < ·) then .error 0x21
  else .ok { salt := bits b 127 64, adds := bits b 191 128, reg := reg }

def Distinct.bytes (d : Distinct) : List Byte :=
  toBytes 1088 (3 + d.salt * 2 ^ 64 + d.adds % 2 ^ 64 * 2 ^ 128 + ofEls 8 d.reg * 2 ^ 512)

/-- One key (06 R193). -/
def Distinct.insert (d : Distinct) (k : Nat) : Distinct :=
  let h := (coin (BitVec.ofNat 64 d.salt ^^^ 0x5851F42D4C957F2D) (BitVec.ofNat 64 k)).toNat
  let j := bits h 63 54
  let rho := min (54 - bitLen (bits h 53 0) + 1) 55
  { d with reg := d.reg.set j (max (d.reg.getD j 0) rho), adds := (d.adds + 1) % 2 ^ 64 }

/-- 06 R194. -/
def Distinct.merge (d s : Distinct) : Except (BitVec 16) Distinct :=
  if d.salt ≠ s.salt then .error 0x23
  else .ok { d with reg := (d.reg.zip s.reg).map fun p => max p.1 p.2, adds := (d.adds + s.adds) % 2 ^ 64 }

/-- 06 R195: 0x44317218 is rne(1024 ln 2, F32), and 755540 is exact in binary32. -/
def Distinct.estimate (d : Distinct) : Nat :=
  let sum := d.reg.foldl (fun n r => n + 2 ^ (55 - r)) 0
  let v := d.reg.countP (· == 0)
  let z := (fround F32 .rne false false sum (-55)).1
  let e := (fdivR F32 .rne (.fin false 755540 0) (fdecode F32 z)).1
  if fcmpV (fdecode F32 e) (.fin false 2560 0) ≤ 0 ∧ 0 < v then
    let q := (fdivR F32 .rne (.fin false 1024 0) (.fin false v 0)).1
    (fmulR F32 .rne (fdecode F32 0x44317218) (fdecode F32 (flog2R F32 .rne (fdecode F32 q)).1)).1
  else e

/-! ### Merging bytes, for the instructions, copies and collectives (06 R197) -/

def sumSize (kind : Nat) : Nat := match kind with | 1 => 2048 | 2 => 1024 | _ => 1088

/-- The merge of two summaries of a kind: the destination's new bytes and flags, or a sub-code. The lowest sub-code of
the two is reported (03 R99). -/
def sumMerge (kind : Nat) (d s : List Byte) : Except (BitVec 16) (List Byte × Flg) :=
  let both {α : Type} (x y : Except (BitVec 16) α) : Except (BitVec 16) (α × α) :=
    match x, y with
    | .ok a, .ok b => .ok (a, b)
    | .error e, .ok _ => .error e
    | .ok _, .error e => .error e
    | .error e, .error f => .error (if f.toNat < e.toNat then f else e)
  match kind with
  | 1 => (both (Sketch.parse (ofBytes d)) (Sketch.parse (ofBytes s))).map fun p =>
      ((p.1.merge p.2).bytes, (p.1.merge p.2).fl)
  | 2 => (both (Hitters.parse (ofBytes d)) (Hitters.parse (ofBytes s))).map fun p =>
      ((p.1.merge p.2).bytes, (p.1.merge p.2).fl)
  | _ => do
    let p ← both (Distinct.parse (ofBytes d)) (Distinct.parse (ofBytes s))
    .ok ((← p.1.merge p.2).bytes, 0)

/-! ### The chain and the instructions -/

/-- 06 R171: 64-aligned and in one bank, else 0x05; then bounds. (DEDUCED, unsafe: notes/assumptions/24.md.) -/
def State.sumPlace (s : State) (kind : Nat) (as : List Word) : Try Unit := do
  match as.find? fun a => a.toNat % 64 != 0 || decide (32768 < a.toNat % 32768 + sumSize kind) with
  | some a => .error (.trap s { code := 0x05, va := a })
  | none => .ok ()
  match as.find? fun a => !s.core.inBounds s.str.spb a (sumSize kind) with
  | some a => .error (.trap s { code := 0x06, va := a })
  | none => .ok ()

/-- The pending result that a chain instruction forwards from (06 R180). -/
def State.sumForward (s : State) (a : Word) : Option SumPend :=
  s.core.chain.reverse.find? (·.addr == poolAddr s.str.spb a)

/-- The bytes that a chain instruction reads: the latest pending result at that place, else scratchpad (06 R180). -/
def State.sumRead (s : State) (kind : Nat) (a : Word) : List Byte :=
  match s.sumForward a with
  | some r => r.bytes
  | none => s.core.spad.readN (poolAddr s.str.spb a) (sumSize kind)

/-- The sub-code of a malformed summary (06 R172). -/
def sumBad (kind : Nat) (bs : List Byte) : Option (BitVec 16) :=
  let sub {α : Type} (r : Except (BitVec 16) α) : Option (BitVec 16) := match r with | .ok _ => none | .error e => some e
  match kind with
  | 1 => sub (Sketch.parse (ofBytes bs))
  | 2 => sub (Hitters.parse (ofBytes bs))
  | _ => sub (Distinct.parse (ofBytes bs))

/-- The sub-code that the clean granules of a summary give (18 R430): a poisoned granule, `dirty` by its number, counts as
that of an empty summary, which no check refuses, and an entry of a list in one has no key. -/
def sumBadClean (kind : Nat) (bs : List Byte) (dirty : Nat → Bool) : Option (BitVec 16) :=
  let seen := bs.zipIdx.map fun x => if dirty (x.2 / 32) then (if x.2 = 0 then BitVec.ofNat 8 kind else 0) else x.1
  match kind, sumBad kind seen with
  | 2, some 0x22 =>
    let b := ofBytes seen
    let es := ((List.range (bits b 15 8)).filter fun i => !dirty ((16 + 16 * i) / 32)).map (hitterAt b)
    if hittersDouble es then some 0x22 else none
  | _, r => r

/-- SALT of a set. -/
def saltOf (bs : List Byte) : Nat := bits (ofBytes (bs.take 16)) 127 64

/-- The faults of the summaries read: 0x0E of each that its clean granules show to be malformed, and of two sets that do not
merge; 0x11 of one with a poisoned granule in the scratchpad; 0x13 (06 R172, R180; 14 R371; 18 R430). -/
def State.sumFault (s : State) (kind : Nat) (reads : List Word) : Option Trap :=
  let at_ (a : Word) : List (Nat × Nat) := [(poolAddr s.str.spb a, sumSize kind)]
  let dirty (a : Word) (g : Nat) : Bool :=
    (s.sumForward a).isNone && s.core.poison.contains (poolAddr s.str.spb a + 32 * g)
  let shape (r : Option (BitVec 16)) : Option Trap := r.map fun sub => { code := 0x0E, sub := sub }
  let own := reads.foldl (fun t a => lowTrap t (lowTrap (shape (sumBadClean kind (s.sumRead kind a) (dirty a)))
    (if (s.sumForward a).isSome then s.early false 0 a (at_ a) else s.laccFault false 0 a (at_ a)))) none
  match reads with
  | [d, a] =>
    if kind = 3 && !dirty d 0 && !dirty a 0 && saltOf (s.sumRead 3 d) != saltOf (s.sumRead 3 a) then lowTrap (shape (some 0x23)) own
    else own
  | _ => own

/-- Placement of every summary named and the faults of the form; then its reads count as one access on each bank they name
(06 R179), and its write when it takes effect. -/
def State.sumReads (s : State) (kind : Nat) (reads : List Word) (write : Option (Word × Nat)) : Try State := do
  let ws := match write with | some w => [w.1] | none => []
  s.sumPlace kind (reads ++ ws)
  let pool (l : List Word) : List (Nat × Nat) := l.map fun a => (poolAddr s.str.spb a, sumSize kind)
  holdIf s (s.lheld (pool (reads ++ ws)))
  trapOpt s (lowTrap (s.sumFault kind reads)
    (match write with | some w => s.laccFault true w.2 w.1 (pool ws) | none => none))
  s.lwatch (pool (reads ++ ws))
  .ok (if reads.isEmpty then s else s.lcount false (pool reads))

/-- A parsed summary or its fault 0x0E (06 R172). -/
def sumParsed {α : Type} (s : State) (r : Except (BitVec 16) α) : Try α :=
  match r with
  | .ok x => .ok x
  | .error sub => .error (.trap s { code := 0x0E, sub := sub })

/-- A summary result: pending in the chain until it lands at issue + lat (06 R179, R180). -/
def State.sumEmit (s : State) (kind : Nat) (a : Word) (lat : Nat) (bs : List Byte) (fl : Flg) (write : Bool := true) :
    State :=
  let p : SumPend := { kind := kind, addr := poolAddr s.str.spb a, bytes := bs, left := lat, write := write
                       seq := s.core.effSeq s.str.sec 5, sec := s.str.sec }
  (s.onCore fun k => { k with chain := k.chain ++ [p] }).emitFlags lat fl

/-- The seed of QSINIT (06 R183). -/
def sketchSeed (s : State) (x : Word) : Word :=
  mix64 (mix64 (mix64 (mix64 s.core.lid ^^^ s.core.phaseCsr) ^^^ s.core.coordCsr) ^^^ x)

def Sketch.empty (seed : Nat) : Sketch :=
  { base := 0, nan := 0, count := 0, mn := 0x7F800000, mx := 0xFF800000, ccnt := 0, seed := seed
    lv := List.replicate 8 [] }

/-- 06 Table 6, fn 0. -/
def execQsinit (a b : BitVec 5) (s : State) : Res :=
  finish do
    let s ← s.sumReads 1 [] (some (s.rx b, 2))
    let (seed, s) := if s.str.ent then let e := s.entropy; (e.1, e.2.cause 0x02 e.1) else (sketchSeed s (s.rx a), s)
    .ok (s.sumEmit 1 (s.rx b) 2 (Sketch.empty seed.toNat).bytes 0)

/-- 06 Table 6, fn 1. -/
def execHhinit (b : BitVec 5) (s : State) : Res :=
  finish do
    let s ← s.sumReads 2 [] (some (s.rx b, 2))
    .ok (s.sumEmit 2 (s.rx b) 2 (Hitters.bytes { total := 0, es := [] }) 0)

/-- 06 Table 6, fn 2. -/
def execDcinit (a b : BitVec 5) (s : State) : Res :=
  finish do
    let s ← s.sumReads 3 [] (some (s.rx b, 2))
    .ok (s.sumEmit 3 (s.rx b) 2 (Distinct.bytes { salt := (s.rx a).toNat, adds := 0, reg := List.replicate 1024 0 }) 0)

/-- A build form: with no active element its result is the summary unchanged and it writes nothing (06 R182). -/
def sumBuild {α : Type} (s : State) (kind lat : Nat) (a : Word) (n : Nat) (parse : Nat → Except (BitVec 16) α)
    (go : α → List Byte × Flg) : Try State := do
  let s ← s.sumReads kind [a] (if n = 0 then none else some (a, lat))
  let bs := s.sumRead kind a
  let x ← sumParsed s (parse (ofBytes bs))
  if n = 0 then .ok (s.sumEmit kind a lat bs 0 false)
  else .ok (s.sumEmit kind a lat (go x).1 (go x).2)

/-- 06 Table 6, fn 4; 06 R185: elements widened exactly to binary32. -/
def execQsadd (a : BitVec 6) (b : BitVec 5) (t : BitVec 3) (s : State) : Res :=
  guarded (.qsadd a b t) s <|
    let xs := (s.activeVals a (fpWidth t)).map fun x => if t = 0 then x else (fconvert (fmtOf t) F32 .rne false x).1
    sumBuild s 1 24 (s.rx b) xs.length Sketch.parse fun q => ((xs.foldl Sketch.insert q).bytes, (xs.foldl Sketch.insert q).fl)

/-- 06 Table 6, fn 5; 06 R189. -/
def execHhadd (a : BitVec 6) (b : BitVec 5) (t : BitVec 3) (s : State) : Res :=
  guarded (.hhadd a b t) s <|
    let xs := s.activeVals a (intWidth t)
    sumBuild s 2 16 (s.rx b) xs.length Hitters.parse fun h =>
      let r := xs.foldl (fun h k => h.insert k 1) h
      (r.bytes, r.fl)

/-- 06 Table 6, fn 6; elements of weight 0 are skipped. -/
def execHhaddw (w a : BitVec 6) (b : BitVec 5) (s : State) : Res :=
  finish <|
    let xs := (s.activeVals a 32).zip (s.activeVals w 32)
    sumBuild s 2 16 (s.rx b) xs.length Hitters.parse fun h =>
      let r := (xs.filter (·.2 != 0)).foldl (fun h k => h.insert k.1 k.2) h
      (r.bytes, r.fl)

/-- 06 Table 6, fn 7; 06 R193. -/
def execDcadd (a : BitVec 6) (b : BitVec 5) (t : BitVec 3) (s : State) : Res :=
  guarded (.dcadd a b t) s <|
    let xs := s.activeVals a (intWidth t)
    sumBuild s 3 6 (s.rx b) xs.length Distinct.parse fun d => ((xs.foldl Distinct.insert d).bytes, 0)

/-- A merge form: the destination in xb, the source in xa (06 R186, R190, R194). -/
def sumMergeForm (s : State) (kind lat : Nat) (d a : Word) : Try State := do
  let s ← s.sumReads kind [d, a] (some (d, lat))
  match sumMerge kind (s.sumRead kind d) (s.sumRead kind a) with
  | .error sub => .error (.trap s { code := 0x0E, sub := sub })
  | .ok r => .ok (s.sumEmit kind d lat r.1 r.2)

/-- 06 Table 6, fn 8. -/
def execQsmrg (a b : BitVec 5) (s : State) : Res := finish (sumMergeForm s 1 40 (s.rx b) (s.rx a))
/-- 06 Table 6, fn 9. -/
def execHhmrg (a b : BitVec 5) (s : State) : Res := finish (sumMergeForm s 2 24 (s.rx b) (s.rx a))
/-- 06 Table 6, fn 10. -/
def execDcmrg (a b : BitVec 5) (s : State) : Res := finish (sumMergeForm s 3 4 (s.rx b) (s.rx a))

/-- 06 Table 6, fn 12. -/
def execQsquant (d a b : BitVec 5) (s : State) : Res :=
  finish do
    let s ← s.sumReads 1 [s.rx b] none
    let q ← sumParsed s (Sketch.parse (ofBytes (s.sumRead 1 (s.rx b))))
    let r := q.quantile ((s.rx a).toNat % 2 ^ 32)
    .ok (s.emitX d 16 (BitVec.ofNat 64 r.1) r.2)

/-- 06 Table 6, fn 13; 06 R191: entries xa to xa + 31 as they are stored, pad 0. -/
def execHhtop (d : BitVec 6) (a b : BitVec 5) (s : State) : Res :=
  finish do
    let s ← s.sumReads 2 [s.rx b] none
    let h ← sumParsed s (Hitters.parse (ofBytes (s.sumRead 2 (s.rx b))))
    let es := ((h.es.drop (s.rx a).toNat).take 32).map Hitter.bits
    .ok (s.emit (.v d (BitVec.allOnes 4096) (vreg 128 es)) 6)

/-- 06 Table 6, fn 14. -/
def execDcest (d b : BitVec 5) (s : State) : Res :=
  finish do
    let s ← s.sumReads 3 [s.rx b] none
    let x ← sumParsed s (Distinct.parse (ofBytes (s.sumRead 3 (s.rx b))))
    .ok (s.emitX d 12 (BitVec.ofNat 64 x.estimate))

end Sys2Proof.Machine
end

