-- ==== Sys2Proof/Machine/Cpy.lean ====
section
/-! DEFINITION. The block-transfer engine, major 24 (14 R361 to R388): shape records, local timed copies, tagged and
looping copies, inline reduce, and the tag forms. A tagged copy reads its source at issue (14 R374) and its bytes
land at its completion. -/
namespace Sys2Proof.Machine

/-! ### Shape records -/

/-- A shape record, 14 Table 1. -/
structure Shape where
  cntobj : Word
  base : Nat
  st : List Nat
  ext : List Nat
  box : List Nat
  step : List Int
  niter : Nat
  dpitch : Nat
  ring : Nat
  ow : Nat
  oh : Nat
  pl : Nat
  pt : Nat
  sw : Nat
  sh : Nat
  dw : Nat
  dh : Nat
  kw : Nat
  kh : Nat
  rsv : Nat
  cntsp : Bool
  cnten : Bool
  conv : Bool
  sp : Bool
  esz : Nat

def Shape.of (r : BitVec 1024) : Shape :=
  let w := r.toNat
  { cntobj := BitVec.ofNat 64 (bits w 1023 960), base := bits w 959 896
    st := [bits w 799 752, bits w 847 800, bits w 895 848]
    ext := [bits w 655 624, bits w 687 656, bits w 719 688, bits w 751 720]
    box := [bits w 575 560, bits w 591 576, bits w 607 592, bits w 623 608]
    step := (els 16 4 (bits w 559 496)).map (toSigned 16)
    niter := bits w 495 480, dpitch := bits w 479 460, ring := bits w 459 456, ow := bits w 455 440
    oh := bits w 439 424, pl := bits w 423 416, pt := bits w 415 408, sw := bits w 407 404, sh := bits w 403 400
    dw := bits w 399 396, dh := bits w 395 392, kw := bits w 391 388, kh := bits w 387 384, rsv := bits w 383 6
    cntsp := r.getLsbD 5, cnten := r.getLsbD 4, conv := r.getLsbD 3, sp := r.getLsbD 2, esz := 2 ^ bits w 1 0 }

def Shape.b (g : Shape) (d : Nat) : Nat := g.box.getD d 0
def Shape.e (g : Shape) (d : Nat) : Int := g.ext.getD d 0
/-- Stride of dimension 1, 2 or 3. -/
def Shape.s (g : Shape) (d : Nat) : Nat := g.st.getD (d - 1) 0

/-- The row span and the pitch (14 R363). -/
def Shape.span (g : Shape) : Nat := if g.conv then g.kh * g.kw * g.b 0 * g.esz else g.b 0 * g.esz
def Shape.pitch (g : Shape) : Nat := if g.dpitch = 0 then g.span else g.dpitch
def Shape.rows (g : Shape) : Nat := if g.conv then g.b 1 else g.b 1 * g.b 2 * g.b 3

/-- A zero extent: the copy moves nothing (14 Table 2). (DEDUCED, unsafe: notes/assumptions/30.md.) -/
def Shape.noop (g : Shape) : Bool := g.box.any (· == 0) || (g.conv && (g.ow == 0 || g.oh == 0))

/-- An in-bounds element: its row, its offset in the row's dense span, and its tensor address. -/
structure Elem where
  row : Nat
  off : Nat
  ga : Int

/-- Start coordinates of iteration `j` (14 R362, R380). -/
def Shape.coords (g : Shape) (x : Nat) (j : Nat) : List Int :=
  let add (i : Nat) (c : Int) : Int := c + j * g.step.getD i 0
  if g.conv then
    [add 0 (toSigned 16 (bits x 15 0)), add 1 (bits x 19 16 : Nat) % 16, add 2 (bits x 23 20 : Nat) % 16,
     add 3 (bits x 63 24 : Nat)]
  else (List.range 4).map fun d => add d (toSigned 16 (el x 16 d))

/-- 14 R363. -/
def Shape.tile (g : Shape) (c : List Int) : List Elem :=
  (List.range (g.b 3)).flatMap fun i3 => (List.range (g.b 2)).flatMap fun i2 => (List.range (g.b 1)).flatMap fun i1 =>
    (List.range (g.b 0)).filterMap fun i0 =>
      let x := List.zipWith (fun (a : Int) (b : Nat) => a + b) c [i0, i1, i2, i3]
      let at_ (d : Nat) : Int := x.getD d 0
      if (List.range 4).all fun d => decide (0 ≤ at_ d ∧ at_ d < g.e d) then
        some { row := (i3 * g.b 2 + i2) * g.b 1 + i1, off := i0 * g.esz
               ga := g.base + at_ 0 * g.esz + at_ 1 * g.s 1 + at_ 2 * g.s 2 + at_ 3 * g.s 3 }
      else none

/-- 14 R364. -/
def Shape.gather (g : Shape) (c : List Int) : List Elem :=
  let at_ (d : Nat) : Int := c.getD d 0
  (List.range (g.b 1)).flatMap fun (p : Nat) => (List.range g.kh).flatMap fun (kr : Nat) => (List.range g.kw).flatMap fun (ks : Nat) =>
    (List.range (g.b 0)).filterMap fun (i0 : Nat) =>
      let px := at_ 3 + (p : Int)
      let wo := px % g.ow
      let ho := px / g.ow % g.oh
      let n := px / (g.ow * g.oh : Nat)
      let w := wo * g.sw - g.pl + (at_ 1 + ks) * g.dw
      let h := ho * g.sh - g.pt + (at_ 2 + kr) * g.dh
      let ch := at_ 0 + i0
      if 0 ≤ ch ∧ ch < g.e 0 ∧ 0 ≤ w ∧ w < g.e 1 ∧ 0 ≤ h ∧ h < g.e 2 ∧ n < g.e 3 then
        some { row := p, off := ((kr * g.kw + ks) * g.b 0 + i0) * g.esz
               ga := g.base + ch * g.esz + w * g.s 1 + h * g.s 2 + n * g.s 3 }
      else none

def Shape.elems (g : Shape) (x j : Nat) : List Elem :=
  if g.noop then [] else if g.conv then g.gather (g.coords x j) else g.tile (g.coords x j)

/-- Contiguous runs: tensor address, dense offset from LADDR, bytes. -/
structure Run where
  ga : Word
  off : Nat
  n : Nat

/-- Elements that follow one another on both sides make one run. A global address is taken modulo 2^64 (DESIGN CHOICE, unsafe:
notes/assumptions/82.md). -/
def Shape.runsGo (g : Shape) : Option Run → List Elem → List Run
  | none, [] => []
  | some r, [] => [r]
  | none, e :: es => g.runsGo (some ⟨BitVec.ofInt 64 e.ga, e.row * g.pitch + e.off, g.esz⟩) es
  | some r, e :: es =>
    let ga : Word := BitVec.ofInt 64 e.ga
    let off := e.row * g.pitch + e.off
    if r.ga + BitVec.ofNat 64 r.n = ga ∧ r.off + r.n = off then g.runsGo (some { r with n := r.n + g.esz }) es
    else r :: g.runsGo (some ⟨ga, off, g.esz⟩) es

def Shape.runs (g : Shape) (x j : Nat) : List Run := g.runsGo none (g.elems x j)

/-- Sub-codes of 14 Table 2 for a copy; `out` when it writes the shaped side. -/
def Shape.fates (g : Shape) (out : Bool) : List (BitVec 16) :=
  let narrow := if out then
      (decide (1 < g.b 1) && decide (g.s 1 < g.b 0 * g.esz)) || (decide (1 < g.b 2) && decide (g.s 2 < g.b 1 * g.s 1)) ||
        (decide (1 < g.b 3) && decide (g.s 3 < g.b 2 * g.s 2))
    else decide (g.dpitch ≠ 0 ∧ g.dpitch < g.span)
  (if narrow then [0x60] else []) ++
  (if g.base % g.esz ≠ 0 ∨ g.st.any (· % g.esz != 0) ∨ g.dpitch % g.esz ≠ 0 ∨ g.cntobj.toNat % 32 ≠ 0 then [0x61] else []) ++
  (if g.conv && (out || [g.sw, g.sh, g.dw, g.dh, g.kw, g.kh].any (· == 0) || g.b 2 != 1 || g.b 3 != 1) then [0x64] else []) ++
  (if g.rsv ≠ 0 then [0x66] else [])

/-! ### Inline reduce -/

/-- Bytes of an element of a reduce code, 0 for any (14 Table 5). -/
def redSize (c : Nat) : Nat := match c with | 0 => 0 | 1 | 3 | 5 | 6 | 7 | 8 => 4 | _ => 8

/-- New value of an element (14 Table 5, codes 1 to 8). -/
def redEl (c old new : Nat) : Nat × Flg :=
  match c with
  | 1 => add32 old new
  | 2 => add64 old new
  | 3 => ((old + new) % 2 ^ 32, 0)
  | 4 => ((old + new) % 2 ^ 64, 0)
  | 5 => fminmax F32 false old new
  | 6 => fminmax F32 true old new
  | 7 => (if toSigned 32 old ≤ toSigned 32 new then old else new, 0)
  | 8 => (if toSigned 32 old ≤ toSigned 32 new then new else old, 0)
  | _ => (new, 0)

/-- Arriving bytes combined with the old ones (14 R382, R383): the bytes to write, flags, and the sub-code of the
first malformed summary. -/
def redBytes (c : Nat) (old new : List Byte) : List Byte × Flg × Option (BitVec 16) :=
  if c = 0 then (new, 0, none)
  else if c < 9 then
    let n := redSize c
    let rs := (List.range (new.length / n)).map fun i =>
      redEl c (ofBytes ((old.drop (n * i)).take n)) (ofBytes ((new.drop (n * i)).take n))
    (rs.flatMap fun r => toBytes n r.1, orFlags (rs.map (·.2)), none)
  else
    let n := sumSize (c - 8)
    (List.range (new.length / n)).foldl (fun acc i =>
      let d := (old.drop (n * i)).take n
      match sumMerge (c - 8) d ((new.drop (n * i)).take n) with
      | .ok r => (acc.1 ++ r.1, acc.2.1 ||| r.2, acc.2.2)
      | .error e => (acc.1 ++ d, acc.2.1, acc.2.2.or (some e))) ([], 0, none)

/-! ### Records -/

/-- 14 R386. -/
def execLdgeom (a : BitVec 5) (n : BitVec 4) (s : State) : Res :=
  finish do
    let la := s.rx a
    let p ← s.lspace la 128 128
    let s ← s.laccEngine false 0 la [(p, 128)]
    .ok (s.emit (.g n (BitVec.ofNat 1024 (s.core.spad.num p 128))) 1)

/-- 14 R386. -/
def execStgeom (a : BitVec 5) (n : BitVec 4) (s : State) : Res :=
  finish do
    let la := s.rx a
    let p ← s.lspace la 128 128
    let s ← s.laccEngine true 1 la [(p, 128)]
    .ok (s.store 1 (cellsAt p (toBytes 128 (vget s.core.g n.toNat 0).toNat)) 7)

/-! ### Copies -/

/-- The kinds of copy. -/
inductive CopyKind where
  | in_ | out | loop
  deriving DecidableEq

/-- A copy's control word and its malformed fields (14 Table 3); `tagged` says which path serves it. -/
def ctlBad (w : Nat) (tagged : Bool) : Bool :=
  decide (bits w 63 32 ≠ 0 ∨ bits w 30 30 ≠ 0 ∨ bits w 23 22 ≠ 0) ||
    if tagged then decide (bits w 31 31 ≠ 0) else decide (bits w 29 24 ≠ 0)

/-- Fault 0x0E of the copy at `pc`: the lowest sub-code among those found (18 R420). -/
def shapeTrap (pc : Word) (subs : List (BitVec 16)) : Option Trap :=
  subs.foldl (fun t c => lowTrap t (some { code := 0x0E, sub := c, cmd := some pc })) none

/-- Sub-code 0x67: a reduce code on an element size or layout that it does not have (14 R382, R383). -/
def redBad (g : Shape) (red la : Nat) : Bool :=
  red != 0 && (g.esz != redSize red || decide (9 ≤ red) &&
    (g.conv || g.b 1 != 1 || g.b 2 != 1 || g.b 3 != 1 || la % 64 != 0 || g.b 0 * 8 % sumSize (red - 8) != 0))

/-- Segments of a row: beats of 256 bytes of its dense span (14 R368). -/
def Shape.beatsPerRow (g : Shape) : Nat := (g.span + 255) / 256
def Shape.beats (g : Shape) : Nat := if g.noop then 0 else g.rows * g.beatsPerRow

/-- The accesses of a local copy against the watch of an earlier one (14 R371). -/
def State.beatFault (s : State) (bs : List Beat) : Option Trap :=
  let off := s.str.spb.toNat % 128 * Config.bankBytes
  let t (sub : BitVec 16) (w : Watch) (a left lat : Nat) : Option Trap := some
    { code := 0x13, sub := sub, va := BitVec.ofNat 64 (a - off), cmd := some w.baddr
      aux0 := (s.str.lcc + BitVec.ofNat 48 left).setWidth 64, aux1 := (s.str.lcc + BitVec.ofNat 48 lat).setWidth 64 }
  s.core.watch.foldl (fun r w => bs.foldl (fun r b => b.pairs.foldl (fun r p =>
    let r := match w.dst.find? fun x => x.1 == p.1 && decide (b.left < x.2) with
      | some x => lowTrap r (t 1 w x.1 x.2 b.left)
      | none => r
    match w.src.find? fun x => x.1 == p.2 && decide (b.left + 1 ≤ x.2) with
    | some x => lowTrap r (t 2 w x.1 x.2 (b.left + 1))
    | none => r) r) r) none

/-- The place of an L-address, with the SPB of the stream in focus: a range of the pool back as L-addresses. -/
def State.asL (s : State) (r : Nat × Nat) : Nat × Nat := (r.1 - s.str.spb.toNat % 128 * Config.bankBytes, r.2)

/-- 14 R368 to R371: a local copy, in the primary stream alone. -/
def localCopy (s : State) (g : Shape) (k : CopyKind) (x ctl red : Nat) : Try State := do
  primaryOnly s
  let out := k == .out
  let la := bits ctl 21 0
  let es := if g.noop then [] else g.elems x 0
  let dense (e : Elem) : Nat := la + e.row * g.pitch + e.off
  let ok (a : Int) : Bool := decide (0 ≤ a ∧ a < 2 ^ 64) && s.core.inBounds s.str.spb (BitVec.ofInt 64 a) g.esz
  let bad := es.find? fun e => !ok (dense e) || !ok e.ga
  trapLow s
    ([(decide (la % g.esz ≠ 0), { code := 0x05, va := BitVec.ofNat 64 la }),
      (bad.isSome, { code := 0x06, va := match bad with
        | some e => if ok (dense e) then BitVec.ofInt 64 e.ga else BitVec.ofNat 64 (dense e) | none => 0 }),
      (decide (1 < s.core.localEnd), { code := 0x07, sub := 8, cmd := some s.str.pc })])
  trapOpt s (shapeTrap s.str.pc ((if ctlBad ctl false || red != 0 then [0x65] else []) ++
    (if redBad g red la then [0x67] else []) ++ g.fates out))
  holdIf s (s.acquiring false (es.flatMap fun e => [(dense e, g.esz), (e.ga.toNat, g.esz)]))
  let pool (a : Nat) : Nat := a + s.str.spb.toNat % 128 * Config.bankBytes
  let nb := g.beats
  let pairs (e : Elem) : List (Nat × Nat) := (List.range g.esz).map fun i =>
    if out then (pool (dense e) + i, pool e.ga.toNat + i) else (pool e.ga.toNat + i, pool (dense e) + i)
  let beat (e : Elem) : Nat := e.row * g.beatsPerRow + e.off / 256
  let beats := ((es.map beat).eraseDups).map fun b =>
    { pairs := (es.filter fun e => beat e == b).flatMap pairs, left := b + 1, baddr := s.str.pc, spb := s.str.spb : Beat }
  match s.beatFault beats with
  | some t => .error (.trap s t)
  | none => .ok ()
  let w : Watch := { src := beats.flatMap fun b => b.pairs.map fun p => (p.1, b.left)
                     dst := beats.flatMap fun b => b.pairs.map fun p => (p.2, b.left + 1), baddr := s.str.pc }
  .ok (s.onCore fun k => { k with
    beats := k.beats ++ beats, localEnd := if nb = 0 then k.localEnd else nb + 1
    watch := if bits ctl 31 31 = 1 then k.watch ++ [w] else k.watch })

/-- The object that a copy counts into, translated before issue (14 R373). -/
def State.cntRef (s : State) (g : Shape) : Option ObjRef :=
  if !g.cnten then none
  else if g.cntsp then some (match s.objAt s.core.fn g.cntobj with | some p => .fixed g.cntobj p | none => .glob g.cntobj)
  else some (.pool (poolAddr s.str.spb g.cntobj))

/-- The checks of a tagged copy before issue (14 R367, R373): its own faults, the wait on its tag and on busy rows, the
global checks of every iteration and of CNTOBJ, and the early-read checker, for which its scratchpad side is accessed at
issue (14 R371, R374; DEDUCED, unsafe: notes/assumptions/17.md). `stages` are pool ranges of ring stages it will claim.
A deferred error that the copy observes ranks after every fault of its own (DESIGN CHOICE, unsafe: notes/assumptions/94.md). -/
def taggedChecks (s : State) (g : Shape) (k : CopyKind) (ctl red : Nat) (dense : List (Nat × Nat)) (rs : List Run)
    (stages : List (Nat × Nat)) (subs : List (BitVec 16)) : Try State := do
  let la := bits ctl 21 0
  let bad := dense.find? fun d => !(decide (d.1 < 2 ^ 22) && s.core.inBounds s.str.spb (BitVec.ofNat 64 d.1) d.2)
  let cntBad := g.cnten && !g.cntsp && !s.core.inBounds s.str.spb g.cntobj 32
  trapLow s
    [(decide (la % g.esz ≠ 0), { code := 0x05, va := BitVec.ofNat 64 la }),
     (bad.isSome, { code := 0x06, va := match bad with | some d => BitVec.ofNat 64 d.1 | none => 0 }),
     (cntBad, { code := 0x06, va := g.cntobj })]
  let more := shapeTrap s.str.pc (subs ++ g.fates (k == .out) ++ (if ctlBad ctl true || (red != 0 && k != .in_) then [0x65] else []) ++
    (if redBad g red la then [0x67] else []))
  holdIf s (s.core.tagBusy (bits ctl 29 24))
  let fn := s.core.fn
  let globs := rs.map fun r => (r.ga, r.n)
  let cnt := if g.cnten && g.cntsp then [(g.cntobj, 32)] else []
  let cntTier (pk : Package) : Option Trap := cnt.findSome? fun c => match pk.translate fn c.1 with
    | .ok e => if leafTier e.leaf = 0 then none
               else some { code := 0x0E, sub := 0x61, va := g.cntobj, cmd := some s.str.pc }
    | .error _ => none
  let pool := stages ++ dense.map fun d => (poolAddr s.str.spb (BitVec.ofNat 64 d.1), d.2)
  holdIf s (s.acquiring true (globs.map fun r => (bits r.1.toNat 56 0, r.2)))
  holdIf s (s.core.mustWait pool || s.acquiring false (pool.map s.asL))
  let early := s.early (k != .out) 0 (BitVec.ofNat 64 la) pool
  let s ← s.gcheckAll fn [(if k = .out then { w := true } else { r := true }, globs), ({ r := true, w := true }, cnt)]
    fun pk => lowTrap (lowTrap (cntTier pk) early) more
  s.observe [bits ctl 29 24]

/-- A copy's error of its source (18 R430; 21 R467), deferred to the observing bundle. -/
def State.copyErr (s : State) (t : Nat) (rs : List Run) : Option Trap :=
  rs.foldl (fun e r => e.or (match s.readFault r.ga (s.pkg.physOf s.core.fn r.ga r.n) with
    | some f => some { f with sub := if f.code = 0x11 then 4 else f.sub, cmd := some s.str.pc
                              aux0 := if f.code = 0x11 then BitVec.ofNat 64 t else f.aux0 }
    | none => none)) none

/-- The bytes of a run with their dense offsets; poisoned granules and lost bytes deliver nothing. (DEDUCED, unsafe: notes/assumptions/17.md.) -/
def State.runCells (s : State) (r : Run) : List (Nat × Byte) :=
  let pas := s.pkg.physOf s.core.fn r.ga r.n
  let seen := s.view
  (pas.zipIdx).filterMap fun p =>
    if s.pkg.unreachable p.1 || s.pkg.poisonAt p.1 then none
    else some (r.off + p.2, seen.readPA p.1)

def runBytes (rs : List Run) : Nat := rs.foldl (fun n r => n + r.n) 0

/-- Ports that carry a copy's global side (21 R473). -/
def State.runPorts (s : State) (rs : List Run) : List Nat :=
  s.pkg.portsOf (rs.flatMap fun r => s.pkg.physOf s.core.fn r.ga r.n)

/-- Counters and write tracking of a copy's global side, and of its update of a global CNTOBJ (10 R274, 08 R210). -/
def State.copyCount (s : State) (g : Shape) (write : Bool) (rs : List Run) : State :=
  let count (s : State) (write : Bool) (rs : List (Word × Nat)) : State :=
    if rs.isEmpty then s
    else
      let pas := rs.flatMap fun r => s.pkg.physOf s.core.fn r.1 r.2
      let s := (s.gcount rs).track write pas
      if write then s else s.settleG pas
  let s := count s write (rs.map fun r => (r.ga, r.n))
  if g.cnten && g.cntsp then count s true [(g.cntobj, 32)] else s

/-- A primary copy reads a record last written by the secondary stream (14 R386). -/
def State.geomCause (s : State) (n : Nat) : State :=
  if !s.str.sec && s.core.gsec.getLsbD n then s.causeOnce 0x03 else s

/-- 14 R373 to R377: CPYIN and CPYOUT with a global side. -/
def taggedCopy (s : State) (g : Shape) (n : Nat) (k : CopyKind) (x ctl red : Nat) : Try State := do
  let la := bits ctl 21 0
  let t := bits ctl 29 24
  let rs := g.runs x 0
  let dense := rs.map fun r => (la + r.off, r.n)
  let s ← taggedChecks s g k ctl red dense rs [] []
  let pool (o : Nat) : Nat := poolAddr s.str.spb (BitVec.ofNat 64 (la + o))
  let rows := (rs.flatMap fun r => rowsOf (pool r.off) r.n).eraseDups
  let cnt := s.cntRef g
  let bytes := runBytes rs
  let s := (s.copyCount g (k == .out) rs).geomCause n
  let (d, s) := s.delay
  let due := s.pkg.clock + d
  let ports := s.runPorts rs
  if k = .out then
    let poison := rs.find? fun r => s.core.poison.any fun p => overlap (pool r.off) r.n p 32
    let s := if !s.str.sec && rows.any s.core.marks.contains then s.causeOnce 0x03 else s
    let cells := rs.flatMap fun r =>
      ((s.pkg.physOf s.core.fn r.ga r.n).zipIdx.filter fun p =>
        !s.core.poison.any fun q => overlap (pool r.off + p.2) 1 q 32).map fun p =>
          (p.1, s.core.spad.read (pool r.off + p.2))
    let s := (peerRequests ((cells.map (·.1)).filter s.pkg.unreachable)).foldl State.portError s
    let op : GOp := { eff := .bytes (cells.filter fun c => !s.pkg.unreachable c.1), due := due
                      lc := s.core.issue, tag := some (BitVec.ofNat 6 t) }
    let err : Option Trap := poison.map fun r =>
      { code := 0x11, sub := 4, va := BitVec.ofNat 64 (la + r.off), cmd := some s.str.pc, aux0 := BitVec.ofNat 64 t }
    let c : Copy := { tag := BitVec.ofNat 6 t, sec := s.str.sec, baddr := s.str.pc, rcd := vget s.core.g n 0, red := 0
                      cnt := cnt, ring := none, todo := [], err := err, ports := ports
                      runs := [{ cells := [], stage := none, bytes := bytes, rows := rows, due := due }] }
    .ok (((s.onStr fun r => { r with gq := r.gq ++ [op] }).tagStart t bytes).onCore fun k => { k with copies := k.copies ++ [c] })
  else
    let cells := (rs.flatMap s.runCells).map fun c => (pool c.1, c.2)
    let c : Copy := { tag := BitVec.ofNat 6 t, sec := s.str.sec, baddr := s.str.pc, rcd := vget s.core.g n 0, red := red
                      cnt := cnt, ring := none, todo := [], err := s.copyErr t rs
                      runs := [{ cells := cells, stage := none, bytes := bytes, rows := rows, due := due }]
                      keys := s.pageKeys (rs.map fun r => (r.ga, r.n)), laddr := la, pool := pool 0, ports := ports }
    .ok ((s.tagStart t bytes).onCore fun k => { k with copies := k.copies ++ [c] })

/-- 14 Table 6, cfn 2. -/
def execCpyin (a b : BitVec 5) (n o : BitVec 4) (s : State) : Res :=
  finish do
    trapIf s (decide (12 ≤ o.toNat)) 0x01 0
    let g := Shape.of (vget s.core.g n.toNat 0)
    if g.sp then taggedCopy s g n.toNat .in_ (s.rx a).toNat (s.rx b).toNat o.toNat
    else (localCopy s g .in_ (s.rx a).toNat (s.rx b).toNat o.toNat).map fun s => s.geomCause n.toNat

/-- 14 Table 6, cfn 3. -/
def execCpyout (a b : BitVec 5) (n : BitVec 4) (s : State) : Res :=
  finish <|
    let g := Shape.of (vget s.core.g n.toNat 0)
    if g.sp then taggedCopy s g n.toNat .out (s.rx a).toNat (s.rx b).toNat 0
    else (localCopy s g .out (s.rx a).toNat (s.rx b).toNat 0).map fun s => s.geomCause n.toNat

/-- The EMPTY stages from TAIL onward, at most `n` (14 R381). -/
def Ring.claimable (g : Ring) (n : Nat) : List Nat :=
  ((List.range (min n g.nst)).map fun i => (g.tail + i) % g.nst).takeWhile fun i => (g.stage i).1 == .empty

/-- 14 R380, R381: CPYLOOP; its iterations claim stages from the end of this lc on. -/
def execCpyloop (a b : BitVec 5) (n : BitVec 4) (s : State) : Res :=
  finish do
    let g := Shape.of (vget s.core.g n.toNat 0)
    let x := (s.rx a).toNat
    let ctl := (s.rx b).toNat
    let t := bits ctl 29 24
    let ring := vget s.core.rings g.ring none
    let span := if g.rows = 0 then 0 else g.pitch * (g.rows - 1) + g.span
    let iters := if g.noop then (List.range g.niter).map fun _ => [] else (List.range g.niter).map fun j => g.runs x j
    let fits := match ring with | some r => decide (span ≤ r.sb) | none => false
    let stages := match ring with
      | some r => (r.claimable g.niter).map fun i => (r.base + i * r.sb, r.sb)
      | none => []
    let turn := match ring with
      | some r => (List.range (min g.niter r.nst)).map fun i => s.asL (r.base + (r.tail + i) % r.nst * r.sb, r.sb)
      | none => []
    holdIf s (s.acquiring false turn)
    let s ← taggedChecks s g .loop ctl 0 [] (if g.sp then iters.flatten else []) stages
      ((if !g.sp || bits ctl 21 0 != 0 || ring.isNone || (!g.noop && !fits) then [0x62] else []) ++
       (if s.core.feeds g.ring then [0x63] else []))
    let all := iters.flatten
    let cnt := s.cntRef g
    let s := (iters.foldl (fun s rs => s.copyCount g false rs) s).geomCause n.toNat
    let c : Copy := { tag := BitVec.ofNat 6 t, sec := s.str.sec, baddr := s.str.pc, rcd := vget s.core.g n.toNat 0
                      red := 0, cnt := cnt, ring := some g.ring
                      todo := iters.map fun rs => (runBytes rs, rs.flatMap s.runCells)
                      runs := [], err := s.copyErr t all, keys := s.pageKeys (all.map fun r => (r.ga, r.n))
                      ports := s.runPorts all }
    .ok ((s.tagStart t (runBytes all)).onCore fun k => { k with copies := k.copies ++ [c] })

/-! ### Landings -/

/-- A store effect of an engine of the core on bytes read now. -/
def Core.beatRead (k : Core) (b : Beat) : List Host.Cell := b.pairs.map fun p => (p.2, k.spad.read p.1)

/-- A beat reads its bytes; it writes them one lc later (14 R368). It waits for a row that a copy or an action keeps busy
and for a fill (14 R376; 10 R288; 15 R397); a read of a marked row is logged once for its copy (08 R218), and poisoned
bytes raise the engine's fault (18 R430). -/
def State.beat (s : State) (b : Beat) : Try State := do
  let ranges := b.pairs.map fun p => (p.1, 1)
  holdIf s (s.core.mustWait ranges)
  match b.pairs.find? fun p => (s.core.poisonUnder [(p.1, 1)]).isSome with
  | some p => .error (.trap s { code := 0x11, sub := 3, va := BitVec.ofNat 64 (p.1 - b.spb.toNat % 128 * Config.bankBytes)
                                cmd := some b.baddr, aux0 := BitVec.ofNat 64 (p.1 / Config.bankBytes) })
  | none => do
    let s ← if b.unlogged && ranges.any fun r => (rowsOf r.1 1).any s.core.marks.contains then
        s.engineMark b.baddr fun k =>
          { k with beats := k.beats.map fun c => if c.baddr == b.baddr then { c with unlogged := false } else c }
      else .ok s
    .ok (s.onCore fun k => { k with
      beats := k.beats.filter fun c => !(c.left == 0 && c.baddr == b.baddr)
      stores := k.stores ++ [{ cells := k.beatRead b, left := 1, seq := beatSeq }]
      touched := k.touched ++ [(0, (ranges.flatMap fun r => banksOf r.1 1).eraseDups)] })

/-- The beats due do their work; one that must wait freezes the core (13 R343 for the fault of one). -/
def execLocalCopyBeat (s : State) : Res :=
  .next ((s.core.beats.filter (·.left == 0)).foldl (fun s b =>
    if s.str.held || s.core.engTrap.isSome then s
    else match s.beat b with
    | .ok s => s
    | .error (.hold s) => s.onStr fun t => { t with held := true }
    | .error (.trap s t) => s.onCore fun k => { k with engTrap := some t }) s)

/-- Runs of consecutive cells, as (address, bytes). -/
def cellRuns : List Host.Cell → List (Nat × List Byte)
  | [] => []
  | c :: cs => match cellRuns cs with
    | (a, bs) :: rest => if c.1 + 1 = a then (c.1, c.2 :: bs) :: rest else (c.1, [c.2]) :: (a, bs) :: rest
    | [] => [(c.1, [c.2])]

/-- Bytes that a combine takes together: an element, or a summary (14 R382, R383). -/
def redUnit (red : Nat) : Nat := if red < 9 then redSize red else sumSize (red - 8)

/-- The units of a stretch that have wholly arrived; units follow one another from `base` on (14 R383). -/
def wholeUnits (base n : Nat) (r : Nat × List Byte) : List (Nat × List Byte) :=
  let i := (r.1 - base + n - 1) / n
  let skip := base + n * i - r.1
  (List.range ((r.2.length - skip) / n)).map fun j => (base + n * (i + j), (r.2.drop (skip + n * j)).take n)

/-- What the landing of arriving bytes comes to: flags, the sub-code of the first malformed summary, and the place of a
unit whose old bytes are poisoned, which stays as it is (18 R430). -/
structure Landing where
  core : Core
  flags : Flg := 0
  bad : Option (BitVec 16) := none
  hot : Option Nat := none

/-- The landing of a run: its cells combined with the pool, unit by unit from `base`, the place of LADDR. -/
def Core.landCells (k : Core) (red base : Nat) (cells : List Host.Cell) : Landing :=
  if red = 0 then { core := k.poolWrite cells }
  else ((cellRuns cells).flatMap (wholeUnits base (redUnit red))).foldl (fun (acc : Landing) r =>
    if (acc.core.poisonUnder [(r.1, r.2.length)]).isSome then { acc with hot := acc.hot.or (some r.1) }
    else
      let b := redBytes red (acc.core.spad.readN r.1 r.2.length) r.2
      { acc with core := acc.core.poolWrite (cellsAt r.1 b.1), flags := acc.flags ||| b.2.1, bad := acc.bad.or b.2.2 })
    { core := k }

/-- The queued effects of a stream up to the first that `f` names are performed (11 R293). -/
def State.performTo (s : State) (f : GOp → Bool) : State :=
  match s.str.gq.findIdx? f with
  | some i => s.performN (i + 1)
  | none => s

/-- Runs `f` with the stream `sec` of the core in focus. -/
def State.withStream (s : State) (sec : Bool) (f : State → State) : State :=
  if s.str.sec == sec then f s else (f s.swap).swap

/-- The first run of a copy lands; with its last run and no iteration left the copy completes (14 R375, R381). A landing
waits for a fill of bytes that it writes (10 R288). -/
def State.landRun (s : State) (c : Copy) : State :=
  match c.runs with
  | [] =>
    if c.todo.isEmpty then s.onCore fun k =>
      ({ k with copies := k.copies.filter (·.tag != c.tag) }).tagDone c.tag.toNat 0 c.err
    else s
  | r :: rest =>
    let own := match c.cnt with | some (.pool a) => [(a, 32)] | _ => []
    if s.core.filling (own ++ r.cells.map fun x => (x.1, 1)) then s
    else
    let s := s.withStream c.sec fun s => s.performTo fun o => o.tag == some c.tag
    let l := s.core.landCells c.red c.pool r.cells
    let k := l.core.mark (c.sec && !r.cells.isEmpty) (r.cells.flatMap fun x => rowsOf x.1 1).eraseDups
    let k := match r.stage with
      | some (g, i) => match vget k.rings g none with
        | some ring => k.setRing g (some { ring with stages := ring.stages.set i (.full, ring.cc) })
        | none => k
      | none => k
    let s := s.onCore fun _ => k
    let s := match c.cnt with | some o => s.updateRef s.core.fn o r.bytes 0 | none => s
    let err := lowTrap (lowTrap c.err (l.bad.map fun sub => { code := 0x0E, sub := sub, cmd := some c.baddr }))
      (l.hot.map fun a => { code := 0x11, sub := 4, va := BitVec.ofNat 64 (c.laddr + (a - c.pool)), cmd := some c.baddr
                            aux0 := c.tag.setWidth 64 })
    let c' := { c with runs := rest, err := err }
    if rest.isEmpty && c.todo.isEmpty then
      s.onCore fun k => ({ k with copies := k.copies.filter (·.tag != c.tag) }).tagDone c.tag.toNat l.flags err
    else s.onCore fun k => { k with copies := k.copies.map fun x => if x.tag = c.tag then c' else x }

/-- 14 R375: the copy on tag `t` completes. -/
def execTaggedCopyCompletion (t : BitVec 6) (s : State) : Res :=
  match s.core.copies.find? fun c => c.tag == t && c.ring.isNone with
  | some c => .next (s.landRun c)
  | none => .next s

/-- 14 R381: the oldest claimed iteration of the looping copy on tag `t` lands. -/
def execLoopingIterationLanding (t : BitVec 6) (s : State) : Res :=
  match s.core.copies.find? fun c => c.tag == t && c.ring.isSome with
  | some c => .next (s.landRun c)
  | none => .next s

/-! ### Tag forms -/

/-- 14 R387. -/
def execWtagAll (a : BitVec 5) (s : State) : Res :=
  finish do
    let ts := maskTags (s.rx a)
    holdIf s (ts.any s.core.tagBusy)
    s.observe ts

/-- 14 R387: observes nothing. -/
def execWtagAny (a : BitVec 5) (s : State) : Res :=
  finish do
    let ts := maskTags (s.rx a)
    holdIf s (!ts.isEmpty && ts.all s.core.tagBusy)
    .ok s

/-- The tag that an FFR holds on, or takes: the lowest of its mask that is OUTSTANDING or DONE (14 R388). -/
def State.ffrTag (s : State) (m : Word) : Option Nat :=
  match s.str.ffr with
  | some t => some t.toNat
  | none => (maskTags m).find? fun t => (s.core.tag t).st != .idle

/-- 14 R388: tags are taken in tag order; an FFR that holds keeps its tag. -/
def execFfr (a d : BitVec 5) (s : State) : Res :=
  finish do
    match s.ffrTag (s.rx a) with
    | none => .ok (s.emitX d 1 64)
    | some t =>
      holdIf (s.onStr fun r => { r with ffr := some (BitVec.ofNat 6 t) }) (s.core.tagBusy t)
      let s ← (s.onStr fun r => { r with ffr := none }).observe [t]
      .ok ((s.emitX d 1 (BitVec.ofNat 64 t)).emit (.idleTag (BitVec.ofNat 6 t)) 1)

/-- 14 R388. -/
def execTcnt (a d : BitVec 5) (s : State) : Res :=
  finish do
    let x := (s.rx a).toNat
    trapIf s (decide (64 ≤ x)) 0x0E 0x65
    holdIf s (s.core.tagBusy x)
    let s ← s.observe [x]
    .ok (s.emitX d 1 (BitVec.ofNat 64 (s.core.tag x).bytes))

end Sys2Proof.Machine
end

