-- ==== Sys2Proof/Machine/Haul.lean ====
section
/-! DEFINITION. The haul plan and page migration: major 27 with cfn 16 to 20 (15 R389 to R411), and the invalidation of
translations (10 R271). -/
namespace Sys2Proof.Machine

/-! ### Sparse ranges -/

/-- The listed bytes of a range, with their offsets, and the memory without them. -/
def Memory.slice (m : Memory) (a n : Nat) : List Host.Cell :=
  (m.filter fun c => decide (a ≤ c.1 ∧ c.1 < a + n)).map fun c => (c.1 - a, c.2)
def Memory.clear (m : Memory) (a n : Nat) : Memory := m.filter fun c => !decide (a ≤ c.1 ∧ c.1 < a + n)

/-- A physical address as a memory (0 device, 1 host, 2 peer) and a place in it. -/
def Package.place (pk : Package) (p : PAddr) : Nat × Nat :=
  match p.tier.toNat with
  | 0 => (0, p.addr)
  | 1 => (1, p.addr)
  | _ => if p.addr / 2 ^ 40 = pk.podn then (0, p.addr % 2 ^ 40) else (2, p.addr)
def Package.memOf (pk : Package) (w : Nat) : Memory := if w = 0 then pk.dev else if w = 1 then pk.host else pk.peer
def Package.setMem (pk : Package) (w : Nat) (m : Memory) : Package :=
  if w = 0 then { pk with dev := m } else if w = 1 then { pk with host := m } else { pk with peer := m }

/-- The granules of a range of device memory stand under the key `kid` from now on. -/
def Package.keyRange (pk : Package) (kid a n : Nat) : Package :=
  if kid == 0 && pk.enc.isEmpty then pk
  else { pk with enc := (List.range (n / 32)).foldl (fun m i => sset 0 m (a / 32 + i) kid) pk.enc }

/-- `n` bytes, whole granules, copied from one physical range to another: read under the key of the one, written under that
of the other (22 R497). -/
def Package.copyRange (pk : Package) (src dst : PAddr) (n : Nat) : Package :=
  let a := pk.place src
  let b := pk.place dst
  let seen := if a.1 = 0 then pk.rekeyRange src.kid a.2 n else pk
  let cells := (seen.memOf a.1).slice a.2 n
  let pk := if b.1 = 0 then pk.keyRange dst.kid b.2 n else pk
  pk.setMem b.1 (((pk.memOf b.1).clear b.2 n).writeCells (cells.map fun c => (b.2 + c.1, c.2)))

/-! ### Actions -/

/-- The fault of an action at its start: its source pages, then its destination pages (15 R398). (DEDUCED, unsafe: notes/assumptions/9.md.) -/
def actFault (pk : Package) (fn : Nat) (e : BitVec 256) : Option Trap :=
  let side (need : Need) (tier : Nat) (rs : List (Word × Nat)) : List (Option Trap) :=
    (pagesOf rs).map fun p => lowTrap (pk.pageFault fn need p.1 p.2) (match pk.translate fn p.1 with
      | .ok l => if (leafTier l.leaf == 0) == (tier == 1) then none else some { code := 0x0E, sub := 0x75, va := p.1 }
      | .error _ => none)
  (side { r := true } (eStier e) (entryReads e) ++ side { w := true } (eDtier e) (entryWrites e)).findSome? id

/-- A destination page is write-blocked (10 R272). -/
def actBlocked (pk : Package) (fn : Nat) (e : BitVec 256) : Bool :=
  (pagesOf (entryWrites e)).any fun p => match pk.translate fn p.1 with | .ok l => leafBit l.leaf 7 | .error _ => false

/-- Cells of the pool with those of earlier actions in progress laid over them. -/
def Plan.seen (p : Plan) (k : Core) (a : Nat) : Byte :=
  match (p.acts.filter fun b => !b.done).reverse.findSome? fun b => b.cells.find? (·.1 == a) with
  | some c => c.2
  | none => k.spad.read a

/-- An action begins, if it can: its pages are checked, its source bytes are read, and its global writes take their
place in the owner stream's order (15 R398, R399). It waits for a row that a copy made busy, for a write-blocked page,
for an earlier action that shares a byte and waits, and for room for its fault. Its accesses are tracked for the bundle that
started it (08 R210). The owner is in focus. (DEDUCED, unsafe: notes/assumptions/31.md.) -/
def State.actBegin (s : State) (i : Nat) : State :=
  match s.core.plan with
  | none => s
  | some p =>
    let fn := s.core.fn
    let e := p.entry i
    let n := eBytes e
    let upd (f : HaulAct → HaulAct) (s : State) : State := s.onCore fun k => { k with plan := k.plan.map (·.onAct i f) }
    let pool := (p.ranges i).filterMap fun r => if r.1 = 0 then some r.2 else none
    let rows := pool.flatMap fun r => rowsOf r.1 r.2
    let copies := s.core.copies.flatMap (fun c => c.runs.flatMap (·.rows)) ++ s.core.colls.flatMap (fun c => c.iters.flatMap (·.rows))
    let fills := s.core.fillRanges
    -- the action's place in the owner's order becomes its effect
    let take (s : State) (f : GOp → Option GOp) : State := s.onStr fun t =>
      { t with gq := t.gq.filterMap fun o => if o.act == some i && o.place then f o else some o }
    if rows.any copies.contains || pool.any (fun r => fills.any fun f => overlap r.1 r.2 f.1 f.2) ||
        (p.before i).any (!·.begun) then s
    else match actFault s.pkg fn e with
    | some t =>
      if p.full then upd (fun a => { a with stuck := true }) s
      else upd (fun a => { a with done := true, begun := true, fault := some t, stuck := false }) (take s fun _ => none)
    | none =>
      if actBlocked s.pkg fn e then s
      else
        let local_ := poolAddr p.spb (eSrc e)
        let view := s.view
        let pas := s.pkg.physOf fn (eSrc e) n
        let src : List (Option Byte) :=
          if eAction e = 3 then []
          else if eStier e = 0 then (List.range n).map fun j =>
            if s.core.poison.any fun q => overlap (local_ + j) 1 q 32 then none else some (p.seen s.core (local_ + j))
          else pas.map fun q => if s.pkg.unreachable q || s.pkg.poisonAt q then none else some (view.readPA q)
        let err : Option Trap :=
          if !src.contains none then none
          else if eStier e != 0 && pas.any s.pkg.unreachable then s.readFault (eSrc e) pas
          else some { code := 0x11, sub := 5, va := eSrc e, aux0 := BitVec.ofNat 64 i }
        let moved : List (Nat × Byte) := (src.zipIdx).filterMap fun b => b.1.map fun x => (b.2, x)
        let zero := if eAction e = 1 ∨ eAction e = 3 then (List.range n).map fun j => (local_ + j, (0 : Byte)) else []
        let fill := if eDtier e = 0 ∧ eAction e ≠ 3 then moved.map fun b => (poolAddr p.spb (eDst e) + b.1, b.2) else []
        let out := s.pkg.physOf fn (eDst e) n
        let cells := if eDtier e = 0 then [] else moved.filterMap fun b => out[b.1]?.map fun q => (q, b.2)
        let s := (peerRequests ((cells.map (·.1)).filter s.pkg.unreachable)).foldl State.portError s
        let from_ := (p.acts.find? (·.idx == i)).elim 0 (·.baddr)
        let log (s : State) : State := s.onCore (·.logEvent 0x04 from_ p.sec)
        let s := s.trackBy log false (if eStier e = 0 ∨ eAction e = 3 then [] else pas)
        let s := s.trackBy log true (if eDtier e = 0 then [] else out)
        let keys := if eStier e = 0 then [] else s.pageKeys (entryReads e)
        let good := cells.filter fun c => !s.pkg.unreachable c.1
        let s := take s fun o =>
          let newer := match o.eff with | .bytes cs => cs | _ => []
          some { o with eff := .bytes (good.filter fun c => !newer.any fun d => d.1.word == c.1.word), place := false }
        upd (fun a => { a with begun := true, cells := fill ++ zero, err := err, keys := keys }) s

/-- An entry starts (15 R396): its rows are busy from now on, and its global writes take their place in the owner stream's
order (15 R399). -/
def State.actStart (s : State) (i : Nat) : State :=
  match s.core.plan with
  | none => s
  | some p =>
    if p.acts.any (·.idx == i) then s
    else
      let (d, s) := s.delay
      let n := eBytes (p.entry i)
      let rows := ((p.ranges i).flatMap fun r => if r.1 = 0 then rowsOf r.2.1 r.2.2 else []).eraseDups
      let a : HaulAct := { idx := i, due := s.pkg.clock + d, done := n == 0, fault := none, rows := rows, begun := n == 0
                           baddr := s.str.pc }
      let s := s.onCore fun k => { k with plan := some { p with acts := p.acts ++ [a] } }
      if n = 0 then s
      else
        let op : GOp := { eff := .bytes [], due := a.due, lc := s.core.issue, act := some i, place := true }
        (if eDtier (p.entry i) = 0 then s else s.onStr fun t => { t with gq := t.gq ++ [op] }).actBegin i

/-- Entries with START in (lo, hi], in start order. -/
def Plan.starting (p : Plan) (lo : Int) (hi : Nat) : List Nat :=
  let c := p.entries.zipIdx.filter fun e => decide (lo < eStart e.1) && decide (eStart e.1 ≤ hi)
  (sortBy (fun a b => decide (eStart a.1 < eStart b.1) || eStart a.1 == eStart b.1 && decide (a.2 ≤ b.2)) c).map (·.2)


/-- Actions that have started and not begun try again, in start order. -/
def State.actsRetry (s : State) : State :=
  match s.core.plan with
  | none => s
  | some p => s.withStream p.sec fun s =>
    (p.acts.filter fun a => !a.done && !a.begun).foldl (fun s a => s.actBegin a.idx) s


/-- 15 R399: an action completes once every earlier action that shares a byte with it has. -/
def execHaulActionCompletion (idx : Nat) (s : State) : Res :=
  let s := s.actsRetry
  match s.core.plan with
  | none => .next s
  | some p => match p.acts.find? (·.idx == idx) with
    | none => .next s
    | some a =>
      if a.done || !a.begun || !(p.before idx).isEmpty then .next s
      else if a.err.isSome && p.full then
        .next (s.onCore fun k => { k with plan := some (p.onAct idx fun a => { a with stuck := true }) })
      else
        let s := s.withStream p.sec fun s => s.performTo fun o => o.act == some idx
        .next ((s.onCore fun k => { (k.poolWrite a.cells) with
          plan := some (p.onAct idx fun a => { a with done := true, fault := a.err, cells := [], stuck := false }) }).actsRetry)

/-! ### Forms -/

/-- The window word is well formed (15 R395). -/
def windowLegal (w : Nat) : Bool :=
  decide (bits w 31 22 = 0 ∧ bits w 63 55 = 0 ∧ bits w 21 0 % 512 = 0 ∧ bits w 54 32 % 512 = 0 ∧ 512 ≤ bits w 54 32 ∧
    bits w 54 32 ≤ 4194304)

/-- 15 R395. -/
def execHaulset (a b c : BitVec 5) (s : State) : Res :=
  finish do
    let va := s.rx a
    let n := (s.rx b).toNat
    let w := (s.rx c).toNat
    let wbase := bits w 21 0
    let wbytes := bits w 54 32
    let lo := bits va.toNat 56 0
    let count := decide (1 ≤ n ∧ n ≤ 1048576)
    let sealed := (s.pkg.fnOf s.core.fn).seals.any fun r =>
      r.st == .sealed && decide (r.base ≤ lo ∧ lo + 32 * n ≤ r.base + r.bytes)

    trapLow s [(decide (va.toNat % 32 ≠ 0), { code := 0x05, va := va }),
      (!s.core.inBounds s.str.spb (BitVec.ofNat 64 wbase) wbytes, { code := 0x06, va := BitVec.ofNat 64 wbase }),
      (!count || !windowLegal w || !sealed, { code := 0x0E, sub := 0x71, va := va }),
      (s.core.plan.isSome, { code := 0x0E, sub := 0x72 })]
    holdIf s (s.acquiring true [(lo, 32 * n)])
    let s ← s.gcheckFn s.core.fn { r := true } [(va, 32 * n)]
    trapOpt s (s.readFault va (s.pkg.physOf s.core.fn va (32 * n)))
    let es := (els 256 n (ofBytes (s.gbytes va (32 * n)))).map (BitVec.ofNat 256)
    match es.findIdx? fun e => !entryLegal wbase wbytes e with
    | some i => .error (.trap s { code := 0x0E, sub := 0x70, cmd := some (BitVec.ofNat 64 i) })
    | none =>
      let s := s.gcounted { r := true } [(va, 32 * n)]
      let p : Plan := { addr := va, count := n, window := s.rx c, spb := s.str.spb, sec := s.str.sec, last := 0
                        entries := es, acts := [] }
      let s := s.onCore fun k => { k with plan := some p }
      .ok ((p.starting (-1) 0).foldl State.actStart s)

/-- The lowest-indexed kept fault among some actions stops the stream; it is then reported (15 R402). -/
def State.reportAct (s : State) (p : Plan) (sel : HaulAct → Bool) : Try Unit :=
  match p.deferred sel with
  | some (t, p') => .error (.trap (s.onCore fun k => { k with plan := some p' }) t)
  | none => .ok ()

/-- 15 R404; END acts in the same way (04 R139). -/
def execHaulend (s : State) : Res :=
  finish <|
    match s.core.plan with
    | none => .ok s
    | some p => do
      trapIf s (p.sec != s.str.sec) 0x0E 0x73
      if p.busy then do
        if p.jammed (p.acts.map (·.idx)) then s.reportAct p fun _ => true else .ok ()
        .error (.hold s)
      else do
        s.reportAct p fun _ => true
        .ok (s.onCore fun k => { k with plan := none })

/-- Blaze misses are counted once for each entry (15 R401). -/
def Core.countMisses (k : Core) (late : List Nat) : Core :=
  match k.plan with
  | none => k
  | some p =>
    let new := late.filter fun i => !p.missed.contains i
    { k with plan := some { p with missed := p.missed ++ new }
             hpb := BitVec.ofNat 64 (k.hpb.toNat % 2 ^ 32 + (bits k.hpb.toNat 63 32 + new.length) % 2 ^ 32 * 2 ^ 32) }

/-- 15 R400 to R403. -/
def execBlaze (a : BitVec 5) (s : State) : Res :=
  finish <|
    let x := (s.rx a).toNat
    match s.ownPlan with
    | none => .error (.trap s { code := 0x0E, sub := 0x73 })
    | some p => do
      trapIf s (decide (2 ^ 32 ≤ x)) 0x0E 0x73
      trapWith s (decide (x < p.last)) { code := 0x10, sub := 2, aux0 := BitVec.ofNat 64 x }
      if x = p.last then .ok s
      else do
        let due := (List.range p.entries.length).filter fun i =>
          decide (p.last < eNeed (p.entry i) ∧ eNeed (p.entry i) ≤ x)
        match if p.waiting == some x then none else if s.core.hpb.getLsbD 0 then due.find? fun i => !p.complete i else none with
        | some i => trapWith s true { code := 0x10, sub := 1, cmd := some (BitVec.ofNat 64 i), aux0 := BitVec.ofNat 64 x }
        | none => .ok ()
        let s := (p.starting p.last x).foldl State.actStart s
        let q := s.core.plan.getD p
        let late := due.filter fun i => !q.complete i
        let s := if s.core.hpb.getLsbD 0 then s else s.onCore (·.countMisses late)
        let q := s.core.plan.getD p
        if late.isEmpty then do
          let q := { q with last := x, waiting := none }
          let s := s.onCore fun k => { k with plan := some q }
          s.reportAct q fun a => due.contains a.idx
          .ok s
        else do
          if q.jammed late then s.reportAct q fun _ => true else .ok ()
          .error (.hold (s.onCore fun k => { k with plan := some { q with waiting := some x } }))

/-- 15 R411. -/
def execHaulstat (d : BitVec 5) (s : State) : Res :=
  landX s d 2 (match s.core.plan with
    | some p => BitVec.ofNat 64 (p.last + 2 ^ 32 + if p.sec then 2 ^ 33 else 0)
    | none => 0)

/-! ### Invalidation and migration -/

/-- Page size of a code of 15 Table 6. -/
def pageSize (z : Nat) : Nat := if z = 0 then 2 ^ 16 else if z = 1 then 2 ^ 21 else 2 ^ 30

/-- Address of a translation's leaf entry, from that of its counter (10 Table 2). -/
def TlbEnt.leafAt (e : TlbEnt) : Nat :=
  let i := if e.size = 2 ^ 16 then bits e.base 20 16 else if e.size = 2 ^ 21 then bits e.base 29 21 else bits e.base 38 30
  e.ctr + 6 * i - (if e.size = 2 ^ 16 then 256 else 4096)

/-- No cached translation of a range is left, and the writes made through one have been performed (10 R271). -/
def State.invalidate (s : State) (fn base size : Nat) : State :=
  (s.performFn fn).onPkg fun pk =>
    { pk with tlb := pk.tlb.filter fun e => !(e.fn == fn && overlap e.base e.size base size) }

/-- Actions of every core that wait for a write-blocked page try again. -/
def State.actsRetryAll (s : State) (fn : Nat) : State :=
  let home := s.core.id
  let sec := s.str.sec
  let ids := (s.ctxs.filter fun c => c.core.fn == fn && c.core.plan.isSome).map (·.core.id)
  if ids.isEmpty then s
  else
    let s := (ids.foldl (fun s id => (s.focus id).actsRetry) s).focus home
    if s.str.sec == sec then s else s.swap

/-- 10 R271: the Puppeteer names a function, an address and a page size. -/
def execInvalidation (fn : BitVec 5) (va : BitVec 64) (psz : BitVec 2) (s : State) : Res :=
  .next (s.onPkg fun pk => { pk with invals := pk.invals ++ [(fn.toNat, va.toNat, psz.toNat)] })

/-- 10 R271, R272. -/
def execInvalidationComplete (fn : BitVec 5) (va : BitVec 64) (psz : BitVec 2) (s : State) : Res :=
  if s.pkg.invals.contains (fn.toNat, va.toNat, psz.toNat) then
    let size := pageSize psz.toNat
    let base := bits va.toNat 56 0 / size * size
    if s.objOutstanding fn.toNat base size then .next s
    else
    let s := s.invalidate fn.toNat base size
    .next ((s.onPkg fun pk => { pk with invals := pk.invals.erase (fn.toNat, va.toNat, psz.toNat) }).actsRetryAll fn.toNat)
  else .next s

/-- Frame of a leaf, with its key. -/
def Package.leafFrame (pk : Package) (l : Word) : PAddr :=
  { tier := leafTier l, addr := leafPfn l * 65536, key := leafKey l, kid := pk.keyId (leafKey l) }

def Package.leafNow (pk : Package) (e : TlbEnt) : Word := BitVec.ofNat 64 (pk.devNum e.leafAt 8)
def Package.setLeaf (pk : Package) (e : TlbEnt) (l : Word) : Package :=
  pk.devPut e.leafAt (toBytes 8 l.toNat)
def setWb (l : Word) (b : Bool) : Word := if b then l ||| 0x80#64 else l &&& ~~~0x80#64

/-- The faults of 15 R407 beside those of the two translations: a page in a sealed range, found page by page; WB as the
leaf in memory holds it. -/
def migrateFault (pk : Package) (fn : Nat) (va vb : Word) : Option Trap :=
  let page (v : Word) : Option Trap := match pk.translate fn v with
    | .ok e =>
      if (pk.fnOf fn).seals.any fun r => overlap r.base r.bytes e.base e.size then some { code := 0x09, va := v }
      else if leafBit e.leaf 5 || leafBit e.leaf 7 || leafBit (pk.leafNow e) 7 then some { code := 0x0E, sub := 0x74, va := v }
      else none
    | .error _ => none
  let both : Option Trap := match pk.translate fn va, pk.translate fn vb with
    | .ok ea, .ok eb => if ea.base == eb.base || ea.size != eb.size then some { code := 0x0E, sub := 0x74 } else none
    | _, _ => none
  lowTrap (lowTrap (page va) (page vb)) both

/-- Step 1 of 15 R408 begins: WB is set in both leaves. The invalidation takes the translations of both pages out of the
caches at once, so that no later write of the issuing stream reaches B's old frame (10 R284; 15 R409). (DESIGN CHOICE, unsafe: notes/assumptions/12.md.) -/
def State.migrate (s : State) (fn : Nat) (tag : Option (BitVec 6)) (ea eb : TlbEnt) : State :=
  let (d, s) := s.delay
  s.onPkg fun pk =>
    let pk := pk.setLeaf ea (setWb (pk.leafNow ea) true)
    let pk := pk.setLeaf eb (setWb (pk.leafNow eb) true)
    { pk with
      tlb := pk.tlb.filter fun e => !(e.fn == fn && (overlap e.base e.size ea.base ea.size || overlap e.base e.size eb.base eb.size))
      migrations := pk.migrations ++ [{ tag := tag, core := s.core.id, baddr := s.str.pc, fn := fn, a := ea, b := eb
                                        step := 0, due := s.pkg.clock + d }] }

/-- 15 R407. -/
def execMigrate (a b : BitVec 5) (t : BitVec 6) (s : State) : Res :=
  finish do
    let va := s.rx a
    let vb := s.rx b
    let fn := s.core.fn
    holdIf s (s.core.tagBusy t.toNat)
    let s ← s.gcheckFn fn { r := true, w := true, plain := true } [(va, 1), (vb, 1)] fun pk => migrateFault pk fn va vb
    let s ← s.observe [t.toNat]
    match s.pkg.translate fn va, s.pkg.translate fn vb with
    | .ok ea, .ok eb => .ok ((s.migrate fn (some t) ea eb).tagStart t.toNat ea.size)
    | _, _ => .ok s

/-- A migration that the runtime asks for through the Puppeteer (15 R409): with no fault of 15 R407 it takes the same
steps; with one the request is dropped (DESIGN CHOICE, safe: notes/assumptions/87.md). -/
def State.runtimeMigrate (s : State) (fn : Nat) (va vb : Word) : State :=
  match s.pkg.rangesFault fn { r := true, w := true, plain := true } [(va, 1), (vb, 1)], migrateFault s.pkg fn va vb,
      s.pkg.translate fn va, s.pkg.translate fn vb with
  | none, none, .ok ea, .ok eb => s.migrate fn none ea eb
  | _, _, _, _ => s

/-- The migration of the core in focus on a tag. -/
def State.migration (s : State) (t : BitVec 6) (step : Nat) : Option Migration :=
  s.pkg.migrations.find? fun m => m.core == s.core.id && m.tag == some t && m.step == step

def State.onMigration (s : State) (m m' : Migration) : State :=
  s.onPkg fun pk => { pk with migrations := pk.migrations.map fun x => if x = m then m' else x }

/-- Step 1 of 15 R408 ends, once every access translated before it has completed. -/
def State.migrationInvalidated (s : State) (m : Migration) : State :=
  if s.objOutstanding m.fn m.a.base m.a.size || s.objOutstanding m.fn m.b.base m.b.size then s
  else
  let s := (s.invalidate m.fn m.a.base m.a.size).invalidate m.fn m.b.base m.b.size
  let (d, s) := s.delay
  s.onMigration m { m with step := 1, due := s.pkg.clock + d }

/-- 15 R408 step 1 ends. -/
def execMigrationInvalidated (t : BitVec 6) (s : State) : Res :=
  match s.migration t 0 with
  | none => .next s
  | some m => .next (s.migrationInvalidated m)

/-- The fields that a migration exchanges: PFN, KEY and TIER (15 R408). -/
def frameMask : Word := 0x000FFFFFFFFFFF00#64

/-- Steps 2 and 3 of 15 R408: the frames' bytes are copied, the leaves exchanged. A poisoned granule of A is not copied
and leaves fault 0x11 on the tag (18 R430), and so does an unreachable frame with 0x0C (21 R467), or one whose key has been
destroyed with 0x16 (22 R500). A copy that leaves device memory is recorded for egress (18 R433). (DEDUCED, unsafe: notes/assumptions/32.md.) -/
def State.migrationCopied (s : State) (m : Migration) : State :=
  let la := s.pkg.leafNow m.a
  let lb := s.pkg.leafNow m.b
  let fa := s.pkg.leafFrame la
  let fb := s.pkg.leafFrame lb
  let bare (e : TlbEnt) (l : Word) : Bool := !s.pkg.keyOk m.fn { e with leaf := l }
  let lost := s.pkg.unreachable fa || s.pkg.unreachable fb || bare m.a la || bare m.b lb
  let inFrame (f : PAddr) (g : Nat) : Bool := match s.pkg.here f with
    | some a => decide (a ≤ 32 * g ∧ 32 * g < a + m.a.size)
    | none => false
  let at_ (g : Nat) : Nat := 32 * g - (s.pkg.here fa).getD 0
  let bad := s.pkg.poison.filter (inFrame fa)
  let copy (pk : Package) : Package :=
    if lost then pk
    else
      let keep := bad.flatMap fun g => (List.range 32).map fun i =>
        let p := fb.plus (at_ g + i)
        (p, pk.readPA p)
      let pk := pk.copyRange fa fb m.a.size
      let pk := keep.foldl (fun pk c => pk.writePA c.1 c.2) pk
      let good (g : Nat) : Bool := !inFrame fb g || bad.any fun b => at_ b == 32 * g - (s.pkg.here fb).getD 0
      let pk := { pk with poison := pk.poison.filter good }
      (List.range (m.a.size / 4096)).foldl (fun pk i => pk.egressAdd m.fn (fb.plus (4096 * i))) pk
  let va (g : Nat) : Word := BitVec.ofNat 64 (m.a.base + at_ g)
  let err : Option Trap :=
    if s.pkg.unreachable fa || s.pkg.unreachable fb then
      some { code := 0x0C, sub := 5, va := BitVec.ofNat 64 m.a.base, cmd := some m.baddr, aux0 := la }
    else if lost then
      let (b, l) := if bare m.a la then (m.a.base, la) else (m.b.base, lb)
      some { code := 0x16, sub := 3, va := BitVec.ofNat 64 b, cmd := some m.baddr, aux0 := BitVec.ofNat 64 (leafKey l) }
    else bad.head?.map fun g => { code := 0x11, sub := 5, va := va g, cmd := some m.baddr
                                  aux0 := (m.tag.getD 0).setWidth 64 }
  let s := s.onPkg fun pk =>
    let pk := copy pk
    let pk := pk.setLeaf m.a (setWb ((la &&& ~~~frameMask) ||| (lb &&& frameMask)) true)
    pk.setLeaf m.b (setWb ((lb &&& ~~~frameMask) ||| (la &&& frameMask)) true)
  let (d, s) := s.delay
  s.onMigration m { m with step := 2, due := s.pkg.clock + d, err := err }

/-- 15 R408 steps 2 and 3. -/
def execMigrationCopyDone (t : BitVec 6) (s : State) : Res :=
  match s.migration t 1 with
  | none => .next s
  | some m => .next (s.migrationCopied m)

/-- Steps 4 and 5 of 15 R408: WB is cleared and both pages invalidated as one, so that no writer goes on before the
invalidation ends (15 R409). -/
def State.migrationDone (s : State) (m : Migration) : State :=
  if s.objOutstanding m.fn m.a.base m.a.size || s.objOutstanding m.fn m.b.base m.b.size then s
  else
  let s := s.onPkg fun pk =>
    let pk := pk.setLeaf m.a (setWb (pk.leafNow m.a) false)
    pk.setLeaf m.b (setWb (pk.leafNow m.b) false)
  let s := (s.invalidate m.fn m.a.base m.a.size).invalidate m.fn m.b.base m.b.size
  let s := s.onPkg fun pk => { pk with migrations := pk.migrations.filter (· != m) }
  (match m.tag with | some t => s.onCore fun k => k.tagDone t.toNat 0 m.err | none => s).actsRetryAll m.fn

/-- 15 R408 steps 4 and 5. -/
def execMigrationComplete (t : BitVec 6) (s : State) : Res :=
  match s.migration t 2 with
  | none => .next s
  | some m => .next (s.migrationDone m)

end Sys2Proof.Machine
end

