-- ==== Sys2Proof/Machine/Coll.lean ====
section
/-! DEFINITION. Group tables, the loop walker and the receiving ports: major 25 (21 R476 to R492). -/
namespace Sys2Proof.Machine

/-- Runs `f` with core `id` in focus, its primary stream first; the focus then returns. -/
def State.atCore (s : State) (id : Nat) (f : State → State) : State :=
  let home := s.core.id
  let sec := s.str.sec
  let s := (f (s.focus id)).focus home
  if s.str.sec == sec then s else s.swap

/-! ### Group tables -/

/-- A group table whose header is well formed, as its entries (21 R476). -/
def tableSize (hdr : Nat) : Option Nat :=
  let g := bits hdr 31 0
  if 1 ≤ g ∧ g ≤ 1024 ∧ bits hdr 127 32 = 0 then some g else none

/-- The issuer's rank: the lowest index of its own entry (21 R476). -/
def State.rankIn (s : State) (es : List (BitVec 32)) : Option Nat :=
  let me : Nat := s.pkg.podn % 1024 * 2 ^ 22 + s.core.gang.toNat * 2 ^ 6 + s.core.tile.toNat % 64
  es.findIdx? fun e => e.toNat == me

/-- A group table as COLL and CRANK find it (21 R490, R491): the range that is read, the lowest fault of the read itself,
and the entries, none for a malformed table. -/
structure TableRead where
  range : Word × Nat
  fault : Option Trap
  entries : Option (List (BitVec 32))

/-- The table at `va`. A global one is found through the translations as they stand; their own faults are found with those
of the other global ranges. -/
def State.tableAt (s : State) (glob : Bool) (va : Word) : TableRead :=
  let sized (hdr : Nat) (get : Nat → List Byte) : Nat × Option (List (BitVec 32)) :=
    match tableSize hdr with
    | some g => (16 + 4 * g, some ((els 32 g (ofBytes ((get (16 + 4 * g)).drop 16))).map (BitVec.ofNat 32)))
    | none => (16, none)
  if glob then
    if (s.pkg.rangesFault s.core.fn { r := true } [(va, 16)]).isSome then { range := (va, 16), fault := none, entries := none }
    else
      let t := sized (ofBytes (s.gbytes va 16)) (s.gbytes va)
      { range := (va, t.1), fault := s.readFault va (s.pkg.physOf s.core.fn va t.1), entries := t.2 }
  else
    let q := poolAddr s.str.spb va
    let out (n : Nat) : Bool := !s.core.inBounds s.str.spb va n
    let t := if out 16 then (16, none) else sized (s.core.spad.num q 16) (s.core.spad.readN q)
    if out t.1 then { range := (va, t.1), fault := some { code := 0x06, va := va }, entries := none }
    else { range := (va, t.1), fault := s.laccFault false 0 va [(q, t.1)], entries := t.2 }

/-- The waits and faults of a table's read, with the global ranges `srcs` read beside it and the instruction's other faults
`more`: the lowest of all is raised (03 R99). -/
def State.tableReady (s : State) (glob : Bool) (va : Word) (srcs : List (Word × Nat)) (more : Option Trap) : Try State := do
  let t := s.tableAt glob va
  let globs := (if glob then [t.range] else []) ++ srcs
  let pool := [(poolAddr s.str.spb va, t.range.2)]
  holdIf s (s.acquiring true (globs.map fun r => (bits r.1.toNat 56 0, r.2)) || !glob && t.entries.isSome && s.lheld pool)
  let s ← s.gcheckFn s.core.fn { r := true } globs fun _ => lowTrap t.fault more
  .ok (if glob then (s.gcounted { r := true } [t.range]).gloadCause [t.range] else s.lcount false pool)

def rankForm (s : State) (d b : BitVec 5) (glob : Bool) : Res :=
  finish do
    let va := s.rx b
    misaligned s va 16
    let es := (s.tableAt glob va).entries
    let s ← s.tableReady glob va [] (if es.isNone then some { code := 0x14, sub := 3, cmd := some s.str.pc } else none)
    .ok (s.emitX d 2 (match es.bind s.rankIn with | some r => BitVec.ofNat 64 r | none => BitVec.allOnes 64))

/-- 21 R491. -/
def execCrank (d b : BitVec 5) (s : State) : Res := rankForm s d b false
/-- 21 R491, GSP = 1. -/
def execCrankg (d b : BitVec 5) (s : State) : Res := rankForm s d b true

/-- 21 R492. -/
def execCplan (d : BitVec 5) (s : State) : Res :=
  finish <|
    let plan := match s.pkg.active with | some p => bits p.hdr.toNat 79 64 | none => 0
    let v : Word := BitVec.ofNat 64 (plan + s.pkg.podn % 1024 * 2 ^ 16 + s.pkg.pauses.toNat * 2 ^ 32)
    if s.pkg.pauses = 0 then .ok (s.emitX d 1 v) else .ok ((s.cause 0x05 v).emitX d 1 (s.replayed v))

/-! ### Loop-nest records -/

/-- A level of a loop-nest record (21 Table 5). -/
structure Level21 where
  lstr : Int
  rstr : Int
  bound : Nat
  pcoef : Int

/-- A loop-nest record (21 Table 4). -/
structure Nest where
  lbase : Nat
  rbase : Nat
  flag : Word
  chunk : Nat
  stepbase : Nat
  srank : Nat
  pbase : Int
  red : Nat
  rel : Bool
  gsp : Bool
  fsp : Bool
  rsp : Bool
  lsp : Bool
  lv : List Level21
  /-- Reserved fields, NLEV, CHUNK, FLAG and unused levels are as the tables have them. -/
  ok : Bool

def Nest.of (r : BitVec 2048) : Nest :=
  let w := r.toNat
  let h := bits w 511 0
  let n := bits h 2 0
  let level (l : Nat) : Nat := bits w (511 + 256 * (l + 1)) (512 + 256 * l)
  { lbase := bits h 511 448, rbase := bits h 447 384, flag := BitVec.ofNat 64 (bits h 383 320), chunk := bits h 319 288
    stepbase := bits h 287 272, srank := bits h 271 256, pbase := toSigned 16 (bits h 255 240), red := bits h 15 12
    rel := bits h 11 11 = 1, gsp := bits h 10 10 = 1, fsp := bits h 9 9 = 1, rsp := bits h 8 8 = 1, lsp := bits h 7 7 = 1
    lv := (List.range (min n 6)).map fun l =>
      { lstr := toSigned 64 (bits (level l) 255 192), rstr := toSigned 64 (bits (level l) 191 128)
        bound := bits (level l) 111 96, pcoef := toSigned 32 (bits (level l) 95 64) }
    ok := decide (bits h 239 16 = 0 ∧ bits h 6 3 = 0 ∧ 1 ≤ n ∧ n ≤ 6 ∧ bits h 319 288 % 32 = 0 ∧ bits h 319 288 ≤ 65536 ∧
        bits h 383 320 % 32 = 0) &&
      (List.range 6).all fun l => if l < n then decide (bits (level l) 127 112 = 0 ∧ bits (level l) 63 0 = 0)
        else level l == 0 }

/-- A reduce code on a layout it does not have (21 R479). -/
def Nest.redBad (h : Nest) : Bool :=
  if 11 < h.red then true
  else if 9 ≤ h.red then h.rsp || decide (h.rbase % 64 ≠ 0) || decide (h.chunk % sumSize (h.red - 8) ≠ 0)
  else if 1 ≤ h.red then
    let e := redSize h.red
    decide (h.chunk % e ≠ 0 ∨ h.lbase % e ≠ 0 ∨ h.rbase % e ≠ 0) || h.lv.any fun l => l.lstr % e != 0 || l.rstr % e != 0
  else false

def Nest.total (h : Nest) : Nat := h.lv.foldl (fun n l => n * l.bound) 1

/-- Index vectors in lexicographic order, level 0 most significant (21 R478). -/
def indexes : List Nat → List (List Nat)
  | [] => [[]]
  | b :: bs => (List.range b).flatMap fun i => (indexes bs).map fun r => i :: r

def dot (cs : List Int) (is : List Nat) : Int := (List.zipWith (fun (c : Int) (i : Nat) => c * i) cs is).foldl (· + ·) 0

/-- Local address, peer, remote address and step of each iteration (21 R478). -/
def Nest.iterations (h : Nest) (g rank : Nat) : List (Int × Nat × Int × Nat) :=
  (indexes (h.lv.map (·.bound))).zipIdx.map fun x =>
    (h.lbase + dot (h.lv.map (·.lstr)) x.1,
     (((if h.rel then (rank : Int) else 0) + h.pbase + dot (h.lv.map (·.pcoef)) x.1) % (g : Int)).toNat,
     h.rbase + dot (h.lv.map (·.rstr)) x.1, h.stepbase + h.srank * rank + x.2)

/-- An exact address as a word, if it is one. -/
def wordOf (a : Int) : Option Word := if 0 ≤ a ∧ a < 2 ^ 64 then some (BitVec.ofInt 64 a) else none

/-- The fault of a local source of `n` bytes (21 R479): R37 binds a power of two up to 512. (DEDUCED, unsafe: notes/assumptions/39.md.) -/
def State.sourceFault (s : State) (n : Nat) (a : Int) : Option Trap :=
  let va : Word := BitVec.ofInt 64 a
  if n ≤ 512 ∧ 2 ^ Nat.log2 n = n ∧ a % n ≠ 0 then some { code := 0x05, va := va }
  else match wordOf a with
    | some w => if s.core.inBounds s.str.spb w n then none else some { code := 0x06, va := va }
    | none => some { code := 0x06, va := va }

/-! ### A flag, as a receiving port reaches it (21 R484, R486) -/

/-- A range that a port may write: `none` where it may not, else whether a write-blocked page makes it wait. -/
def portAccess (pk : Package) (k : Core) (fn : Nat) (glob : Bool) (a : Int) (n : Nat) : Option Bool :=
  match wordOf a with
  | none => none
  | some w =>
    if glob then
      if (pk.rangesFault fn { r := true, w := true } [(w, n)]).isSome then none
      else
        let ls := (pageParts w n).filterMap fun p => match pk.translate fn p.1 with | .ok e => some e.leaf | .error _ => none
        if ls.any fun l => leafTier l != 0 then none else some (ls.any fun l => leafBit l 7)
    else if k.inBounds 0 w n then some false else none

/-- The object that a flag names. -/
def flagRef (glob : Bool) (flag : Word) : ObjRef := if glob then .glob flag else .pool (poolAddr 0 flag)

/-- The update of a collective that moves nothing (21 R486), if it can be applied now. -/
def State.noteFlag (s : State) (h : Nest) (baddr : Word) : State × Option (Option (Nat × Trap)) :=
  match portAccess s.pkg s.core s.core.fn h.fsp h.flag.toNat 32 with
  | none => (s, some (some (0, { code := 0x14, sub := 4, va := h.flag, cmd := some baddr })))
  | some true => (s, none)
  | some false =>
    -- one that waits is tried again at the collective's completion
    if !h.fsp && s.core.filling [(poolAddr 0 h.flag, 32)] then (s, none)
    else (s.updateRef s.core.fn (flagRef h.fsp h.flag) 0 1, some none)

/-! ### COLL -/

/-- The faults 0x14 of a COLL (21 R479), lowest sub-code first; `es` are the table's entries. -/
def State.collFault (s : State) (h : Nest) (es : Option (List (BitVec 32))) : Option Trap :=
  let rank := es.bind s.rankIn
  let ranked := h.rel || h.srank != 0
  let far (e : BitVec 32) : Bool := e.toNat / 2 ^ 22 != s.pkg.podn && match s.pkg.active with
    | none => true
    | some p => (p.route.getD (e.toNat / 2 ^ 22) 0xFF) == 0xFF
  let sub : Option (BitVec 16) :=
    if !h.ok || h.redBad then some 1
    else if (rank.isSome || !ranked) && decide (0 < h.total ∧ 2 ^ 32 ≤ h.stepbase + h.srank * rank.getD 0 + (h.total - 1)) then some 2
    else if es.isNone || rank.isNone && ranked then some 3
    else if (es.getD []).any far then some 6
    else none
  sub.map fun c => { code := 0x14, sub := c, cmd := some s.str.pc }

/-- The error of a chunk's global source, captured at issue: a poisoned or lost byte (18 R430; 21 R467). -/
def State.collErrAt (s : State) (t : BitVec 6) (w : Word) (n : Nat) : Option Trap :=
  (s.readFault w (s.pkg.physOf s.core.fn w n)).map fun f =>
    { f with sub := if f.code = 0x11 then 4 else f.sub, cmd := some s.str.pc
             aux0 := if f.code = 0x11 then t.setWidth 64 else f.aux0 }

/-- 21 R477 to R480, R486, R490. -/
def execColl (a b : BitVec 5) (t : BitVec 6) (s : State) : Res :=
  finish do
    let xa := s.rx a
    let xb := s.rx b
    holdIf s (s.core.tagBusy t.toNat || decide (4 ≤ s.core.colls.length))
    trapLow s [(decide (xa.toNat % 256 ≠ 0), { code := 0x05, va := xa }), (decide (xb.toNat % 16 ≠ 0), { code := 0x05, va := xb })]
    let q ← s.lspace xa 256 256
    holdIf s (s.lheld [(q, 256)])
    if (s.core.poisonUnder [(q, 256)]).isSome then trapOpt s (s.laccFault false 0 xa [(q, 256)])
    let rcd := BitVec.ofNat 2048 (s.core.spad.num q 256)
    let h := Nest.of rcd
    let es := (s.tableAt h.gsp xb).entries
    let g := (es.map (·.length)).getD 0
    let none_ := decide (g = 1 ∨ h.total = 0 ∨ h.chunk = 0)
    let its := if none_ then [] else h.iterations g ((es.bind s.rankIn).getD 0)
    let pool (i : Int) : Nat := poolAddr s.str.spb (BitVec.ofInt 64 i)
    let ranges := if h.lsp then its.filterMap fun i => (wordOf i.1).map fun w => (w, h.chunk) else []
    let dense := if h.lsp then [] else its.map fun i => (pool i.1, h.chunk)
    let source := its.foldl (fun t i => lowTrap t (if h.lsp then
        (if (wordOf i.1).isNone then some { code := 0x0B, sub := 1 } else none)
      else lowTrap (s.sourceFault h.chunk i.1) (s.early false 0 (BitVec.ofInt 64 i.1) [(pool i.1, h.chunk)]))) none
    holdIf s (s.core.mustWait dense || s.acquiring false (dense.map s.asL))
    let s ← s.tableReady h.gsp xb ranges
      (lowTrap (lowTrap source (s.early false 0 xa [(q, 256)])) (s.collFault h es))
    let s ← (s.lcount false [(q, 256)]).observe [t.toNat]
    let members := es.getD []
    if none_ then
      let (s, done) := (s.tagStart t.toNat 0).noteFlag h s.str.pc
      let c : Coll := { tag := t, sec := s.str.sec, baddr := s.str.pc, rcd := rcd, members := members, total := 0, iters := []
                        settled := 0, flags := 0, err := done.getD none, due := s.pkg.clock, note := done.isNone }
      .ok (s.onCore fun k => { k with colls := k.colls ++ [c] })
    else
      let s := ranges.foldl (fun s r => s.gcounted { r := true } [r]) s
      let s := s.gloadCause ranges
      let s := if !s.str.sec && (dense.any fun r => (rowsOf r.1 r.2).any s.core.marks.contains) then s.causeOnce 0x03 else s
      let view := s.view
      let it (x : (Int × Nat × Int × Nat) × Nat) : CollIter :=
        let w : Word := BitVec.ofInt 64 x.1.1
        { j := x.2, src := pool x.1.1, peer := x.1.2.1, ra := x.1.2.2.1, step := x.1.2.2.2
          data := if h.lsp then some ((s.pkg.physOf s.core.fn w h.chunk).map view.readPA) else none
          rows := if h.lsp then [] else rowsOf (pool x.1.1) h.chunk
          bad := if h.lsp then s.collErrAt t w h.chunk else none
          keys := if h.lsp then s.pageKeys [(w, h.chunk)] else [] }
      let (d, s) := s.delay
      let c : Coll := { tag := t, sec := s.str.sec, baddr := s.str.pc, rcd := rcd, members := members, total := h.total
                        iters := its.zipIdx.map it, settled := 0, flags := 0, err := none, due := s.pkg.clock + d }
      .ok ((s.tagStart t.toNat (h.total * h.chunk)).onCore fun k => { k with colls := k.colls ++ [c] })

/-! ### The walker -/

def Core.onColl (k : Core) (t : BitVec 6) (f : Coll → Coll) : Core :=
  { k with colls := k.colls.map fun c => if c.tag = t then f c else c }

/-- Of two chunk errors that of the lower chunk; of one chunk's, the lower fault (21 R482). -/
def collErr (a b : Option (Nat × Trap)) : Option (Nat × Trap) :=
  match a, b with
  | none, b => b
  | a, none => a
  | some x, some y =>
    if y.1 < x.1 then some y
    else if y.1 = x.1 then (lowTrap (some x.2) (some y.2)).map fun t => (x.1, t)
    else some x

/-- A chunk settles at its member (21 R482): its issuer learns of it, wherever its gang is, and of a chunk that another
package sent, that package does. The record's CMD is the bundle of the COLL. -/
def State.settle (s : State) (c : Chunk) (fl : Flg) (err : Option Trap) : State :=
  match c.src with
  | none => match c.origin with
    | none => s
    | some o => s.onPkg fun pk => { pk with
        sent := pk.sent ++ [.chunk o.1 o.2 { flags := fl, fault := err.map fun t => (t.code, t.sub) }] }
  | some seat => s.onSeat seat fun k => k.onColl c.tag fun g =>
      { g with settled := g.settled + 1, flags := g.flags ||| fl
               err := collErr g.err (err.map fun t => (c.j, { t with cmd := some g.baddr })) }

/-- The fault record of a chunk that fails: its number and its member (21 R482). -/
def Chunk.trap (c : Chunk) (code : BitVec 8) (sub : BitVec 16) : Trap :=
  { code := code, sub := sub, va := if code = 0x14 ∧ sub = 4 then BitVec.ofInt 64 c.ra else 0
    aux0 := if code = 0x11 then c.tag.setWidth 64 else BitVec.ofNat 64 c.j
    aux1 := if code = 0x11 then 0 else BitVec.ofNat 64 c.member }

/-- 21 R481: the walker reads its next chunk, and the chunk departs. A poisoned or lost source byte makes the chunk settle
undelivered (18 R430). A read of bytes whose fill is outstanding waits (10 R288). -/
def execWalkerChunkRead (t : BitVec 6) (s : State) : Res :=
  match s.core.colls.find? (·.tag == t) with
  | none => .next s
  | some g => match g.iters with
    | [] => .next s
    | i :: rest =>
      let h := Nest.of g.rcd
      if (if s.str.sec == g.sec then s.str.mode else s.alt.mode) = .stopped ∨
          (i.data.isNone && s.core.filling [(i.src, h.chunk)]) = true then .next s
      else
        let m := (g.members.getD i.peer 0).toNat
        let bytes := i.data.getD (s.core.spad.readN i.src h.chunk)
        let poisoned := i.data.isNone && (s.core.poisonUnder [(i.src, h.chunk)]).isSome
        let (d, s) := s.delay
        let c : Chunk := { pkg := BitVec.ofNat 10 (m / 2 ^ 22), lid := s.core.lid, phnum := s.core.phnum, fn := s.core.fn
                           gang := BitVec.ofNat 16 (m / 2 ^ 6), tile := BitVec.ofNat 6 m, bytes := bytes, ra := i.ra
                           step := i.step, flag := h.flag, red := h.red, rsp := h.rsp, fsp := h.fsp, j := i.j
                           last := i.j + 1 == g.total, src := some s.core.seat, tag := t, member := i.peer
                           due := s.pkg.clock + d }
        let s := s.onCore fun k => k.onColl t fun g => { g with iters := rest, due := s.pkg.clock + d }
        if poisoned then .next (s.settle c 0 (some (c.trap 0x11 4)))
        else if i.bad.isSome then .next (s.settle c 0 i.bad)
        else .next (s.onPkg fun pk => { pk with chunks := pk.chunks ++ [c] })

/-! ### The receiving port -/

/-- The core that runs a chunk's member, while its gang's slot is RUNNING (21 R476). -/
def State.member (s : State) (c : Chunk) : Option Nat :=
  (s.ctxs.find? fun x => x.a.mode != .idle && x.core.lid == c.lid && x.core.phnum == c.phnum && x.core.fn == c.fn &&
    x.core.gang == c.gang && x.core.tile.toNat == c.tile.toNat &&
    (vget s.pkg.slots x.core.slot Slot.reset).st == .running).map (·.core.id)

/-- GEN of a flag, at the member in focus. -/
def State.flagGen (s : State) (fn : Nat) (glob : Bool) (flag : Word) : Nat :=
  match flagRef glob flag with
  | .pool a => objGen (s.core.objNum a)
  | .fixed _ loc => objGen (s.pkg.numPA loc 32)
  | .glob va => match s.objAt fn va with
    | some p => objGen (s.pkg.numPA p 32)
    | none => 0

def Cursor.names (u : Cursor) (seat : Nat) (c : Chunk) : Bool := u.seat == seat && u.flag == c.flag && u.fsp == c.fsp

/-- Chunks that wait in the skid buffer of core `id`. -/
def State.skid (s : State) (id : Nat) : List Chunk := s.pkg.chunks.filter fun x => x.held && s.member x == some id

/-- Those for one flag. -/
def State.heldFor (s : State) (id : Nat) (flag : Word) (fsp : Bool) : List Chunk :=
  (s.skid id).filter fun x => x.flag == flag && x.fsp == fsp

/-- Bytes of a port's skid buffer (21 R485). -/
def skidBytes : Nat := 262144

/-- Cursors of the port in focus whose generation has completed are freed, once no chunk is held for their flag
(21 R485). -/
def State.freeCursors (s : State) : State :=
  let past (u : Cursor) : Bool := u.seat == s.core.seat && s.flagGen u.fn u.fsp u.flag != u.gen &&
    (s.heldFor s.core.id u.flag u.fsp).isEmpty
  s.onPkg fun pk => { pk with cursors := pk.cursors.filter fun u => !past u }

/-- The bytes at `pas` combined with arriving ones, unit by unit; a unit with a poisoned old byte stays (18 R430). -/
def Package.landFar (pk : Package) (fn red : Nat) (pas : List PAddr) (bs : List Byte) : Package × Flg × Bool :=
  let n := redUnit red
  (List.range (bs.length / n)).foldl (fun acc i =>
    let at_ := (pas.drop (n * i)).take n
    if at_.any acc.1.poisonAt then (acc.1, acc.2.1, true)
    else
      let r := redBytes red (at_.map acc.1.readPA) ((bs.drop (n * i)).take n)
      (acc.1.perform fn (.bytes (at_.zip r.1)), acc.2.1 ||| r.2.1, acc.2.2)) (pk, 0, false)

/-- A chunk is written or combined, and its flag updated (21 R483). A unit with a poisoned byte that the combine would
read stays as it is, with fault 0x11 (18 R430). -/
def State.applyChunk (s : State) (c : Chunk) : State :=
  let ra : Word := BitVec.ofInt 64 c.ra
  let pas := s.pkg.physOf c.fn ra c.bytes.length
  let hot : Option Trap := some (c.trap 0x11 4)
  let (s, fl, err) : State × Flg × Option Trap :=
    if !c.rsp then
      let l := s.core.landCells c.red (poolAddr 0 ra) (cellsAt (poolAddr 0 ra) c.bytes)
      (s.onCore fun _ => l.core, l.flags, lowTrap (l.bad.map (c.trap 0x0E)) (if l.hot.isSome then hot else none))
    else if c.red = 0 then (s.onPkg fun pk => pk.perform c.fn (.bytes (pas.zip c.bytes)), 0, none)
    else
      let r := s.pkg.landFar c.fn c.red pas c.bytes
      (s.onPkg fun _ => r.1, r.2.1, if r.2.2 then hot else none)
  (s.updateRef c.fn (flagRef c.fsp c.flag) c.bytes.length (if c.last then 1 else 0)).settle c fl err

/-- What the port in focus finds of a chunk (21 R484): `none` where it discards it, else whether it waits, for a
write-blocked page or for a fill of bytes that it writes (10 R272, R288). -/
def State.portTakes (s : State) (c : Chunk) : Option Bool :=
  let own := (if c.rsp then [] else [(poolAddr 0 (BitVec.ofInt 64 c.ra), c.bytes.length)]) ++
    if c.fsp then [] else [(poolAddr 0 c.flag, 32)]
  match portAccess s.pkg s.core c.fn c.rsp c.ra c.bytes.length, portAccess s.pkg s.core c.fn c.fsp c.flag.toNat 32 with
  | some w1, some w2 => some (w1 || w2 || s.core.filling own)
  | _, _ => none

/-- Held chunks whose step the cursor has reached are taken in turn (21 R485), each checked again as it is written (11 R305,
R306). -/
def State.takeHeld (s : State) (flag : Word) (fsp : Bool) : Nat → State
  | 0 => s
  | n + 1 =>
    let mine (u : Cursor) : Bool := u.seat == s.core.seat && u.flag == flag && u.fsp == fsp
    match s.pkg.cursors.find? mine with
    | none => s
    | some u => match (s.heldFor s.core.id flag fsp).find? (·.step == u.next) with
      | none => s
      | some x =>
        let gone := s.onPkg fun pk => { pk with chunks := pk.chunks.erase x }
        match s.portTakes x with
        | none => gone.settle x 0 (some (x.trap 0x14 4))
        | some true => s
        | some false =>
          ((gone.onPkg fun pk => { pk with
            cursors := pk.cursors.map fun w => if mine w then { w with next := w.next + 1 } else w }).applyChunk x).takeHeld flag fsp n

/-- The port of the core in focus takes a chunk, already out of the list; a chunk that must wait goes back. -/
def State.receive (s : State) (c : Chunk) : State :=
  let seat := s.core.seat
  let wait (c : Chunk) (s : State) : State := s.onPkg fun pk => { pk with chunks := pk.chunks ++ [c] }
  match s.portTakes c with
  | none => s.settle c 0 (some (c.trap 0x14 4))
  | some true => wait c s
  | some false =>
    if c.red = 0 then s.applyChunk c
    else
      let s := s.freeCursors
      let known := s.pkg.cursors.any (·.names seat c)
      if !known && decide (16 ≤ s.pkg.cursors.countP (·.seat == seat)) then wait c s
      else
        let s := if known then s else s.onPkg fun pk => { pk with
          cursors := pk.cursors ++ [{ seat := seat, fn := c.fn, flag := c.flag, fsp := c.fsp, next := 0
                                      gen := s.flagGen c.fn c.fsp c.flag }] }
        let next := match s.pkg.cursors.find? (·.names seat c) with | some u => u.next | none => 0
        if c.step < next || (s.heldFor s.core.id c.flag c.fsp).any (·.step == c.step) then s.settle c 0 (some (c.trap 0x14 5))
        else if next < c.step then
          let used := ((s.skid s.core.id).map (·.bytes.length)).foldl (· + ·) 0
          wait { c with held := decide (used + c.bytes.length ≤ skidBytes) } s
        else
          let s := s.onPkg fun pk => { pk with
            cursors := pk.cursors.map fun u => if u.names seat c then { u with next := u.next + 1 } else u }
          ((s.applyChunk c).takeHeld c.flag c.fsp s.pkg.chunks.length).freeCursors

/-- The `k`-th chunk on its way arrives, or a held one is tried again (21 R483 to R485). A chunk for another package settles
there; what its port reports is an input, the next of `replies`. -/
def State.chunkArrives (s : State) (k : Nat) : State :=
  match s.pkg.chunks[k]? with
  | none => s
  | some c =>
    if c.held then
      match s.member c with
      | none => s
      | some id => s.atCore id fun s => (s.takeHeld c.flag c.fsp s.pkg.chunks.length).freeCursors
    else if c.pkg.toNat ≠ s.pkg.podn then
      let r := s.pkg.replies.headD {}
      let s := s.onPkg fun pk => { pk with chunks := pk.chunks.eraseIdx k, replies := pk.replies.tail }
      s.settle c r.flags (r.fault.map fun f => c.trap f.1 f.2)
    else match s.member c with
      | none => s
      | some id =>
        let s := s.onPkg fun pk => { pk with chunks := pk.chunks.eraseIdx k }
        s.atCore id fun s => s.receive c

/-- A chunk that another package sent, as it stands at the ports of this one: the package that sent it, and what it calls
the chunk, take the report (21 R482). -/
def Chunk.ofFar (podn clock : Nat) (c : FarChunk) : Chunk :=
  { pkg := BitVec.ofNat 10 podn, lid := c.lid, phnum := c.phnum, fn := c.fn.toNat, gang := c.gang, tile := c.tile
    bytes := c.bytes, ra := c.ra, step := c.step, flag := c.flag, red := c.red, rsp := c.rsp, fsp := c.fsp, j := 0
    last := c.last, src := none, tag := 0, member := 0, due := clock, origin := some (c.pkg, c.ref) }

/-- 21 R483 to R485: a chunk arrives at its member's port, of this package's walkers or of another package's; one that its
port does not take yet stays on its way. -/
def execChunkArrival (c : ChunkSrc) (s : State) : Res :=
  match c with
  | .own k => .next (s.chunkArrives k)
  | .far f => .next ((s.onPkg fun pk => { pk with chunks := pk.chunks ++ [.ofFar pk.podn pk.clock f] }).chunkArrives s.pkg.chunks.length)

/-- 21 R482, R486. -/
def execCollectiveCompletion (t : BitVec 6) (s : State) : Res :=
  match s.core.colls.find? (·.tag == t) with
  | none => .next s
  | some g =>
    let done (g : Coll) (s : State) : State :=
      s.onCore fun k => ({ k with colls := k.colls.filter (·.tag != t) } : Core).tagDone t.toNat g.flags (g.err.map Prod.snd)
    if !g.iters.isEmpty || g.settled != g.total then .next s
    else if g.note then
      match s.noteFlag (Nest.of g.rcd) g.baddr with
      | (s, some e) => .next (done { g with err := e } s)
      | (s, none) => .next s
    else .next (done g s)

end Sys2Proof.Machine
end

