-- ==== Sys2Proof/Machine/Sha.lean ====
section
/-! DEFINITION. SHAKE256 with 512-bit output, which DIGEST computes and measurements use (18 R435; 22 R501): the
sponge of FIPS 202 over the permutation of 1,600 bits in 24 rounds, to which the spec's name refers
(PRESUMED, unsafe: notes/assumptions/35.md). The state is 25 words, that of column x and row y at 5 y + x; the turns of the
words and the constants of the rounds are computed as the standard defines them. -/
namespace Sys2Proof.Machine

/-- The walk over the 24 words beside (0, 0): each step's words move on to the next step's place. -/
def sponge.walk : Nat → Nat × Nat
  | 0 => (1, 0)
  | t + 1 =>
    let p := sponge.walk t
    (p.2, (2 * p.1 + 3 * p.2) % 5)

/-- The feedback register of 8 bits whose lowest bit after `t` steps is a bit of a round's constant. -/
def sponge.feedback : Nat → Nat
  | 0 => 1
  | t + 1 =>
    let r := sponge.feedback t
    if 128 ≤ r then (2 * r - 256) ^^^ 0x71 else 2 * r

/-- The constant of round `i`: seven bits, at the places 2^j - 1. -/
def sponge.constant (i : Nat) : Word :=
  BitVec.ofNat 64 ((List.range 7).foldl (fun n j => n + sponge.feedback (7 * i + j) % 2 * 2 ^ (2 ^ j - 1)) 0)

/-- Every word takes the parities of its two neighbour columns. -/
def sponge.mix (a : List Word) : List Word :=
  let parity := (List.range 5).map fun x => (List.range 5).foldl (fun w y => w ^^^ a.getD (5 * y + x) 0) 0
  a.zipIdx.map fun w => w.1 ^^^ parity.getD ((w.2 + 4) % 5) 0 ^^^ (parity.getD ((w.2 + 1) % 5) 0).rotateLeft 1

/-- The words turn and move one step along the walk. -/
def sponge.turn (a : List Word) : List Word :=
  (List.range 24).foldl (fun b t =>
    let p := sponge.walk t
    let q := sponge.walk (t + 1)
    b.set (5 * q.2 + q.1) ((a.getD (5 * p.2 + p.1) 0).rotateLeft ((t + 1) * (t + 2) / 2 % 64))) a

/-- Within a row each word takes the two words after it. -/
def sponge.rows (a : List Word) : List Word :=
  a.zipIdx.map fun w =>
    let at_ (n : Nat) : Word := a.getD (w.2 / 5 * 5 + (w.2 + n) % 5) 0
    w.1 ^^^ (at_ 2 &&& ~~~at_ 1)

def sponge.round (a : List Word) (i : Nat) : List Word :=
  match sponge.rows (sponge.turn (sponge.mix a)) with
  | w :: ws => (w ^^^ sponge.constant i) :: ws
  | [] => []

def sponge.permute (a : List Word) : List Word := (List.range 24).foldl sponge.round a

/-- A block of 136 bytes taken in. -/
def sponge.take (a : List Word) (bs : List Byte) : List Word :=
  sponge.permute (a.zipIdx.map fun w => w.1 ^^^ BitVec.ofNat 64 (el (ofBytes bs) 64 w.2))

/-- The message with its suffix and padding, a multiple of 136 bytes. -/
def sponge.padded (m : List Byte) : List Byte :=
  let z := 135 - m.length % 136
  if z = 0 then m ++ [0x9F] else m ++ [0x1F] ++ List.replicate (z - 1) 0 ++ [0x80]

/-- SHAKE256, 64 bytes of output. -/
def shake256 (m : List Byte) : List Byte :=
  let p := sponge.padded m
  let a := (pieces 136 (p.length / 136) p).foldl sponge.take (List.replicate 25 0)
  toBytes 64 (ofEls 64 ((a.take 8).map BitVec.toNat))

end Sys2Proof.Machine
end

