-- ==== Sys2Proof/Machine/Msg.lean ====
section
/-! DEFINITION. Messages, barriers and neighbour stores: major 26 (08 R223 to R235). -/
namespace Sys2Proof.Machine

/-! ### Messages -/

/-- A core of the issuer's gang by its tile coordinates. -/
def State.mate (s : State) (x y : Nat) : Option CoreCtx :=
  s.ctxs.find? fun c => c.a.mode != .idle && c.core.slot == s.core.slot && c.core.lid == s.core.lid &&
    c.core.phnum == s.core.phnum && c.core.fn == s.core.fn && c.core.gang == s.core.gang &&
    c.core.tx.toNat == x && c.core.ty.toNat == y

def Core.chan (k : Core) (ch : Nat) : List Msg := vget k.chans ch []

/-- 08 R223 to R225: a slot of the destination channel is taken at issue; messages of one sender arrive in order. -/
def sendForm (s : State) (dst : Word) (vec : Bool) (data : VReg) : Try State := do
  let w := dst.toNat
  let x := bits w 7 0
  let y := bits w 15 8
  let ch := bits w 19 16
  trapIf s (decide (2 ^ 20 ≤ w ∨ s.core.gw.toNat ≤ x ∨ s.core.gh.toNat ≤ y)) 0x01 5
  primaryOnly s
  match s.mate x y with
  | none => .error (.hold s)
  | some c =>
    let q := c.core.chan ch
    holdIf s (decide (4 ≤ q.length))
    let (d, s) := s.delay
    let before := (q.filter fun m => m.fx == s.core.tx && m.fy == s.core.ty).foldl (fun n m => max n m.arrive) 0
    let m : Msg := { fx := s.core.tx, fy := s.core.ty, ts := s.str.lcc, vec := vec, data := data
                     arrive := max before (s.pkg.clock + d) }
    .ok (s.onCoreId c.core.id fun c => { c with core := { c.core with chans := vset c.core.chans ch (c.core.chan ch ++ [m]) } })

/-- 08 Table 9, cfn 0. -/
def execSend (a x : BitVec 5) (s : State) : Res := finish (sendForm s (s.rx a) false ((s.rx x).setWidth 4096))
/-- 08 Table 9, cfn 1. -/
def execSendv (a : BitVec 5) (v : BitVec 6) (s : State) : Res := finish (sendForm s (s.rx a) true (s.rv v))

/-- 08 R226, R234: the message that a receive takes. -/
def recvForm (s : State) (h : BitVec 4) (sel : Word) (vec : Bool) : Try (State × VReg) := do
  let w := sel.toNat
  let x := BitVec.ofNat 8 (bits w 55 48)
  let y := BitVec.ofNat 8 (bits w 63 56)
  let ts := BitVec.ofNat 48 w
  primaryOnly s
  trapWith s (decide (s.core.gw.toNat ≤ x.toNat ∨ s.core.gh.toNat ≤ y.toNat))
    { code := 0x08, sub := 2, aux0 := ts.setWidth 64 }
  let q := s.core.chan h.toNat
  match q.find? fun m => m.fx == x && m.fy == y with
  | none => .error (.hold s)
  | some m => do
    holdIf s (decide (s.pkg.clock < m.arrive))
    trapWith s (m.ts != ts) { code := 0x08, aux0 := ts.setWidth 64, aux1 := m.ts.setWidth 64 }
    trapWith s (m.vec != vec) { code := 0x08, sub := 1, aux0 := ts.setWidth 64, aux1 := m.ts.setWidth 64 }
    .ok (s.onCore fun k => { k with chans := vset k.chans h.toNat (q.erase m) }, m.data)

/-- 08 Table 9, cfn 2. -/
def execRecv (h : BitVec 4) (b d : BitVec 5) (s : State) : Res :=
  finish do
    let (s, v) ← recvForm s h (s.rx b) false
    .ok (s.emitX d 3 (v.setWidth 64))

/-- 08 Table 9, cfn 3. -/
def execRecvv (h : BitVec 4) (b : BitVec 5) (d : BitVec 6) (s : State) : Res :=
  finish do
    let (s, v) ← recvForm s h (s.rx b) true
    .ok (s.emit (.v d (BitVec.allOnes 4096) v) 3)

/-- The `k`-th message of a channel reaches the core in focus, and every earlier one of its sender (08 R224). -/
def execMessageArrival (ch : BitVec 4) (k : Nat) (s : State) : Res :=
  let q := s.core.chan ch.toNat
  match q[k]? with
  | none => .next s
  | some m =>
    let due (x : Msg × Nat) : Msg :=
      if x.2 ≤ k ∧ x.1.fx = m.fx ∧ x.1.fy = m.fy then { x.1 with arrive := min x.1.arrive s.pkg.clock } else x.1
    .next (s.onCore fun c => { c with chans := vset c.chans ch.toNat (q.zipIdx.map due) })

/-! ### Barriers -/

/-- The quad of a gang that a core serves: its place in the gang's rectangle, counted from the quad of the corner, which
a move to a corner of the same parity keeps (09 R258). -/
def Core.quadSeat (k : Core) : Nat :=
  let along (bit tile : Nat) : Nat := ((bit + tile) % 2 + tile) / 2
  64 * k.slot + 8 * along (k.id / 2 % 2) k.ty.toNat + along (k.id % 2) k.tx.toNat

/-- The barrier of a scope that a core's task belongs to (08 R228). (DESIGN CHOICE, safe: notes/assumptions/56.md.) -/
def Core.barKey (k : Core) (scope : BitVec 3) : Nat :=
  match scope.toNat with
  | 1 => k.seat
  | 2 => k.quadSeat
  | 3 => k.slot
  | _ => k.bgrp.toNat

def State.barKey (s : State) (scope : BitVec 3) : Nat := s.core.barKey scope

def State.me (s : State) : Nat := 2 * s.core.seat + if s.str.sec then 1 else 0

def Package.bar (pk : Package) (scope : BitVec 3) (key : Nat) : Bar :=
  (pk.bars.find? fun b => b.scope == scope && b.key == key).getD { scope := scope, key := key, gen := 0, arrived := [] }

def Package.setBar (pk : Package) (b : Bar) : Package :=
  { pk with bars := (pk.bars.filter fun c => !(c.scope == b.scope && c.key == b.key)) ++ [b] }

/-- Every member of a barrier on this package has arrived or, at CORE, QUAD and DIE, completed, whether its gang holds
cores or is saved; at PKG the group's expected count is there (08 R228, R229). -/
def State.barFull (s : State) (b : Bar) : Bool :=
  let here (c : CoreCtx) (t : Stream) : Bool := b.arrived.contains (2 * c.core.seat + if t.sec then 1 else 0)
  let past (c : CoreCtx) (t : Stream) : Bool := t.mode == .idle || t.mode == .done || here c t
  let mine := s.tasks.filter fun c => c.core.barKey b.scope == b.key
  let group := mine.filter fun c => c.core.bcount != 0
  match b.scope.toNat with
  | 1 => mine.all fun c => past c c.a && past c c.b
  | 2 | 3 => mine.all fun c => past c c.a
  | 4 => group.any fun c => decide (c.core.bcount ≤ b.arrived.length)
  | _ => group.all fun c => here c c.a

/-- The outstanding arrival of the stream in focus at a scope, while its generation has not completed. -/
def State.arrival (s : State) (scope : BitVec 3) : Option Nat := (s.str.arrivals.find? (·.1 == scope)).map (·.2)
def State.arrivalOpen (s : State) (scope : BitVec 3) : Bool :=
  match s.arrival scope with
  | some g => g == (s.pkg.bar scope (s.barKey scope)).gen
  | none => false

/-- Faults of ARRIVE and WAIT (08 R217, R228). -/
def barChecks (s : State) (c : BitVec 3) : Try Unit := do
  trapIf s (decide (4 ≤ c.toNat) && (s.core.bcount == 0 || decide (c.toNat = 5) && s.pkg.active.isNone)) 0x01 7
  trapIf s (s.str.sec && c != 1) 0x03 0

/-- 08 R229, R231: an ARRIVE is a release; a second one waits for the generation of the first. -/
def execArrive (c : BitVec 3) (s : State) : Res :=
  finish do
    trapIf s (!barScopeLegal c) 0x01 0
    barChecks s c
    holdIf s (s.arrivalOpen c || s.unperformed)
    let b := s.pkg.bar c (s.barKey c)
    let s := s.onPkg fun pk => pk.setBar { b with arrived := b.arrived ++ [s.me] }
    .ok (s.onStr fun t => { t with arrivals := (t.arrivals.filter (·.1 != c)) ++ [(c, b.gen)] })

/-- 08 R229, R231: a WAIT holds until its arrival's generation completes, and until the stream's earlier acquires have been
performed (11 R297). At CORE it then clears the row marks, if both
streams arrived (08 R218). -/
def execWait (c : BitVec 3) (s : State) : Res :=
  finish do
    trapIf s (!barScopeLegal c) 0x01 0
    barChecks s c
    holdIf s (s.arrivalOpen c || s.unacquired)
    let clear := c == 1 && !s.str.sec && (s.arrival c).isSome && (s.pkg.bar c (s.barKey c)).both
    let s := s.onStr fun t => { t with arrivals := t.arrivals.filter (·.1 != c) }
    .ok (if clear then s.onCore fun k => { k with marks := [] } else s)

/-- 08 R229: the generation completes and the next begins. The arrivals of other packages at a POD barrier come by
link-control flits (21 R475): with every local member there, this event stands for the last of them. (DEDUCED, safe: notes/assumptions/40.md.) -/
def execBarrierGenerationComplete (scope : BitVec 3) (key : Nat) (s : State) : Res :=
  let b := s.pkg.bar scope key
  if !b.arrived.isEmpty && s.barFull b then
    .next (s.onPkg fun pk => pk.setBar { b with gen := b.gen + 1, arrived := []
                                                both := b.arrived.contains (2 * key) && b.arrived.contains (2 * key + 1) })
  else .next s

/-! ### Neighbour stores -/

/-- Place of a neighbour write in its lc: after every effect of the target, by issuing core (08 R235). -/
def neighbourSeq (id : Nat) : Nat := 2 ^ 66 + id

/-- 08 R235. -/
def execNstv (a : BitVec 5) (m : BitVec 2) (v : BitVec 6) (s : State) : Res :=
  finish do
    let la := s.rx a
    trapIf s (!s.core.lock) 0x01 6
    primaryOnly s
    let p ← s.lspace la 512 512
    let target := s.core.id / 4 * 4 + m.toNat
    let s ← (if target = s.core.id then s.lacc true 2 la [(p, 512)]
      else do
        holdIf s ((s.ctxs.find? (·.core.id == target)).any fun c => c.core.mustWait [(p, 512)])
        match s.watched false la.toNat 512 with
        | some (u, w) => .error (.trap s (watchTrap u w))
        | none => .ok s : Try State)
    let e : StoreEff := { cells := cellsAt p (toBytes 512 (s.rv v).toNat), left := 2, seq := neighbourSeq s.core.id }
    .ok (s.onCoreId target fun c => { c with core := { c.core with stores := c.core.stores ++ [e] } })

end Sys2Proof.Machine
end

