-- ==== Sys2Proof/Machine/Dbg.lean ====
section
/-! DEFINITION. Debug, trace and profiling: major 29 and the sampling of 20 (R448 to R462). -/
namespace Sys2Proof.Machine

/-- A unit that works only with DBGEN = 1 (20 R457). -/
def dbgGate (s : State) : Bool × Trap := (!s.dbgen, { code := 0x04, sub := 1 })

def shape90 : Trap := { code := 0x0E, sub := 0x90 }

/-- 20 R458. -/
def execDtrace (a : BitVec 5) (s : State) : Res :=
  finish (.ok (s.onPkg fun pk => pk.trace s.core 1 s.str.sec 3 0 0 s.str.pc s.str.lcc (s.rx a).toNat))

/-- A counter of a loop entry: LC, USED0 to USED7, FROZEN (20 R452). (DEDUCED, unsafe: notes/assumptions/21.md.) -/
def Loop.counter (l : Loop) (c : Nat) : Nat :=
  if c = 0 then min l.lc (2 ^ 32 - 1)
  else if c < 9 then min (l.used.getD (c - 1) 0) (2 ^ 32 - 1)
  else min l.frozen (2 ^ 48 - 1)

/-- 20 R459. -/
def execLpcrd (a d : BitVec 5) (s : State) : Res :=
  finish do
    let x := (s.rx a).toNat
    let c := bits x 5 2
    trapWith s (decide (64 ≤ x ∨ 9 < c)) shape90
    let v : Word := match s.str.loops[bits x 1 0]? with
      | some l => BitVec.ofNat 64 (l.counter c)
      | none => 0
    .ok (if c = 9 ∧ v ≠ 0 ∨ c = 0 ∧ s.str.sec = true then (s.cause 0x05 v).emitX d 1 (s.replayed v) else s.emitX d 1 v)

/-- 20 R460: the flip comes after every other update of its lc. -/
def execDinjA (a b : BitVec 5) (s : State) : Res :=
  finish do
    let n := (s.rx a).toNat
    let w := (s.rx b).toNat
    trapLow s [(s.str.sec, { code := 0x03 }), dbgGate s, (s.core.badAcc (n % 256), { code := 0x06 }),
      (decide (256 ≤ n ∨ 2 ^ 14 ≤ w), shape90)]
    .ok (s.mxPend (.flip n (64 * bits w 13 6 + bits w 5 0)) 0 4)

/-- 20 R461 in L-space: a store effect at issue + 1 that flips one bit. (DEDUCED, unsafe: notes/assumptions/41.md.) -/
def execDinjM (a b : BitVec 5) (m : BitVec 2) (s : State) : Res :=
  finish do
    let la := s.rx a
    trapIf s (decide (2 ≤ m.toNat)) 0x01 0
    trapLow s [dbgGate s, (!s.core.inBounds s.str.spb la 1, { code := 0x06, va := la }),
      (decide (8 ≤ (s.rx b).toNat) || m == 1, shape90)]
    let p := poolAddr s.str.spb la
    let s ← s.lacc true 1 la [(p, 1)]
    let e : StoreEff := { cells := [(p, 1#8 <<< (s.rx b).toNat)], left := 1, seq := s.core.effSeq s.str.sec 3, sec := s.str.sec
                          xor := true }
    .ok (s.onCore fun k => { k with stores := k.stores ++ [e] })

/-- 20 R461 in global space: m = 0 as a relaxed AMXOR of the aligned word, m = 1 poisons the granule. -/
def execDinjgM (a b : BitVec 5) (m : BitVec 2) (s : State) : Res :=
  finish do
    let va := s.rx a
    let bit := (s.rx b).toNat
    trapIf s (decide (2 ≤ m.toNat)) 0x01 0
    trapLow s [dbgGate s]
    let s ← s.gcheckFn s.core.fn { r := true, w := true } [(va, 1)] fun pk =>
      lowTrap (tierFault s.core.fn va (if m = 1 then 15 else 5) pk) (if 8 ≤ bit then some shape90 else none)
    if m = 1 then
      .ok (s.onPkg fun pk => { pk with
        poison := (pk.poison ++ (pk.physOf s.core.fn va 1).map fun (p : PAddr) => p.addr / 32).eraseDups })
    else
      atomG s { glob := true, op := 5, n := 8, va := va >>> 3 <<< 3, d := 0, data := 2 ^ (8 * (va.toNat % 8) + bit)
                cmp := 0, acq := false, rel := false, flags := 0, res := none }

/-- 20 R462. -/
def execDbrk (s : State) : Res := finish (.error (.trap s { code := 0x17, sub := 4 }))

/-- The lc at which the bundle at a stream's PC is to issue (20 R450): past the empty lc of a taken branch (01 R23) and, where
a freeze found the core's engine after its primary bundle, past the lc in hand. -/
def Core.nextLc (k : Core) (t : Stream) : BitVec 48 :=
  t.lcc + BitVec.ofNat 48 t.gap + if !t.sec && k.run == .frozen && k.lcPart == .after then 1 else 0

/-- A SAMPLE record of each stream bound on the core in focus (20 Table 3). -/
def execTraceSample (s : State) : Res :=
  let one (t : Stream) (s : State) : State :=
    if t.mode == .idle then s
    else
      let stuck := s.core.run == .frozen || t.held
      s.onPkg fun pk => pk.trace s.core 3 t.sec 1 0 0 t.pc (s.core.nextLc t) (if stuck then 1 else 0)
  .next (one s.ctx.b (one s.ctx.a s))

end Sys2Proof.Machine
end

