-- ==== Sys2Proof/Machine/Events.lean ====
section
/-! DEFINITION. What lands and arrives in a core (01 R21, R38, R45; 06 R180; 10 R270, R282), the precise stop as an
event, the completion of a stream and the commit of a phase (04 R139; 08 R207). -/
namespace Sys2Proof.Machine

/-! ### Results -/

/-- A result that lands now: its lc has come and its bytes are there. A primary result that brings a fault does not
land; nothing is written (18 R430). -/
def Pending.due (p : Pending) (clock : Nat) : Bool := p.left == 0 && decide (p.arrive ≤ clock)

/-- The fault that the results due now bring to the bundle in hand, the lowest of them. (DEDUCED, unsafe: notes/assumptions/27.md.) -/
def Stream.landFault (t : Stream) (clock : Nat) : Option Trap :=
  (t.pend.filter fun p => p.due clock).foldl (fun f p => lowTrap f p.fault) none

/-- The primary's result of this lc has not arrived: the core freezes (10 R282). -/
def Stream.late (t : Stream) (clock : Nat) : Bool := t.pend.any fun p => p.left == 0 && decide (clock < p.arrive)

/-- 01 R21, R22: the results of the stream in focus that are due land. -/
def execResultLanding (s : State) : Res :=
  let c := s.pkg.clock
  let due := s.str.pend.filter fun p => p.due c && p.fault.isNone
  .next ((s.onStr fun t => { t with pend := t.pend.filter fun p => !(p.due c && p.fault.isNone) }).landAll due)

/-- 10 R282: the reply to the `k`-th of the results on their way arrives. -/
def execGlobalLoadReply (k : Nat) (s : State) : Res :=
  match s.str.pend[k]? with
  | some p => .next (s.onStr fun t => { t with pend := t.pend.set k { p with arrive := min p.arrive s.pkg.clock } })
  | none => .next s

/-- 10 R270: the translations that the bundle in hand waits for complete; its next attempt finds them. -/
def execTranslationReply (s : State) : Res :=
  .next (s.onStr fun t => { t with xlate := t.xlate.map fun c => min c s.pkg.clock })

/-! ### Store effects and summary results -/

/-- A pending summary result as a store effect; a build with no active element writes nothing (06 R180, R182). -/
def SumPend.eff (p : SumPend) : StoreEff :=
  { cells := if p.write then cellsAt p.addr p.bytes else [], left := p.left, seq := p.seq, sec := p.sec }

/-- A store effect is applied: bytes, row marks and the banks it uses, as an access of its bundle (01 R39, R40; 08 R216,
R218). -/
def Core.applyEff (k : Core) (e : StoreEff) : Core :=
  let cells := if e.xor then e.cells.map fun c => (c.1, k.spad.read c.1 ^^^ c.2) else e.cells
  let k := if e.xor then { k with spad := k.spad.writeCells cells } else k.poolWrite cells
  let k := k.mark e.sec (cells.flatMap fun c => rowsOf c.1 1).eraseDups
  if cells.isEmpty then k
  else { k with touched := k.touched ++ [(if e.sec then e.seq / 16 + 1 else 0, (cells.flatMap fun c => banksOf c.1 1).eraseDups)] }

def Core.applyEffs (k : Core) (es : List StoreEff) : Core :=
  (sortBy (fun a b => decide (a.seq ≤ b.seq)) es).foldl Core.applyEff k

/-- A store effect that is due meets a row that a copy keeps busy, or a fill on its way (10 R288; 14 R376). -/
def Core.effBlocked (k : Core) (e : StoreEff) : Bool := k.mustWait (e.cells.map fun c => (c.1, 1))

/-- The effects due in this lc are applied, store effects and summary results together in issue order (01 R38); one of the
secondary that must wait is kept (14 R376). Without `own`, the primary's are kept (18 R427); with `near`, writes of
neighbours land all the same (DEDUCED, unsafe: notes/assumptions/37.md). -/
def Core.landEffects (k : Core) (own near : Bool) : Core :=
  let due (e : StoreEff) : Bool :=
    e.left == 0 && (e.sec && !k.effBlocked e || !e.sec && (own || near && decide (neighbourSeq 0 ≤ e.seq)))
  let dueSum (p : SumPend) : Bool := p.left == 0 && (p.sec && !k.effBlocked p.eff || !p.sec && own)
  let rest : Core := { k with stores := k.stores.filter fun e => !due e, chain := k.chain.filter fun p => !dueSum p }
  rest.applyEffs (k.stores.filter due ++ (k.chain.filter dueSum).map SumPend.eff)

/-- 01 R38. -/
def execStoreEffect (s : State) : Res :=
  .next (s.onCore fun k =>
    let rest : Core := { k with stores := k.stores.filter (·.left != 0) }
    rest.applyEffs (k.stores.filter (·.left == 0)))

/-- 06 R180. -/
def execSummaryResultLanding (s : State) : Res :=
  .next (s.onCore fun k =>
    let rest : Core := { k with chain := k.chain.filter (·.left != 0) }
    rest.applyEffs ((k.chain.filter (·.left == 0)).map SumPend.eff))

/-! ### Stops and completions -/

/-- 01 R44: the stream in focus stops before the bundle at its PC. -/
def execPreciseStop (code : BitVec 8) (sub : BitVec 16) (s : State) : Res :=
  .next (if s.str.mode = .running then s.takeTrap { code := code, sub := sub } else s)

/-- Nothing that the stream in focus issued is still on its way (04 R139), nor a write of it into a neighbour (08 R221,
R235). -/
def State.drained (s : State) : Bool :=
  let k := s.core
  s.str.pend.isEmpty && s.str.gq.isEmpty && !(k.stores.any fun e => e.sec == s.str.sec && decide (e.seq < neighbourSeq 0)) &&
  !(s.ctxs.any fun c => c.core.stores.any fun e => e.sec == s.str.sec && e.seq == neighbourSeq k.id) &&
  !(k.chain.any fun p => p.sec == s.str.sec) &&
  !(k.copies.any fun c => c.sec == s.str.sec && !c.runs.isEmpty) &&
  (s.str.sec || !k.mxBusy && k.mxpend.isEmpty && k.beats.isEmpty)

def CoreCtx.over (c : CoreCtx) : Bool := c.a.mode == .done && (c.b.mode == .done || c.b.mode == .idle)

/-- Tasks bound from a slot. -/
def State.gangOf (s : State) (slot : Nat) : List CoreCtx := s.ctxs.filter fun c => c.a.mode != .idle && c.core.slot == slot

/-- A core whose task has gone: idle, with its SRAM and its breakpoint units as they stand
(DEDUCED, unsafe: notes/assumptions/33.md). -/
def CoreCtx.release (c : CoreCtx) : CoreCtx :=
  { core := { (Core.reset c.core.id) with spad := c.core.spad, poison := c.core.poison, bpctl := c.core.bpctl
                                          bpval := c.core.bpval, run := c.core.run, lcPart := c.core.lcPart }
    a := Stream.reset false, b := Stream.reset true }

/-- The cores of a slot are released. -/
def State.releaseSlot (s : State) (slot : Nat) : State :=
  s.onAll fun c => if c.a.mode != .idle && c.core.slot == slot then c.release else c

/-- The phase of a gang: that of its function, LID and phase number (21 R476). Two launches that carry equal ones are taken as
of one phase (DESIGN CHOICE, unsafe: notes/assumptions/90.md). -/
def Phase.names (p : Phase) (fn : Nat) (lid : Word) (num : BitVec 16) : Bool := p.fn == fn && p.lid == lid && p.num == num

/-- A gang leaves its phase (08 R207). -/
def Package.gangDone (pk : Package) (fn : Nat) (lid : Word) (num gang : BitVec 16) : Package :=
  { pk with phases := pk.phases.map fun p => if p.names fn lid num then { p with live := p.live.erase gang } else p }

/-- The tasks of a slot are gone: no chunk settles with one of them, no cursor or arrival of theirs is left, and a migration
of theirs goes on without its tag (15 R408). (DEDUCED, unsafe: notes/assumptions/78.md.) -/
def Package.unseat (pk : Package) (slot : Nat) (ids : List Nat) : Package :=
  let mine (seat : Nat) : Bool := seat / 64 == slot
  { pk with
    chunks := pk.chunks.map fun c => if c.src.any mine then { c with src := none } else c
    cursors := pk.cursors.filter fun u => !mine u.seat
    bars := (pk.bars.filter fun b => match b.scope.toNat with
      | 1 | 2 => !mine b.key
      | 3 => b.key != slot
      | _ => true).map fun b => { b with arrived := b.arrived.filter fun a => !mine (a / 2) }
    migrations := pk.migrations.map fun m => if ids.contains m.core then { m with tag := none } else m }

/-- An arrival in a barrier group that no task holds any more: it counts for the generation it joined, whatever gang takes its
slot next (08 R229). -/
def departed (a : Nat) : Nat := 2 * 64 * 256 + a

def Bar.depart (b : Bar) (slot : Nat) : Bar :=
  if 4 ≤ b.scope.toNat then { b with arrived := b.arrived.map fun a => if a / 128 = slot then departed a else a } else b

/-- The gang of a slot has completed: its phase no longer waits for it, and the slot is FREE (09 Table 6). What its tasks
count for in a barrier group goes on counting. -/
def State.gangComplete (s : State) (slot : Nat) : State :=
  let k := s.core
  let s := s.onPkg fun pk => { (pk.gangDone k.fn k.lid k.phnum k.gang) with
    slots := vset pk.slots slot Slot.reset, cursors := pk.cursors.filter fun u => u.seat / 64 != slot
    bars := pk.bars.map (·.depart slot) }
  s.releaseSlot slot

/-- 04 R139: a stream that has ended completes once its work has; its core's log goes to the Puppeteer (18 R437). With the
last of its gang's the slot is FREE, unless a STOP has been accepted: STOPPING is left through the end of the stop alone
(09 Table 6). -/
def execStreamCompletion (s : State) : Res :=
  if s.str.mode = .ended ∧ s.drained = true then
    let k := s.core
    let s := s.onStr fun t => { t with mode := .done }
    let s := s.onPkg fun pk => { pk with puppet := pk.puppet ++ [.completion k.id s.str.sec k.clog k.clogOvf] }
    let gang := s.gangOf k.slot
    .next (if gang.all CoreCtx.over && (vget s.pkg.slots k.slot Slot.reset).st != .stopping then s.gangComplete k.slot else s)
  else .next s

/-- 08 R207, R210: a phase with no gang left commits; the tracking entries of a deterministic phase are cleared. -/
def execPhaseCommit (launch : LaunchId) (phase : BitVec 16) (s : State) : Res :=
  match s.pkg.phases.find? (·.names launch.fn.toNat launch.lid phase) with
  | some p =>
    if p.wanted.isEmpty && p.live.isEmpty then
      .next (s.onPkg fun pk =>
        let pk := { pk with phases := pk.phases.erase p }
        if p.free then pk else
          let key := (launch.fn.toNat, launch.lid, phase)
          { pk with tracking := pk.tracking.filter fun t => (t.fn, t.lid, t.num) != key
                    trackFull := pk.trackFull.filter (·.2 != key), trackTold := pk.trackTold.filter (·.2 != key) })
    else .next s
  | none => .next s

end Sys2Proof.Machine
end

