-- ==== Sys2Proof/Machine/Branch.lean ====
section
/-! DEFINITION. Reading the image, branches, jumps and hardware loops: majors 5 and 6 (04 R125 to R133). A taken
branch notes its target in `next`; `step` moves the PC and takes the two empty lc of 01 R23. -/
namespace Sys2Proof.Machine

/-- The syllable at an address of the loaded images (01 R42). -/
def Core.word (k : Core) (a : Word) : Option (BitVec 32) :=
  k.images.findSome? fun im =>
    if (a - im.1).toNat % 4 = 0 then im.2[(a - im.1).toNat / 4]? else none

/-- Address of the bundle in layout after the one in hand. -/
def Stream.after (t : Stream) : Word := t.pc + BitVec.ofNat 64 (4 * t.len)

/-- Address of the bundle after the one that holds the syllable at `e` (04 R130). -/
def Core.bundleEnd (k : Core) : Nat → Word → Word
  | 0, e => e
  | n + 1, e => match k.word e with
    | some w => if w.getLsbD 31 then e + 4 else k.bundleEnd n (e + 4)
    | none => e + 4

/-- A taken branch: the stream continues at `a` (01 R23). -/
def State.branchTo (s : State) (a : Word) : State := s.onStr fun t => { t with next := some a }

/-- A word displacement from the bundle in hand (03 R90). -/
def State.near (s : State) {n : Nat} (d : BitVec n) : Word := s.str.pc + d.signExtend 64 * 4

/-- The innermost loop entry is popped, with its LOOPEND record (20 R450). -/
def State.popLoop (s : State) : State :=
  match s.str.loops with
  | [] => s
  | l :: rest =>
    { s with str := { s.str with loops := rest }
             pkg := s.pkg.trace s.core 2 s.str.sec 2 0 rest.length s.str.pc s.str.lcc
               (min l.lc (2 ^ 32 - 1) + min l.frozen (2 ^ 32 - 1) * 2 ^ 32) }

/-- 04 R132: the innermost entries whose body does not hold the target are popped. -/
def State.leaveLoops (s : State) (target : Word) : Nat → State
  | 0 => s
  | n + 1 => match s.str.loops with
    | [] => s
    | l :: _ => if l.body ≤ target ∧ target ≤ l.last then s else s.popLoop.leaveLoops target n

/-- A branch or jump of majors 5 and 6 that may leave loops. -/
def State.jumpTo (s : State) (a : Word) : State := (s.leaveLoops a 4).branchTo a

def branchForm (s : State) (taken : Bool) (d : BitVec 13) : Res :=
  finish (.ok (if taken then s.jumpTo (s.near d) else s))

/-- 04 Table 7, c 0. -/
def execBeq (a b : BitVec 5) (d : BitVec 13) (s : State) : Res := branchForm s (s.rx a == s.rx b) d
/-- 04 Table 7, c 1. -/
def execBne (a b : BitVec 5) (d : BitVec 13) (s : State) : Res := branchForm s (s.rx a != s.rx b) d
/-- 04 Table 7, c 2. -/
def execBlt (a b : BitVec 5) (d : BitVec 13) (s : State) : Res := branchForm s ((s.rx a).slt (s.rx b)) d
/-- 04 Table 7, c 3. -/
def execBge (a b : BitVec 5) (d : BitVec 13) (s : State) : Res := branchForm s (!(s.rx a).slt (s.rx b)) d
/-- 04 Table 7, c 4. -/
def execBltu (a b : BitVec 5) (d : BitVec 13) (s : State) : Res := branchForm s ((s.rx a).ult (s.rx b)) d
/-- 04 Table 7, c 5. -/
def execBgeu (a b : BitVec 5) (d : BitVec 13) (s : State) : Res := branchForm s (!(s.rx a).ult (s.rx b)) d
/-- 04 Table 7, c 6. -/
def execBp (p : BitVec 4) (d : BitVec 13) (s : State) : Res := branchForm s (s.rp p) d
/-- 04 Table 7, c 7. -/
def execBnp (p : BitVec 4) (d : BitVec 13) (s : State) : Res := branchForm s (!s.rp p) d

/-- 04 Table 8, fn 0. -/
def execJ (d : BitVec 16) (s : State) : Res := finish (.ok (s.jumpTo (s.near d)))

/-- 04 Table 8, fn 1; 04 R126: a call pops no loop entry. -/
def execCall (d : BitVec 16) (s : State) : Res :=
  finish (.ok ((s.emitX 31 1 s.str.after).branchTo (s.near d)))

/-- Target of JR and CALLR, a multiple of 4 (04 R127). -/
def regTarget (s : State) (a : BitVec 5) (d : BitVec 16) : Try Word := do
  let t := s.rx a + d.signExtend 64 * 4
  trapWith s (decide (t.toNat % 4 ≠ 0)) { code := 0x05, va := t }
  .ok t

/-- 04 Table 8, fn 2. -/
def execJr (a : BitVec 5) (d : BitVec 16) (s : State) : Res :=
  finish do
    let t ← regTarget s a d
    .ok (s.jumpTo t)

/-- 04 Table 8, fn 3. -/
def execCallr (a : BitVec 5) (d : BitVec 16) (s : State) : Res :=
  finish do
    let t ← regTarget s a d
    .ok ((s.emitX 31 1 s.str.after).branchTo t)

/-- Iterations of a loop (04 R129). -/
def loopTotal (n stages : Nat) (rot : Bool) : Nat := if rot then (if n = 0 then 0 else n + stages - 1) else n

/-- 04 R129, R130, R133: the loop syllables. (DEDUCED, unsafe: notes/assumptions/20.md.) -/
def loopForm (s : State) (a : BitVec 5) (d : BitVec 16) (stages : Nat) (rot : Bool) : Res :=
  finish do
    let n := (s.rx a).toNat % 2 ^ 32
    let total := loopTotal n stages rot
    let e := s.near d
    trapIf s (decide (1 ≤ total ∧ 4 ≤ s.str.loops.length)) 0x01 1
    trapIf s (decide (e < s.str.after)) 0x01 2
    if total = 0 then .ok (s.branchTo (s.core.bundleEnd 8 e))
    else
      let l : Loop := { body := s.str.after, last := e, rem := total, n := n, s := stages, rot := rot }
      let s := s.onStr fun t => { t with loops := l :: t.loops }
      .ok (if rot then (List.range 8).foldl (fun s k => s.emitP (BitVec.ofNat 4 (8 + k)) 1 (k == 0)) s else s)

/-- 04 Table 9, fn 4. -/
def execLoop (a : BitVec 5) (d : BitVec 16) (s : State) : Res := loopForm s a d 1 false
/-- 04 Table 9, fn 5. -/
def execLoopRot (a : BitVec 5) (n : BitVec 2) (d : BitVec 16) (s : State) : Res := loopForm s a d (n.toNat + 1) true
/-- 04 Table 9, fn 6. -/
def execLoopRot58 (a : BitVec 5) (n : BitVec 2) (d : BitVec 16) (s : State) : Res := loopForm s a d (n.toNat + 5) true

/-- The new name of a rotating vector register (04 R133). -/
def rotName (r : BitVec 6) : BitVec 6 := if r.toNat < 32 then r else BitVec.ofNat 6 (32 + (r.toNat - 31) % 32)

/-- Rotation at the end of an iteration; `begun` counts the iterations begun (04 R133). -/
def Stream.rotate (t : Stream) (begun n : Nat) : Stream :=
  { t with
    v := Vector.ofFn fun i : Fin 64 => if i.val < 32 then t.v[i] else vget t.v (32 + (i.val - 1) % 32) 0
    p := (t.p &&& 0xFF) ||| (t.p >>> 8 <<< 9) ||| (if begun < n then 0x100 else 0)
    pend := t.pend.map fun q => match q.target with
      | .v r en val => { q with target := .v (rotName r) en val }
      | _ => q }

/-- 04 R131: loop control by the bundle in hand when it takes no branch; the PC moves on. A loop syllable that pushes an
entry in the end bundle of an outer loop makes that entry the innermost, so that the outer iteration does not end there
(DESIGN CHOICE, unsafe: notes/assumptions/95.md). -/
def State.loopControl (s : State) : State :=
  let seqPc (s : State) : State := s.onStr fun t => { t with pc := t.after }
  match s.str.loops with
  | [] => seqPc s
  | l :: rest =>
    if s.str.pc ≤ l.last ∧ l.last < s.str.after then
      if 1 < l.rem then
        s.onStr fun t =>
          let t := { t with loops := { l with rem := l.rem - 1 } :: rest, pc := l.body }
          if l.rot then t.rotate (loopTotal l.n l.s l.rot - (l.rem - 1)) l.n else t
      else seqPc s.popLoop
    else seqPc s

end Sys2Proof.Machine
end

