-- ==== Sys2Proof/Machine/System.lean ====
section
/-! DEFINITION. System forms, major 0: CSRs, END, SVC and the software trap (04 R138 to R141), and the stop and
context forms (18 R441 to R443). -/
namespace Sys2Proof.Machine

/-- R92. -/
def execNop (s : State) : Res := finish (.ok s)

/-- 04 R139: END is held until the stream's tagged commands and the started actions of its plan have completed, then
observes its tags and acts as HAULEND. -/
def execEndTask (s : State) : Res :=
  finish do
    let plan := s.ownPlan
    let jam := match plan with | some p => p.jammed (p.acts.map (·.idx)) | none => false
    holdIf s (s.ownTags.any s.core.tagBusy || !jam && (match plan with | some p => p.busy | none => false))
    let s ← s.observe s.ownTags plan.isSome
    holdIf s jam
    let s := if plan.isSome then s.onCore fun k => { k with plan := none } else s
    .ok (s.onStr fun t => { t with mode := .ended, loops := [] })

/-- 04 R140: the request is posted and its answer awaited. (DEDUCED, unsafe: notes/assumptions/57.md.) -/
def execSvc (d a : BitVec 5) (s : State) : Res :=
  finish <|
    let tag := s.pkg.svcNext
    let s := s.onPkg fun pk => { pk with
      svcNext := tag + 1, service := pk.service ++ [(tag, s.core.id, s.str.sec)]
      puppet := pk.puppet ++ [.service tag s.core.id s.str.sec s.str.pc s.str.lcc (s.rx a)] }
    .ok (s.onStr fun t => { t with svc := some (tag, d) })

/-- 04 Table 12: fault 0x12 with the immediate. -/
def execTrap (n : BitVec 10) (s : State) : Res :=
  finish (.error (.trap s { code := 0x12, sub := n.setWidth 16, aux0 := n.setWidth 64 }))

/-- CLOG (18 Table 10). -/
def Core.clogCsr (k : Core) : Word := BitVec.ofNat 64 (k.clog.length + if k.clogOvf then 64 else 0)

/-- The value of a CSR (04 Table 13). -/
def State.csr (s : State) (c : BitVec 8) : Word :=
  match c.toNat with
  | 0x00 => s.str.lcc.setWidth 64
  | 0x01 => if s.core.lock then s.core.vcc.setWidth 64 else 0
  | 0x02 => s.taskCsr
  | 0x03 => s.core.coordCsr
  | 0x04 => s.core.phaseCsr
  | 0x05 => s.core.part.setWidth 64
  | 0x06 => s.core.lid
  | 0x07 => BitVec.ofNat 64 s.str.masks.length
  | 0x08 => s.str.spb
  | 0x09 => s.str.flags.setWidth 64
  | 0x0A => s.str.rmode
  | 0x0B => BitVec.ofNat 64 s.str.loops.length
  | 0x10 => vget s.core.nomlat 0 0
  | 0x11 => vget s.core.nomlat 1 0
  | 0x12 => vget s.core.nomlat 2 0
  | 0x13 => vget s.core.nomlat 3 0
  | 0x14 => s.core.ctb
  | 0x15 => s.core.cntth
  | 0x16 => s.core.hpb
  | 0x17 => s.core.clogCsr
  | _ => BitVec.ofNat 64 s.pkg.rtc

/-- Reads whose value can depend on timing (01 Table 1a). A CSRR of one writes code 0x05; the read by which CSRS or CSRC
forms its value does not, which the spec leaves open (DESIGN CHOICE, unsafe: notes/assumptions/76.md). -/
def State.csrTimed (s : State) (c : BitVec 8) : Bool :=
  match c.toNat with
  | 0x14 => s.core.tags.any fun t => t.st == .outstanding
  | 0x16 => decide (bits s.core.hpb.toNat 63 32 ≠ 0)
  | 0x18 => true
  | _ => false

/-- LCC and VCC are shut to the secondary stream (08 R217). -/
def csrStream (s : State) (c : BitVec 8) : Try Unit := trapIf s (s.str.sec && decide (c.toNat < 2)) 0x03 0

/-- Whether a value may be written to a CSR (01 Table 8, 02 Table 3, 10 Tables 6 and 8, 15 Table 4). -/
def csrAllows (c : BitVec 8) (v : Word) : Bool :=
  match c.toNat with
  | 0x08 => decide (v.toNat < 2 ^ 7)
  | 0x0A => decide (bits v.toNat 31 4 = 0)
  | 0x10 | 0x11 | 0x12 | 0x13 => decide (64 ≤ v.toNat ∧ v.toNat < 2 ^ 20)
  | 0x15 => decide (v.toNat < 2 ^ 16)
  | 0x16 => decide (bits v.toNat 31 1 = 0)
  | _ => true

/-- The CSRs that a task can write; writes of the others are ignored (04 R141). -/
def csrWritable (c : BitVec 8) : Bool :=
  match c.toNat with
  | 0x08 | 0x09 | 0x0A | 0x10 | 0x11 | 0x12 | 0x13 | 0x15 | 0x16 => true
  | _ => false

/-- A CSR write, formed and checked at issue, effective at issue + 1 (04 R141). -/
def csrWrite (s : State) (c : BitVec 8) (v : Word) : Try State := do
  csrStream s c
  if csrWritable c then do
    trapWith s (!csrAllows c v) { code := 0x04, aux0 := v }
    .ok (s.emit (.csr c v) 1)
  else .ok s

/-- 04 Table 12. -/
def execCsrr (d : BitVec 5) (c : BitVec 8) (s : State) : Res :=
  guarded (.csrr d c) s do
    csrStream s c
    let v := s.csr c
    .ok (if s.csrTimed c then (s.cause 0x05 v).emitX d 1 (s.replayed v) else s.emitX d 1 v)

/-- 04 Table 12. -/
def execCsrw (a : BitVec 5) (c : BitVec 8) (s : State) : Res := guarded (.csrw a c) s (csrWrite s c (s.rx a))
/-- 04 Table 12. -/
def execCsrs (a : BitVec 5) (c : BitVec 8) (s : State) : Res :=
  guarded (.csrs a c) s (csrWrite s c (s.csr c ||| s.rx a))
/-- 04 Table 12. -/
def execCsrc (a : BitVec 5) (c : BitVec 8) (s : State) : Res :=
  guarded (.csrc a c) s (csrWrite s c (s.csr c &&& ~~~(s.rx a)))

/-- 18 Table 12: a yield request to the Puppeteer. -/
def execYield (s : State) : Res :=
  finish (.ok (s.onPkg fun pk => { pk with puppet := pk.puppet ++ [.yield s.core.id s.core.gang s.str.pc] }))

/-- 18 R442. -/
def execDrain (s : State) : Res :=
  finish do
    trapIf s (!s.str.sec && (s.core.mxBusy || decide (s.core.localEnd ≠ 0))) 0x07 7
    holdIf s s.unperformed
    .ok s

/-- Words of a cause-log entry (18 Table 9). -/
def Cause.lo (c : Cause) : Word := BitVec.ofNat 64 (c.code.toNat + (if c.sec then 2 ^ 8 else 0) + c.count * 2 ^ 32)

/-- 18 R443. -/
def execClogrd (d a : BitVec 5) (s : State) : Res :=
  finish do
    let x := (s.rx a).toNat
    trapIf s (decide (64 ≤ x)) 0x0E 0x80
    let v := match s.core.clog[x % 32]? with
      | some c => if x < 32 then c.lo else c.baddr
      | none => 0
    .ok (if s.core.clog.isEmpty && !s.core.clogOvf then s.emitX d 1 v else (s.cause 0x05 v).emitX d 1 (s.replayed v))

/-- 18 Table 12: a marker in the replay journal of a free phase. -/
def execRjmark (a : BitVec 5) (s : State) : Res :=
  finish (.ok (if s.core.free then s.cause 0x80 (s.rx a) else s))

/-- 18 Table 12. -/
def execRescnt (d : BitVec 5) (s : State) : Res :=
  finish <|
    let v : Word := s.core.rescnt.setWidth 64
    .ok ((s.cause 0x05 v).emitX d 1 (s.replayed v))

end Sys2Proof.Machine
end

