-- ==== Sys2Proof/Machine/Image.lean ====
section
/-! DEFINITION. The context image of a core (18 R424 to R427, R511 to R514): what SAVE writes and what RESUME takes
back. An image is a sparse memory by offset. The areas that the device lays out for itself hold free bytes
(DESIGN CHOICE, unsafe: notes/assumptions/34.md). -/
namespace Sys2Proof.Machine

def put (m : Memory) (off n v : Nat) : Memory := m.writeN off (toBytes n v)

/-- Consecutive records of `n` bytes from an offset. -/
def putAll (m : Memory) (off n : Nat) (vs : List Nat) : Memory :=
  vs.zipIdx.foldl (fun m v => put m (off + n * v.2) n v.1) m

/-! ### Stream block -/

def b2n (b : Bool) : Nat := if b then 1 else 0

/-- 18 Table 5a. -/
def Loop.record (l : Loop) : Nat :=
  l.body.toNat + l.last.toNat * 2 ^ 64 + l.rem * 2 ^ 128 + l.n * 2 ^ 160 + l.s * 2 ^ 192 + b2n l.rot * 2 ^ 196

/-- 11 Table 1. -/
def Binding.record (b : Binding) : Nat :=
  b.slot + b.kind.toNat * 2 ^ 16 + b2n b.regionGlobal * 2 ^ 19 + b2n b.objGlobal * 2 ^ 20 + b.scope.toNat * 2 ^ 21 +
    wrap 12 b.exp * 2 ^ 36 + b.base.toNat * 2 ^ 64 + b.bytes.toNat * 2 ^ 128 + b.obj.toNat * 2 ^ 192

/-- KIND, NUM and VALUE of a pending scalar write (18 Table 6). (DEDUCED, unsafe: notes/assumptions/66.md.) -/
def Pending.scalar (p : Pending) : Option (Nat × Nat × Nat) :=
  match p.fault, p.target with
  | none, .x r v => some (0, r.toNat, v.toNat)
  | none, .p r v => some (1, r.toNat, b2n v)
  | none, .csr c v => some (2, c.toNat, v.toNat)
  | _, _ => none

/-- A byte enable cannot hold half a byte: the inactive 4-bit element of an enabled byte is the register's own
(DEDUCED, unsafe: notes/assumptions/38.md). -/
def halfMerged (en val old : VReg) : Nat :=
  ofEls 8 (((els 8 512 en.toNat).zip ((els 8 512 val.toNat).zip (els 8 512 old.toNat))).map fun b =>
    if b.1 = 0x0F then b.2.1 % 16 + b.2.2 / 16 * 16 else if b.1 = 0xF0 then b.2.1 / 16 * 16 + b.2.2 % 16 else b.2.1)

/-- KIND, NUM, data and byte enables of a pending wide write to a register (18 Table 7). -/
def Pending.wide (p : Pending) (t : Stream) : Option (Nat × Nat × Nat × Nat) :=
  match p.fault, p.target with
  | none, .v r en val => some (0, r.toNat, halfMerged en val (t.v[r.toNat]'r.isLt),
      ofEls 1 ((els 8 512 en.toNat).map fun x => b2n (x != 0)))
  | none, .mask (.push e) => some (1, 0, e.toNat, 2 ^ 128 - 1)
  | _, _ => none

/-- A program's store effect, among the core's. -/
def StoreEff.ofProgram (e : StoreEff) : Bool := !e.sec && decide (e.seq < beatSeq)

/-- The parts of a store effect that span at most 512 bytes each, from its lowest address on. -/
def StoreEff.cut (e : StoreEff) : Nat → List Host.Cell → List StoreEff
  | 0, _ | _, [] => []
  | n + 1, c :: cs =>
    let base := cs.foldl (fun m x => min m x.1) c.1
    { e with cells := (c :: cs).filter fun x => decide (x.1 < base + 512) } ::
      e.cut n ((c :: cs).filter fun x => decide (base + 512 ≤ x.1))

/-- Data, byte enables and L-address of a part of a store effect (18 Table 7, KIND 2). (DEDUCED, unsafe: notes/assumptions/67.md.) -/
def StoreEff.wide (e : StoreEff) (k : Core) (spb : Word) : Nat × Nat × Nat :=
  let base := match e.cells with | c :: cs => cs.foldl (fun m x => min m x.1) c.1 | [] => 0
  let at_ (i : Nat) : Option Byte := (e.cells.reverse.find? (·.1 == base + i)).map fun c =>
    if e.xor then k.spad.read c.1 ^^^ c.2 else c.2
  let bs := (List.range 512).map at_
  (ofEls 8 (bs.map fun b => (b.getD 0).toNat), ofEls 1 (bs.map fun b => b2n b.isSome),
   base - spb.toNat % 128 * Config.bankBytes)

def scalarRecord (lc : Nat) (p : Nat × Nat × Nat × Nat) : Nat :=
  p.2.2.1 + p.2.1 * 2 ^ 14 + (lc + p.1) * 2 ^ 16 + p.2.2.2 * 2 ^ 64

def wideRecord (land kind num addr data en : Nat) : Nat :=
  data + en * 2 ^ 4096 + (num + kind * 2 ^ 8 + land * 2 ^ 16 + addr * 2 ^ 64) * 2 ^ 4608

/-- Pending flag settings: (landing lc, flags), ascending (18 R512). -/
def Stream.pendFlags (t : Stream) : List (Nat × Nat) :=
  let ls := sortBy (fun a b => decide (a ≤ b)) ((t.pend.filter (·.flags != 0)).map (·.left)).eraseDups
  ls.map fun l => (t.lcc.toNat + l, (orFlags ((t.pend.filter (·.left == l)).map (·.flags))).toNat)

/-- The store effects of a stream's program that its block lists, in the order of their effect, and those for which the 48
entries have no room: a scatter takes one entry for each 512 bytes (DEDUCED, unsafe: notes/assumptions/67.md). -/
def Stream.effects (t : Stream) (k : Core) : List StoreEff × List StoreEff :=
  let effs := if t.sec then [] else sortBy (fun (a b : StoreEff) => decide (a.left ≤ b.left)) (k.stores.filter (·.ofProgram))
  let room := 48 - t.pend.countP fun p => (p.wide t).isSome
  let parts := effs.flatMap fun e => e.cut e.cells.length e.cells
  (parts.take room, parts.drop room)

/-- 18 Table 5. (DEDUCED, unsafe: notes/assumptions/11.md.) -/
def Stream.block (t : Stream) (k : Core) : Memory :=
  let lc := t.lcc.toNat
  let byLeft := sortBy (fun (a b : Pending) => decide (a.left ≤ b.left)) t.pend
  -- in the order of their effect: a result lands before the store effects of its lc (18 R426)
  let regs := byLeft.filterMap fun p => (p.wide t).map fun w => (p.left, wideRecord (lc + p.left) w.1 w.2.1 0 w.2.2.1 w.2.2.2)
  let sts := (t.effects k).1.map fun e => let w := e.wide k t.spb; (e.left, wideRecord (lc + e.left) 2 0 w.2.2 w.1 w.2.1)
  let wides := (sortBy (fun a b => decide (a.1 ≤ b.1)) (regs ++ sts)).map (·.2)
  let m := putAll [] 0 8 (t.x.toList.map BitVec.toNat)
  let m := putAll m 0x100 8 [t.pc.toNat, lc, t.spb.toNat, t.flags.toNat, t.rmode.toNat, (t.p ||| 1).toNat, t.masks.length, t.loops.length]
  let m := putAll m 0x180 32 (t.loops.reverse.map Loop.record)
  let m := t.binds.foldl (fun m b => put m (0x200 + 32 * b.slot) 32 b.record) m
  let m := putAll m 0x400 128 (t.masks.reverse.map BitVec.toNat)
  let m := putAll m 0xC00 16 (byLeft.filterMap fun p => p.scalar.map fun q => scalarRecord lc (p.left, q))
  let m := putAll m 0x1000 640 wides
  putAll m 0x8800 8 (t.pendFlags.map fun f => f.2 + f.1 * 2 ^ 16)

/-- A loop entry as a RESUME takes it, if it is legal (18 R511); its profile counters are the saved ones (20 R453). -/
def Loop.ofRecord (r : Nat) (old : Option Loop) : Option Loop :=
  let n := bits r 191 160
  let s := bits r 195 192
  let rot := bits r 196 196 = 1
  let rem := bits r 159 128
  if bits r 255 197 ≠ 0 ∨ (¬ rot ∧ s ≠ 1) ∨ s = 0 ∨ 8 < s ∨ rem = 0 ∨ (if rot then n + s - 1 else n) < rem then none
  else
    let base : Loop := old.getD { body := 0, last := 0, rem := 0, n := 0, s := 1, rot := false }
    some { base with body := BitVec.ofNat 64 r, last := BitVec.ofNat 64 (r / 2 ^ 64), rem := rem, n := n, s := s, rot := decide rot }

/-- The items of a list, if all are there. -/
def allSome {α : Type} : List (Option α) → Option (List α)
  | [] => some []
  | none :: _ => none
  | some x :: xs => (allSome xs).map (x :: ·)

/-- A pending scalar write taken back; none: the RESUME is refused (18 R427). -/
def scalarLoad (r stop : Nat) : Option (List Pending) :=
  let land := bits r 63 16
  let v : Word := BitVec.ofNat 64 (r / 2 ^ 64)
  if bits r 13 8 ≠ 0 then none
  else if land = 0 then some []
  else if bits r 15 14 = 3 ∨ land ≤ stop then none
  else
    let t : Target := match bits r 15 14 with
      | 0 => .x (BitVec.ofNat 5 r) v
      | 1 => .p (BitVec.ofNat 4 r) (v.getLsbD 0)
      | _ => .csr (BitVec.ofNat 8 r) v
    some [{ target := t, left := land - stop }]

/-- A pending wide write taken back: a register write, or a store effect of rank `i`. -/
def wideLoad (r stop i : Nat) (spb : Word) : Option (List Pending × List StoreEff) :=
  let d := r / 2 ^ 4608
  let land := bits d 63 16
  let kind := bits d 15 8
  if bits d 511 96 ≠ 0 then none
  else if land = 0 then some ([], [])
  else if 2 < kind ∨ land < stop ∨ (kind < 2 ∧ land ≤ stop) then none
  else
    let bs := toBytes 512 r
    let on := (List.range 512).filter fun j => (r / 2 ^ (4096 + j)) % 2 = 1
    if kind = 0 then
      some ([{ target := .v (BitVec.ofNat 6 d) (vreg 8 ((List.range 512).map fun j => if on.contains j then 255 else 0))
                           (BitVec.ofNat 4096 r), left := land - stop }], [])
    else if kind = 1 then some ([{ target := .mask (.push (BitVec.ofNat 1024 r)), left := land - stop }], [])
    else
      let a := poolAddr spb (BitVec.ofNat 64 (bits d 95 64))
      some ([], [{ cells := on.map fun j => (a + j, bs.getD j 0), left := land - stop, seq := i }])

/-- A landing lc, kept as a distance from the old stop, from the stop that the host has set; none where it lies before it
(18 R427). -/
def relc (old new left : Nat) : Option Nat := if new ≤ old + left then some (old + left - new) else none

/-- A stream and its store effects as a changed block gives them; a reserved field of a binding record that is not 0 refuses
the RESUME (11 Table 1; 18 R427). SPB and RMODE are taken as they stand, SPB bits [63:7] and RMODE bits [31:4] with them:
the spec does not settle whether those are must-be-0 fields of an image (DESIGN CHOICE, unsafe: notes/assumptions/34.md).
Results that no table holds keep their lc; their flags come from the table of 18 R512. -/
def Stream.load (t : Stream) (m : Memory) (stop : Nat) : Option (Stream × List StoreEff) := do
  let w (i : Nat) : Word := BitVec.ofNat 64 (m.num (0x100 + 8 * i) 8)
  let depth := min 4 (w 7).toNat
  let msd := min 16 (w 6).toNat
  let loops ← allSome ((List.range depth).map fun i => Loop.ofRecord (m.num (0x180 + 32 * i) 32) (t.loops.reverse[i]?))
  let scalars ← allSome ((List.range 64).map fun i => scalarLoad (m.num (0xC00 + 16 * i) 16) stop)
  let wides ← allSome ((List.range 48).map fun i => wideLoad (m.num (0x1000 + 640 * i) 640) stop i (w 2))
  let flags ← allSome ((List.range 256).map fun i =>
    let e := m.num (0x8800 + 8 * i) 8
    let land := bits e 63 16
    if bits e 15 7 ≠ 0 then none
    else if land = 0 then some []
    else if land < stop then none
    else some [({ target := .none, left := land - stop, flags := BitVec.ofNat 7 e } : Pending)])
  let own := (t.pend.filter fun p => p.scalar.isNone && (p.wide t).isNone && (p.fault.isSome || p.target != .none)).map fun p =>
    { p with left := t.lcc.toNat + p.left - stop, flags := 0 }
  let recs := (List.range 16).map fun i => m.num (0x200 + 32 * i) 32
  if recs.any fun r => decide (bits r 63 48 ≠ 0 ∨ bits r 35 24 ≠ 0 ∨ bits r 15 4 ≠ 0) then none
  let binds := recs.zipIdx.filterMap fun r =>
    if bits r.1 191 128 = 0 then none else some { (bindingOf r.1) with slot := r.2 : Binding }
  some ({ t with
      x := Vector.ofFn fun i : Fin 32 => if i.val = 0 then 0 else BitVec.ofNat 64 (m.num (8 * i.val) 8)
      pc := w 0, lcc := BitVec.ofNat 48 stop, spb := w 2, flags := (w 3).setWidth 7, rmode := w 4
      p := (w 5).setWidth 16, loops := loops.reverse, binds := binds
      masks := ((List.range msd).map fun i => BitVec.ofNat 1024 (m.num (0x400 + 128 * i) 128)).reverse
      pend := own ++ scalars.flatten ++ wides.flatMap (·.1) ++ flags.flatten },
    wides.flatMap (·.2))

/-! ### The whole image -/

/-- PST and SST of the header (18 Table 4a). -/
def Stream.saveCode (t : Stream) : Nat :=
  match t.mode with
  | .idle => 3
  | .done => 1
  | _ => match t.stopRec with
    | some r => if r.trap.code = 0x18 then 0 else 2
    | none => 0

def saveHeader (c : CoreCtx) : Nat :=
  0x5843 + 2 ^ 16 + c.a.saveCode * 2 ^ 32 + c.b.saveCode * 2 ^ 34 + c.a.lcc.toNat * 2 ^ 48 + c.b.lcc.toNat * 2 ^ 96 +
    (if c.core.lock then c.core.vcc.toNat else 0) * 2 ^ 144 + c.core.part.toNat * 2 ^ 192 + c.core.rescnt.toNat * 2 ^ 224 +
    c.core.lid.toNat * 2 ^ 256

/-- The 576 bytes of a message slot. -/
def Msg.record (m : Msg) : Nat :=
  m.data.toNat + m.fx.toNat * 2 ^ 4096 + m.fy.toNat * 2 ^ 4104 + m.ts.toNat * 2 ^ 4160 + (if m.vec then 2 else 1) * 2 ^ 4224

def chanOff (ch i : Nat) : Nat := 0x19000 + 576 * (4 * ch + i)

/-- A pending summary result: its image, L-address, landing lc and kind, in words of 8 bytes; the last has beside the kind
bit 8 for a result that writes nothing and bit 9 for the secondary's. (DESIGN CHOICE, unsafe: notes/assumptions/88.md.) -/
def SumPend.record (p : SumPend) (t : Stream) : Nat :=
  ofBytes (p.bytes.take 2048) + (p.addr - t.spb.toNat % 128 * Config.bankBytes) * 2 ^ 16384 +
    (t.lcc.toNat + p.left) * 2 ^ 16448 + (p.kind + b2n (!p.write) * 2 ^ 8 + b2n p.sec * 2 ^ 9) * 2 ^ 16512

/-- A pending summary result taken back, for the streams as they resume; none: the RESUME is refused (18 R427). `old` is
the entry of that place at the save, whose place in the order of effects it keeps. -/
def sumLoad (r : Nat) (old : Option SumPend) (a b : Stream) : Option (List SumPend) :=
  let land := bits r 16511 16448
  let sec := decide (bits r 16521 16521 = 1)
  let t := if sec then b else a
  let kind := bits r 16519 16512
  if land = 0 then some []
  else if land < t.lcc.toNat then none
  else some [{ kind := kind, addr := poolAddr t.spb (BitVec.ofNat 64 (r / 2 ^ 16384)), bytes := toBytes (min 2048 (sumSize kind)) r
               left := land - t.lcc.toNat, write := decide (bits r 16520 16520 = 0), sec := sec
               seq := match old with | some p => p.seq | none => beatSeq - 1 }]

/-- 18 Table 9. -/
def Cause.record (c : Cause) : Nat :=
  c.code.toNat + b2n c.sec * 2 ^ 8 + c.count * 2 ^ 32 + c.baddr.toNat * 2 ^ 64

/-- Unreported deferred faults in ascending index (18 R514). -/
def Plan.kept (p : Plan) : List HaulAct := sortBy (fun a b => decide (a.idx ≤ b.idx)) (p.acts.filter (·.fault.isSome))

def HaulAct.record (a : HaulAct) : Nat :=
  match a.fault with
  | some t => a.idx + t.sub.toNat * 2 ^ 40 + t.code.toNat * 2 ^ 56 + t.va.toNat * 2 ^ 64
  | none => 0

/-- Plan words of the core area (18 Table 4b). -/
def Core.planWords (k : Core) : List Nat :=
  match k.plan with
  | none => [0, 0, 0, 0, 0, 0]
  | some p => [p.addr.toNat, p.count, p.window.toNat, p.spb.toNat, p.last + 2 ^ 32 + b2n p.sec * 2 ^ 33, p.kept.length]

def poolOff : Nat := 0x80000
/-- Pool address of V0 of a stream (18 R425). -/
def vecBase (sec : Bool) : Nat := (if sec then 126 else 127) * Config.bankBytes

/-- The pool as its banks hold it: scratchpad, accumulators, vector registers; poisoned granules are left out. -/
def CoreCtx.pool (c : CoreCtx) : Memory :=
  let k := c.core
  let m : Memory := (k.spad.slice 0 (k.nsb * Config.bankBytes)).map fun x => (poolOff + x.1, x.2)
  let m := putAll m (poolOff + k.accPool 0) 2048 ((k.acc.toList.take (16 * k.acb)).map BitVec.toNat)
  let m := if k.rfb = 2 then putAll m (poolOff + vecBase true) 512 (c.b.v.toList.map BitVec.toNat) else m
  let m := putAll m (poolOff + vecBase false) 512 (c.a.v.toList.map BitVec.toNat)
  m.filter fun x => !k.poison.any fun p => decide (poolOff + p ≤ x.1 ∧ x.1 < poolOff + p + 32)

def freeArea (save tile lo n : Nat) : Memory :=
  (List.range n).foldl (fun m i => m.write (lo + i) (Config.imageByte save tile (lo + i))) []

/-- 18 Table 3. -/
def CoreCtx.image (c : CoreCtx) (podn save : Nat) : Memory :=
  let k := c.core
  let t := k.tile.toNat
  let m : Memory := match c.a.stopRec, c.b.stopRec with
    | some r, _ => put [] 0 256 (recordBits k podn false r)
    | none, some r => put [] 0 256 (recordBits k podn true r)
    | none, none => []
  let m := put m 0x100 256 (saveHeader c)
  let m := m ++ (c.a.block k).map fun x => (0x1000 + x.1, x.2)
  let m := if c.b.mode = .idle then m else m ++ (c.b.block k).map fun x => (0xD000 + x.1, x.2)
  let m := k.chans.toList.zipIdx.foldl (fun m q => q.1.zipIdx.foldl (fun m x => put m (chanOff q.2 x.2) 576 x.1.record) m) m
  let m := m ++ (putAll [] 0 8 ((List.range 4096).map k.uword)).map fun x => (0x22000 + x.1, x.2)
  let m := m ++ freeArea save t 0x2A000 32768
  let m := putAll m 0x32000 128 (k.g.toList.map BitVec.toNat)
  let m := m ++ freeArea save t 0x32800 14336
  let m := putAll m 0x36000 2112 (k.chain.map fun p => p.record (if p.sec then c.b else c.a))
  let m := m ++ freeArea save t 0x4B000 36864
  let m := putAll m 0x54000 8 (k.nomlat.toList.map BitVec.toNat ++ [k.cntth.toNat, k.hpb.toNat, k.ctb.toNat, k.clogCsr.toNat] ++ k.planWords)
  let m := putAll m 0x54200 16 (k.clog.map Cause.record)
  let m := put m 0x54400 1024 (ofEls 1 ((List.range 8192).map fun r => b2n (k.marks.contains r)))
  let m := putAll m 0x55000 16 (match k.plan with | some p => p.kept.map HaulAct.record | none => [])
  m ++ c.pool

/-- Stop lc, states and loops: what a RESUME takes of the header (18 R427). -/
def headerLegal (c : CoreCtx) (h : Nat) : Bool :=
  decide (bits h 15 0 = 0x5843 ∧ bits h 31 16 = 1 ∧ bits h 47 36 = 0 ∧ bits h 2047 320 = 0 ∧
    bits h 319 256 = c.core.lid.toNat ∧ bits h 223 192 = c.core.part.toNat)

/-- The stream of a task after its image has been read: its mode by PST or SST. -/
def Stream.moded (t : Stream) (code : Nat) : Stream :=
  { t with mode := if code = 1 then .done else if code = 3 then .idle else .stopped }

def msgLoad (r : Nat) : Option Msg :=
  let kind := bits r 4231 4224
  if kind = 0 then none
  else some { fx := BitVec.ofNat 8 (r / 2 ^ 4096), fy := BitVec.ofNat 8 (r / 2 ^ 4104), ts := BitVec.ofNat 48 (r / 2 ^ 4160)
              vec := kind == 2, data := BitVec.ofNat 4096 r, arrive := 0 }

/-- The plan as changed words of the core area and the deferred-fault table give it. Its entries are read again when the
address or the count has changed. A record whose INDEX names no action that has started is kept as one that has ended. -/
def Core.planLoad (k : Core) (pk : Package) (m : Memory) : Option Plan :=
  let w (o : Nat) : Word := BitVec.ofNat 64 (m.num (0x54000 + o) 8)
  let st := (w 0x60).toNat
  if w 0x40 = 0 ∨ bits st 32 32 = 0 then none
  else
    let old := k.plan.getD { addr := 0, count := 0, window := 0, spb := 0, sec := false, last := 0, entries := [], acts := [] }
    let n := (w 0x48).toNat
    let es := if old.addr = w 0x40 ∧ old.count = n then old.entries
      else match if n ≤ 1048576 then pk.fnRead k.fn (w 0x40) (32 * n) else none with
        | some bs => (els 256 n (ofBytes bs)).map (BitVec.ofNat 256)
        | none => []
    let recs := (List.range (min 4096 (w 0x68).toNat)).map fun i => m.num (0x55000 + 16 * i) 16
    let fault (old : Option Trap) (r : Nat) : Trap := { (old.getD { code := 0 }) with
      code := BitVec.ofNat 8 (bits r 63 56), sub := BitVec.ofNat 16 (bits r 55 40), va := BitVec.ofNat 64 (bits r 127 64) }
    let acts := old.acts.map fun a => { a with fault := (recs.find? fun r => bits r 31 0 = a.idx).map (fault a.fault) }
    let more := (recs.filter fun r => !old.acts.any (·.idx == bits r 31 0)).map fun r =>
      { idx := bits r 31 0, due := 0, done := true, fault := some (fault none r), rows := [], begun := true : HaulAct }
    some { old with addr := w 0x40, count := n, window := w 0x50, spb := w 0x58, last := bits st 31 0
                    sec := decide (bits st 33 33 = 1), entries := es, acts := acts ++ more }

/-- The engines' work on its way keeps its lc when the host changes the primary's stop lc; none: an update or a beat lies
before the new stop (18 R427). -/
def Core.shift (k : Core) (old new : Nat) : Option Core := do
  let at_ := relc old new
  let mx ← allSome (k.mxpend.map fun p => (at_ p.left).map fun l => { p with left := l })
  let bs ← allSome (k.beats.map fun b => (at_ b.left).map fun l => { b with left := l })
  let sts ← allSome (k.stores.map fun e => if e.sec then some e else (at_ e.left).map fun l => { e with left := l })
  let kept (l : List (Nat × Nat)) := l.filterMap fun b => (at_ b.2).map fun n => (b.1, n)
  some { k with
    mxpend := mx, beats := bs, stores := sts, localEnd := if k.localEnd = 0 then 0 else old + k.localEnd - new
    seq := k.seq.map fun q => { q with wait := old + q.wait - new }
    watch := k.watch.map fun w => { w with src := kept w.src, dst := kept w.dst } }

/-- The core of a task after its image has been read. `same lo n`: the area holds what the save wrote. -/
def Core.load (k : Core) (pk : Package) (m : Memory) (same : Nat → Nat → Bool) (vcc : Nat) : Core :=
  let w (o : Nat) : Word := BitVec.ofNat 64 (m.num (0x54000 + o) 8)
  let k := { k with vcc := if k.lock then BitVec.ofNat 48 vcc else k.vcc }
  let k := if same 0x19000 36864 then k
    else { k with chans := Vector.ofFn fun ch : Fin 16 => (List.range 4).filterMap fun i => msgLoad (m.num (chanOff ch.val i) 576) }
  let k := if same 0x22000 32768 then k
    else { k with ustore := ((List.range 4096).map fun i => (i, (BitVec.ofNat 64 (m.num (0x22000 + 8 * i) 8) : Word))).filter (·.2 != 0) }
  let k := if same 0x32000 2048 then k
    else { k with g := Vector.ofFn fun i : Fin 16 => BitVec.ofNat 1024 (m.num (0x32000 + 128 * i.val) 128) }
  let k := if same 0x54000 0x40 then k
    else { k with nomlat := Vector.ofFn fun i : Fin 4 => w (8 * i.val), cntth := w 0x20, hpb := w 0x28 }
  let k := if same 0x54038 8 && same 0x54200 512 then k
    else { k with
      clogOvf := (w 0x38).getLsbD 6
      clog := (List.range (min 32 (bits (w 0x38).toNat 5 0))).map fun i =>
        let r := m.num (0x54200 + 16 * i) 16
        { code := BitVec.ofNat 8 r, sec := decide (bits r 8 8 = 1), count := bits r 63 32, baddr := BitVec.ofNat 64 (r / 2 ^ 64) } }
  let k := if same 0x54040 48 && same 0x55000 65536 then k else { k with plan := k.planLoad pk m }
  let k := if same 0x54400 1024 then k
    else { k with marks := (List.range 8192).filter fun r => (m.read (0x54400 + r / 8)).getLsbD (r % 8) }
  if same poolOff Config.poolBytes then k
  else { k with
    spad := m.slice poolOff (k.nsb * Config.bankBytes)
    acc := Vector.ofFn fun i : Fin 256 =>
      if i.val < 16 * k.acb then BitVec.ofNat 16384 (m.num (poolOff + k.accPool i.val) 2048) else 0
    poison := k.poison.filter fun p => same (poolOff + p) 32 }

/-- 18 R427: the context that a RESUME takes from an image, none when it refuses. `old` is the image that the save
wrote. -/
def CoreCtx.load (c : CoreCtx) (pk : Package) (old m : Memory) : Option CoreCtx :=
  let same (lo n : Nat) : Bool := old.slice lo n == m.slice lo n
  let zero (lo n : Nat) : Bool := (m.slice lo n).isEmpty
  let h := m.num 0x100 256
  let plc := bits h 95 48
  let slc := bits h 143 96
  if !headerLegal c h || !same 0x2A000 32768 || !zero 0x54070 400 || !zero 0x54800 2048 || decide (2 ^ 34 ≤ m.num 0x54060 8) ||
      (List.range 4096).any (fun i => (m.read (0x55000 + 16 * i + 4)) != 0) then none
  else
    let side (t : Stream) (off stop code : Nat) : Option (Stream × Option (List StoreEff)) :=
      if same off 49152 && stop == t.lcc.toNat then some (t.moded code, none)
      else if code = 3 then some (t.moded code, none)
      else (t.load (m.slice off 49152) stop).map fun r => (r.1.moded code, some r.2)
    match side c.a 0x1000 plc (bits h 33 32), side c.b 0xD000 slc (bits h 35 34) with
    | some a, some b =>
      let k := c.core.load pk m same (bits h 191 144)
      let kept : Core := { k with
        stores := if a.2.isSome then (k.stores.filter fun e => !e.ofProgram) ++ (c.a.effects c.core).2 else k.stores }
      let still := same 0x36000 86016 && plc == c.a.lcc.toNat && slc == c.b.lcc.toNat
      let sums := if still then some [k.chain]
        else allSome ((List.range 40).map fun i => sumLoad (m.num (0x36000 + 2112 * i) 2112) k.chain[i]? a.1 b.1)
      match kept.shift c.a.lcc.toNat plc, sums with
      | some k, some ps =>
        let k := { k with stores := a.2.getD [] ++ k.stores, chain := ps.flatten }
        let vecs (t : Stream) : Stream :=
          if same (poolOff + vecBase t.sec) Config.bankBytes || t.sec && k.rfb != 2 then t
          else { t with v := Vector.ofFn fun i : Fin 64 => BitVec.ofNat 4096 (m.num (poolOff + vecBase t.sec + 512 * i.val) 512) }
        some { core := k, a := vecs a.1, b := vecs b.1 }
      | _, _ => none
    | _, _ => none

/-! ### The save area -/

def imageSize : Nat := 0x480000

/-- The pages of an image at `va`: address, offset in the image, bytes. -/
def imageParts (va : Word) : List (Word × Nat × Nat) :=
  (pageParts va imageSize).map fun p => (p.1, (p.1 - va).toNat, p.2)

/-- The image is written to its area, every byte of it (18 R424), under the keys of its pages (22 R497); granules wholly
written lose their poison (18 R430). Sealed pages keep their bytes (11 R305; DEDUCED, unsafe: notes/assumptions/92.md). -/
def Package.putImage (pk : Package) (fn : Nat) (va : Word) (img : Memory) : Package :=
  (imageParts va).foldl (fun pk p => match pk.translate fn p.1 with
    | .ok e =>
      if (pk.fnOf fn).sealedAt (bits p.1.toNat 56 0) then pk
      else
        let q := pk.phys e (bits p.1.toNat 56 0)
        let pk := pk.rekeyRange q.kid q.addr p.2.2
        { pk with
          dev := (pk.dev.clear q.addr p.2.2).writeCells ((img.slice p.2.1 p.2.2).map fun c => (q.addr + c.1, c.2))
          poison := pk.poison.filter fun g => !decide (q.addr ≤ 32 * g ∧ 32 * g + 32 ≤ q.addr + p.2.2) }
    | .error _ => pk) pk

def Package.getImage (pk : Package) (fn : Nat) (va : Word) : Memory :=
  (imageParts va).flatMap fun p => match pk.translate fn p.1 with
    | .ok e =>
      let q := pk.phys e (bits p.1.toNat 56 0)
      ((pk.rekeyRange q.kid q.addr p.2.2).dev.slice q.addr p.2.2).map fun c => (p.2.1 + c.1, c.2)
    | .error _ => []

/-- Offset of the first poisoned granule of an image (18 Table 8, sub-code 6). -/
def Package.imagePoison (pk : Package) (fn : Nat) (va : Word) : Option Nat :=
  (imageParts va).findSome? fun p => match pk.translate fn p.1 with
    | .ok e =>
      let a := (pk.phys e (bits p.1.toNat 56 0)).addr
      (pk.poison.find? fun g => overlap a p.2.2 (32 * g) 32).map fun g => p.2.1 + (32 * g - a)
    | .error _ => none

end Sys2Proof.Machine
end

