-- ==== Sys2Proof/Machine/Slots.lean ====
section
/-! DEFINITION. Bind records, the slot tables and Marionette (09 R248 to R260; 03 R112; 13 R334): the Puppeteer's
commands, placement, aging, and the ends of a save and of a discard. A slot is numbered die x 64 + slot. -/
namespace Sys2Proof.Machine

/-! ### Bind records (09 Table 5) -/

/-- A field of a bind record. -/
def rcdF (r : BitVec 1024) (hi lo : Nat) : Nat := bits r.toNat hi lo

def recLid (r : BitVec 1024) : Word := r.extractLsb' 0 64
def recPhase (r : BitVec 1024) : BitVec 16 := r.extractLsb' 64 16
def recGang (r : BitVec 1024) : BitVec 16 := r.extractLsb' 96 16
def recFn (r : BitVec 1024) : Nat := rcdF r 153 149
def recW (r : BitVec 1024) : Nat := rcdF r 114 112 + 1
def recH (r : BitVec 1024) : Nat := rcdF r 117 115 + 1
def recX (r : BitVec 1024) : Nat := rcdF r 120 118
def recY (r : BitVec 1024) : Nat := rcdF r 123 121
def recLockq (r : BitVec 1024) : Nat := rcdF r 143 128
def recPart (r : BitVec 1024) : BitVec 32 := r.extractLsb' 224 32
def recDiscard (r : BitVec 1024) : Bool := rcdF r 147 147 == 1
def recSentry (r : BitVec 1024) : Word := r.extractLsb' 384 64
def recPentry (r : BitVec 1024) : Word := r.extractLsb' 320 64
def recCsave (r : BitVec 1024) : Word := r.extractLsb' 512 64

/-- A field of a record replaced. -/
def setRec (r : BitVec 1024) (hi lo v : Nat) : BitVec 1024 :=
  BitVec.ofNat 1024 (r.toNat - rcdF r hi lo * 2 ^ lo + v % 2 ^ (hi - lo + 1) * 2 ^ lo)

/-- Core number in its die: quad x 4 + core, quads of 2 by 2 cores row by row (08 R203). -/
def coreNum (x y : Nat) : Nat := ((y / 2) * 4 + x / 2) * 4 + (y % 2) * 2 + x % 2

/-- Tiles of a record: tile number, its place in the gang, its core in the die. -/
def recTiles (r : BitVec 1024) : List (Nat × Nat × Nat × Nat) :=
  (List.range (recW r * recH r)).map fun t =>
    (t, t % recW r, t / recW r, coreNum (recX r + t % recW r) (recY r + t / recW r))

/-- Core ids of the gang of slot `slot`. -/
def recCores (slot : Nat) (r : BitVec 1024) : List Nat := (recTiles r).map fun t => slot / 64 * 64 + t.2.2.2

/-- Case 2. -/
def recOffGrid (r : BitVec 1024) : Bool := decide (7 < recX r + recW r - 1 ∨ 7 < recY r + recH r - 1)

/-- Case 3: a lockstep quad that is not wholly inside the rectangle. -/
def recQuadOut (r : BitVec 1024) : Bool :=
  (List.range 16).any fun q => recLockq r / 2 ^ q % 2 == 1 && !decide (
    recX r ≤ 2 * (q % 4) ∧ 2 * (q % 4) + 1 < recX r + recW r ∧ recY r ≤ 2 * (q / 4) ∧ 2 * (q / 4) + 1 < recY r + recH r)

/-- Case 4 (01 R31). -/
def recPartBad (r : BitVec 1024) : Bool :=
  let rfb := bits (recPart r).toNat 1 0
  decide (rfb = 0 ∨ rfb = 3 ∨ 16 < bits (recPart r).toNat 6 2) || (rfb == 1) != (recSentry r == 0)

/-- A byte range lies in sealed ranges of the function, in pages that code may be loaded from. -/
def Package.codeRange (pk : Package) (fn : Nat) (va : Word) (n : Nat) : Bool :=
  (pageParts va n).all fun p =>
    let a := bits p.1.toNat 56 0
    ((pk.fnOf fn).seals.any fun r => r.st == .sealed && decide (r.base ≤ a ∧ a + p.2 ≤ r.base + r.bytes)) &&
    match pk.translate fn p.1 with
    | .ok e => leafTier e.leaf == 0 && leafBit e.leaf 2 && leafBit e.leaf 4
    | .error _ => false

/-- Case 5 (01 R41, R42). An entry address that is no multiple of 4 is no case of the list: the task starts there (DESIGN CHOICE, unsafe: notes/assumptions/96.md). -/
def recImagesBad (pk : Package) (r : BitVec 1024) : Bool :=
  let plen := rcdF r 287 256
  let slen := rcdF r 319 288
  let p := bits (recPentry r).toNat 56 0
  let q := bits (recSentry r).toNat 56 0
  let both := min (p + plen) (q + slen) - max p q
  decide (plen % 4 ≠ 0 ∨ plen = 0 ∨ slen % 4 ≠ 0 ∨ Config.imageBytes < plen + slen - both) ||
  recSentry r == 0 && slen != 0 || !pk.codeRange (recFn r) (recPentry r) plen ||
  recSentry r != 0 && !pk.codeRange (recFn r) (recSentry r) (max slen 1)

/-- Case 8 (18 R424). -/
def recSaveBad (pk : Package) (r : BitVec 1024) : Bool :=
  (pageParts (recCsave r) (imageSize * (recW r * recH r))).any fun p => match pk.translate (recFn r) p.1 with
    | .ok e => !(leafTier e.leaf == 0 && leafBit e.leaf 2 && leafBit e.leaf 3)
    | .error _ => true

/-- L-address, bytes, ring and stages of a scratchpad plan entry (03 Table 10). -/
def planAddr (e : BitVec 192) : Nat := bits e.toNat 22 16 * Config.bankBytes + bits e.toNat 14 0
def planBytes (e : BitVec 192) : Nat := bits e.toNat 95 64
def planRing (e : BitVec 192) : Nat := bits e.toNat 39 36
def planStages (e : BitVec 192) : Nat := bits e.toNat 44 40

/-- Case 9 (03 R112; 13 R334). -/
def recPlanBad (r : BitVec 1024) (plan : List (BitVec 192)) : Bool :=
  let nsb := 128 - bits (recPart r).toNat 1 0 - bits (recPart r).toNat 6 2
  let rings := plan.filter (planStages · != 0)
  (plan.any fun e => decide (nsb * Config.bankBytes < planAddr e + planBytes e)) ||
  (rings.any fun e =>
    let sb := planBytes e / planStages e
    decide (planBytes e % planStages e ≠ 0 ∨ sb % 32 ≠ 0 ∨ sb < 96 ∨ 1048544 < sb)) ||
  !distinct (rings.map planRing)

/-- 09 R248: the first case that refuses a record, in the order of the list. -/
def Package.bindCase (pk : Package) (r : BitVec 1024) (plan : List (BitVec 192)) : Option Nat :=
  if rcdF r 1023 640 ≠ 0 ∨ rcdF r 223 208 ≠ 0 ∨ rcdF r 159 154 ≠ 0 ∨ rcdF r 127 124 ≠ 0 ∨ rcdF r 95 81 ≠ 0 then some 1
  else if recOffGrid r then some 2
  else if recQuadOut r then some 3
  else if recPartBad r then some 4
  else if recImagesBad pk r then some 5
  else if recDiscard r && rcdF r 148 148 == 0 then some 6
  else if 16 < recFn r ∨ (recFn r ≠ 0 ∧ (pk.fnOf (recFn r)).enabled = false) then some 7
  else if recSaveBad pk r then some 8
  else if recPlanBad r plan then some 9
  else none

/-! ### Slots and cores -/

def Package.slot (pk : Package) (i : Nat) : Slot := vget pk.slots i Slot.reset
def Package.onSlot (pk : Package) (i : Nat) (f : Slot → Slot) : Package := { pk with slots := vset pk.slots i (f (pk.slot i)) }
def Package.post (pk : Package) (m : PMsg) : Package := { pk with puppet := pk.puppet ++ [m] }

def slotNo (die : BitVec 2) (slot : BitVec 6) : Nat := die.toNat * 64 + slot.toNat

/-- The host reaches the package once it has booted (22 R501): what it writes before then is lost. (DEDUCED, unsafe: notes/assumptions/44.md.) -/
def State.hosted (s : State) (r : Res) : Res := if s.pkg.bootst = 1 then r else .next s

/-- A command that finds its slot in another state has no effect and is reported (09 R250, R253, R260). -/
def State.late (s : State) (die : BitVec 2) (slot : BitVec 6) (cmd : Nat) : State :=
  s.onPkg (·.post (.late die.toNat slot.toNat cmd))

/-- A core that runs a task. -/
def State.taken (s : State) (id : Nat) : Bool := s.ctxs.any fun c => c.core.id == id && c.a.mode != .idle

/-- Effective priority of a PENDING slot (09 R254). -/
def Slot.prio (sl : Slot) : Nat := min 7 (rcdF sl.rcd 146 144 + sl.age)

/-- Slot `i` waits longer than slot `j`, or as long with a lower number. -/
def Package.older (pk : Package) (i j : Nat) : Bool :=
  decide ((pk.slot i).since < (pk.slot j).since ∨ ((pk.slot i).since = (pk.slot j).since ∧ i < j))

/-- The slot of a die that reserves its rectangle: the oldest PENDING one at effective priority 7 (09 R254). -/
def Package.reserver (pk : Package) (die : Nat) : Option Nat :=
  let c := (List.range 64).map (64 * die + ·) |>.filter fun i => (pk.slot i).st == .pending && decide ((pk.slot i).prio = 7)
  c.find? fun i => c.all fun j => j == i || pk.older i j

/-- Cores that slot `i` may not have: running tasks, rectangles of ARMED slots, and the reserved rectangle of another
slot (09 R251, R254). -/
def State.coreBlocked (s : State) (i id : Nat) : Bool :=
  s.taken id ||
  (List.range 256).any fun j => decide (j ≠ i) &&
    ((s.pkg.slot j).st == .armed || (s.pkg.slot j).st == .pending && s.pkg.reserver (j / 64) == some j) &&
    (recCores j (s.pkg.slot j).rcd).contains id

def State.placeable (s : State) (i : Nat) : Bool :=
  let sl := s.pkg.slot i
  sl.st == .pending && !(s.pkg.fnOf (recFn sl.rcd)).recovering &&
  (recCores i sl.rcd).all fun id => !s.coreBlocked i id

/-- Marionette takes slot `i` before slot `j` (09 R254). -/
def Package.first (pk : Package) (i j : Nat) : Bool :=
  decide ((pk.slot j).prio < (pk.slot i).prio) || (pk.slot i).prio == (pk.slot j).prio && pk.older i j

/-- A queue fault: HEAD is left at the faulting ring entry, or at that of the outermost CALL (09 R241). (DEDUCED, unsafe: notes/assumptions/62.md.) -/
def Queue.halted (q : Queue) (code : BitVec 8) : Queue :=
  if q.halt then q
  else { q with fault := code, halt := true, head := if q.entry.isSome || !q.calls.isEmpty then q.head - 1 else q.head
                entry := none, skip := 0, wait := .none }

/-- A notification for a function raises its MSI-X vector, or leaves it pending while masked; a full ring counts a drop
(22 R495). -/
def Package.notify (pk : Package) (fn : Nat) (n : Note) : Package :=
  let f := pk.fnOf fn
  let raised := decide ((f.widx + 2 ^ 64 - f.ridx) % 2 ^ 64 < 1024) && !f.msixMask
  (if raised then { pk with sent := pk.sent ++ [.msix fn] } else pk).onFn fn fun f =>
    if (f.widx + 2 ^ 64 - f.ridx) % 2 ^ 64 < 1024 then
      { f with notes := (f.notes.filter fun m => m.seq % 1024 != f.widx % 1024) ++ [{ n with seq := f.widx }], widx := f.widx + 1
               msixPending := f.msixPending || f.msixMask }
    else { f with drops := f.drops + 1 }

/-- The record of a bind request has reached a slot table: the request is no longer to be presented. -/
def Package.presented (pk : Package) (r : BitVec 1024) : Package :=
  { pk with requests := pk.requests.filter fun q => !(recFn q.2 == recFn r && recLid q.2 == recLid r &&
      recPhase q.2 == recPhase r && recGang q.2 == recGang r) }

/-- The gang leaves its phase without being awaited, and the queue that launched it stops on fault 9 (09 R242). -/
def Package.refuseGang (pk : Package) (r : BitVec 1024) : Package :=
  let pk := pk.presented r
  let hit (p : Phase) : Bool := p.names (recFn r) (recLid r) (recPhase r)
  match pk.phases.find? hit with
  | none => pk
  | some p =>
    let pk := { pk with phases := pk.phases.map fun q => if hit q then
      { q with wanted := q.wanted.erase (recGang r), live := q.live.erase (recGang r) } else q }
    let u := vget pk.queues p.queue Queue.reset
    if u.halt then pk
    else ({ pk with queues := vset pk.queues p.queue (u.halted 9) }).notify u.fn
      { type := 1, arg := BitVec.ofNat 32 p.queue, tag := 9, seq := 0 }

/-- A refused record issues nothing, frees its slot and is reported with its case (09 R248). -/
def State.refuse (s : State) (i case_ : Nat) (r : BitVec 1024) : State :=
  s.onPkg fun pk => ((pk.onSlot i fun _ => Slot.reset).refuseGang r).post (.refusal (i / 64) (i % 64) case_)

/-- The bind has been accepted into a slot table (09 R242). -/
def Package.acceptGang (pk : Package) (r : BitVec 1024) : Package :=
  let take (p : Phase) : Phase :=
    if p.names (recFn r) (recLid r) (recPhase r) && p.wanted.contains (recGang r) then
      { p with wanted := p.wanted.erase (recGang r), live := p.live ++ [recGang r] }
    else p
  { (pk.presented r) with phases := pk.phases.map take }

/-! ### Tasks -/

/-- The syllables of an image. -/
def Package.imageWords (pk : Package) (fn : Nat) (va : Word) (n : Nat) : List (BitVec 32) :=
  (els 32 (n / 4) (ofBytes ((pk.physOf fn va n).map pk.readPA))).map (BitVec.ofNat 32)

/-- The rings of the scratchpad plan section, with SPB 0 (13 R334). -/
def planRings (plan : List (BitVec 192)) : Vector (Option Ring) 16 :=
  Vector.ofFn fun r : Fin 16 => match plan.find? fun e => planStages e != 0 && planRing e == r.val with
    | some e => ringOf (planAddr e) (planBytes e / planStages e) 1 (planStages e)
    | none => none

/-- The task of tile `t` of a gang, before its first bundle (01 R25, R42; 08 R208; 09 R249; 13 R326). -/
def newTask (pk : Package) (slot : Nat) (r : BitVec 1024) (plan : List (BitVec 192)) (t : Nat × Nat × Nat × Nat) : CoreCtx :=
  let fn := recFn r
  let arg : Word := r.extractLsb' 448 64
  let start (sec : Bool) : Stream :=
    let b := Stream.reset sec
    { b with x := (b.x.set 1 arg).set 2 (BitVec.ofNat 64 t.1), mode := .running, pc := if sec then recSentry r else recPentry r }
  let two := recSentry r != 0
  let quad := t.2.2.2 / 4
  { core := { (Core.reset (slot / 64 * 64 + t.2.2.2)) with
      fn := fn, lid := recLid r, phnum := recPhase r, free := rcdF r 80 80 == 1, gang := recGang r
      tile := BitVec.ofNat 8 t.1, tx := BitVec.ofNat 8 t.2.1, ty := BitVec.ofNat 8 t.2.2.1
      gw := BitVec.ofNat 8 (recW r), gh := BitVec.ofNat 8 (recH r), slot := slot, part := recPart r &&& 0x7F
      bgrp := r.extractLsb' 192 16, bcount := rcdF r 191 160, lock := recLockq r / 2 ^ quad % 2 == 1
      pmode := recDiscard r, csave := recCsave r + BitVec.ofNat 64 (imageSize * t.1), replay := (pk.fnOf fn).replay
      images := (recPentry r, pk.imageWords fn (recPentry r) (rcdF r 287 256)) ::
        if two then [(recSentry r, pk.imageWords fn (recSentry r) (rcdF r 319 288))] else []
      rings := planRings plan, ustore := standardImage }
    a := start false
    b := if two then start true else Stream.reset true }

def newTasks (pk : Package) (slot : Nat) (r : BitVec 1024) (plan : List (BitVec 192)) : List CoreCtx :=
  (recTiles r).map (newTask pk slot r plan)

/-- A context takes its core. It issues from the next clock on, with those of its gang (08 R205). -/
def State.install (s : State) (c : CoreCtx) : State :=
  let c := { c with core := { c.core with run := .ended, lcPart := .land } }
  if s.ctxs.any (·.core.id == c.core.id) then s.onCoreId c.core.id fun _ => c
  else { s with others := s.others ++ [c] }

/-- A new task finds the scratchpad bytes, their poison and the breakpoint units of its core as they stand
(DEDUCED, unsafe: notes/assumptions/33.md), and the report of a full tracking table (08 R210). Its accumulators and vector
registers are set at the bind, poison and all (01 R25; 13 R326; 18 R430). -/
def State.startTask (s : State) (c : CoreCtx) : State :=
  let old := (s.ctxs.find? (·.core.id == c.core.id)).map (·.core)
  let k := match old with
    | some o => { c.core with spad := o.spad, poison := o.poison.filter fun p => decide (p < c.core.nsb * Config.bankBytes)
                              bpctl := o.bpctl, bpval := o.bpval }
    | none => c.core
  if s.pkg.trackFull.any fun f => f.2 == (k.fn, k.lid, k.phnum) then
    (s.onPkg fun pk => { pk with trackTold := (pk.trackTold ++ [(k.id, k.fn, k.lid, k.phnum)]).eraseDups }).install
      { c with core := k.tellFull s.pkg.trackTold }
  else s.install { c with core := k }

/-- The gang's tasks start on their cores, with barriers of their own begun anew (08 R228), and the slot is RUNNING. -/
def State.run (s : State) (i : Nat) (cs : List CoreCtx) : State :=
  let s := s.onPkg fun pk => (pk.unseat i []).onSlot i fun sl => { sl with st := .running, ctxs := [] }
  cs.foldl State.startTask s

/-! ### Commands of the Puppeteer -/

/-- 09 R250. -/
def execWrite (die : BitVec 2) (slot : BitVec 6) (rcd : BitVec 1024) (plan : List (BitVec 192)) (s : State) : Res :=
  let i := slotNo die slot
  if (s.pkg.slot i).st ≠ .free then .next (s.late die slot 1)
  else match s.pkg.bindCase rcd plan with
    | some c => .next (s.refuse i c rcd)
    | none => .next (s.onPkg fun pk => (pk.acceptGang rcd).onSlot i fun sl =>
        { sl with st := .pending, rcd := rcd, plan := plan, since := pk.clock, born := pk.rtc, age := 0, resumed := false })

/-- 09 R252: the images are loaded and the cores held idle. With a core of the rectangle taken or reserved, ARM has no
effect and is reported as late (DESIGN CHOICE, unsafe: notes/assumptions/79.md). -/
def execArm (die : BitVec 2) (slot : BitVec 6) (rcd : BitVec 1024) (plan : List (BitVec 192)) (s : State) : Res :=
  let i := slotNo die slot
  if (s.pkg.slot i).st ≠ .free then .next (s.late die slot 2)
  else match s.pkg.bindCase rcd plan with
    | some c => .next (s.refuse i c rcd)
    | none =>
      if (recCores i rcd).any (s.coreBlocked i) then .next (s.late die slot 2)
      else .next (s.onPkg fun pk => pk.onSlot i fun sl =>
        { sl with st := .armed, rcd := rcd, plan := plan, ctxs := newTasks pk i rcd plan, since := pk.clock })

/-- 09 Table 6; a DISARM that loses to a match finds the slot RUNNING (09 R253). -/
def execDisarm (die : BitVec 2) (slot : BitVec 6) (s : State) : Res :=
  let i := slotNo die slot
  if (s.pkg.slot i).st = .armed then .next (s.onPkg fun pk => pk.onSlot i fun _ => Slot.reset)
  else .next (s.late die slot 3)

/-- 09 R257, R260. -/
def State.stopSlot (s : State) (i : Nat) : Option State :=
  if (s.pkg.slot i).st = .running ∧ (s.gangOf i).any fun c => !c.over then
    some (s.onPkg fun pk => pk.onSlot i fun sl => { sl with st := .stopping })
  else none

def execStop (die : BitVec 2) (slot : BitVec 6) (s : State) : Res :=
  .next ((s.stopSlot (slotNo die slot)).getD (s.late die slot 4))

/-- Tags of the requests that some tasks wait for. -/
def svcTags (cs : List CoreCtx) : List Nat := cs.flatMap fun c => c.a.svc.toList.map (·.1) ++ c.b.svc.toList.map (·.1)

/-- A gang's slot is freed with nothing of it kept: its phase no longer waits for it (09 R260), its requests are
dropped. -/
def State.freeSlot (s : State) (i : Nat) : State :=
  let sl := s.pkg.slot i
  let ids := (s.gangOf i).map (·.core.id)
  let tags := svcTags (s.gangOf i ++ sl.ctxs)
  let s := s.onPkg fun pk => { (((pk.gangDone (recFn sl.rcd) (recLid sl.rcd) (recPhase sl.rcd) (recGang sl.rcd)).unseat i ids).onSlot i fun _ => Slot.reset) with
    service := pk.service.filter fun q => !tags.contains q.1 }
  s.releaseSlot i

/-- A task of the gang has stopped on a fault (18 R423). -/
def State.faulted (s : State) (i : Nat) : Bool :=
  (s.gangOf i).any fun c => c.a.mode == .stopped || c.b.mode == .stopped

/-- RELEASE frees a SAVED slot, or the slot of a gang with a task stopped by a fault (09 Table 6; 18 R423). -/
def State.releaseBy (s : State) (i : Nat) : Option State :=
  let sl := s.pkg.slot i
  if sl.st = .saved ∨ (sl.st = .running ∧ s.faulted i = true) then
    some (s.freeSlot i)
  else none

def execRelease (die : BitVec 2) (slot : BitVec 6) (s : State) : Res :=
  .next ((s.releaseBy (slotNo die slot)).getD (s.late die slot 6))

/-- The new corner of a RESUME, with LOCKQ shifted with the rectangle; none when it breaks 09 R258 or leaves the grid. -/
def movedRecord (r : BitVec 1024) (corner : Option (BitVec 6)) : Option (BitVec 1024) :=
  match corner with
  | none => some r
  | some c =>
    let x := bits c.toNat 2 0
    let y := bits c.toNat 5 3
    if recLockq r ≠ 0 ∧ (x % 2 ≠ recX r % 2 ∨ y % 2 ≠ recY r % 2) then none
    else
      let n := setRec (setRec r 120 118 x) 123 121 y
      let quads := ((List.range 16).filter fun q => recLockq r / 2 ^ q % 2 = 1).map fun q =>
        (q / 4 + y / 2 - recY r / 2) * 4 + (q % 4 + x / 2 - recX r / 2)
      if recOffGrid n then none else some (setRec n 143 128 (quads.foldl (fun m q => m + 2 ^ q) 0))

/-- The images of a SAVED slot, read back (18 R427); none: a check refuses one of them. (DEDUCED, unsafe: notes/assumptions/58.md.) -/
def Package.loadImages (pk : Package) (sl : Slot) : Option (List CoreCtx) :=
  allSome (sl.ctxs.map fun c => c.load pk (c.image pk.podn sl.saveNo) (pk.getImage c.core.fn c.core.csave))

/-- The first poisoned image of a SAVED slot, with the offset (18 Table 8, sub-code 6). -/
def Package.poisonedImage (pk : Package) (sl : Slot) : Option (CoreCtx × Nat) :=
  sl.ctxs.findSome? fun c => (pk.imagePoison c.core.fn c.core.csave).map fun o => (c, o)

/-- 09 R258; 18 R427: RESUME makes the slot PENDING again, or is refused and leaves it SAVED, which the flag tells. -/
def State.resumeSlot (s : State) (i : Nat) (corner : Option (BitVec 6)) : Option (State × Bool) :=
  let sl := s.pkg.slot i
  let refused (s : State) : State × Bool := (s.onPkg (·.post (.resumeRefused (i / 64) (i % 64))), true)
  if sl.st ≠ .saved then none
  else match s.pkg.poisonedImage sl with
    | some (c, o) =>
      let r : StopRec := { trap := { code := 0x11, sub := 6, aux0 := BitVec.ofNat 64 o }, baddr := c.a.pc, lc := c.a.lcc }
      let bits := BitVec.ofNat 2048 (recordBits c.core s.pkg.podn false r)
      some (refused (s.onPkg fun pk => (pk.post (.stop c.core.id false r i bits)).stopGangs c.core.fn bits))
    | none => match movedRecord sl.rcd corner, s.pkg.loadImages sl with
      | some rcd, some cs => some (s.onPkg fun pk => pk.onSlot i fun sl =>
          { sl with st := .pending, rcd := rcd, ctxs := cs, since := pk.clock, born := pk.rtc, age := 0, resumed := true }, false)
      | _, _ => some (refused s)

def execResume (die : BitVec 2) (slot : BitVec 6) (corner : Option (BitVec 6)) (s : State) : Res :=
  .next (((s.resumeSlot (slotNo die slot) corner).map (·.1)).getD (s.late die slot 5))

/-! ### Placement and aging -/

/-- An answer to the request that a stream waits for lands at the lc after its SVC (04 R140). -/
def Stream.answered (t : Stream) (tag : Nat) (v : Word) : Stream :=
  match t.svc with
  | some (n, d) => if n = tag then { t with svc := none, pend := t.pend ++ [{ target := .x d v, left := 0, baddr := t.pc }] } else t
  | none => t

/-- An answer for a stream that no core holds: the register of its context has the value when the stream resumes (09 R256). -/
def Stream.answeredAway (t : Stream) (tag : Nat) (v : Word) : Stream :=
  match t.svc with
  | some (n, d) => if n = tag then { t with svc := none, x := if d = 0 then t.x else t.x.set d.toNat v d.isLt } else t
  | none => t

/-- A restored stream continues before its stop bundle (18 R427; 20 R456). -/
def Stream.resumed (t : Stream) : Stream :=
  if t.mode = .stopped then { t with mode := .running, stopRec := none, fresh := true, held := false } else t

/-- A restored task on its core. -/
def resumedTask (slot : Nat) (sl : Slot) (c : CoreCtx) : CoreCtx :=
  let at_ := ((recTiles sl.rcd).find? fun t => t.1 == c.core.tile.toNat).map fun t => slot / 64 * 64 + t.2.2.2
  { core := { c.core with id := at_.getD c.core.id, slot := slot, rescnt := c.core.rescnt + 1, halt := none }
    a := c.a.resumed, b := c.b.resumed }

/-- The QUAD barriers of a gang that has moved to a corner of another parity, where its quads are others: each outstanding
arrival counts in the quad that its task now belongs to (08 R228, R229). `old` and `new` are its tasks before and after.
(DEDUCED, unsafe: notes/assumptions/78.md.) -/
def State.requad (s : State) (i : Nat) (old new : List CoreCtx) : State × List CoreCtx :=
  if (old.zip new).all fun c => c.1.core.quadSeat == c.2.core.quadSeat then (s, new)
  else
    let waits (c : CoreCtx) : Bool := c.a.arrivals.any fun g => g.1 == 2 && (s.pkg.bar 2 c.core.quadSeat).gen == g.2
    let held := ((old.zip new).filter fun c => waits c.1).map (·.2.core)
    let keys := (new.map (·.core.quadSeat)).eraseDups
    let bar (q : Nat) : Bar :=
      { scope := 2, key := q, gen := 1, arrived := (held.filter fun k => k.quadSeat == q).map fun k => 2 * k.seat }
    let gens (c : CoreCtx) : List (BitVec 3 × Nat) := c.a.arrivals.map fun g => if g.1 = 2 then (2, if waits c then 1 else 0) else g
    (s.onPkg fun pk => { pk with bars := (pk.bars.filter fun b => !(b.scope == 2 && b.key / 64 == i)) ++ keys.map bar },
     (old.zip new).map fun c => { c.2 with a := { c.2.a with arrivals := gens c.1 } })

/-- A gang placed again whose streams had all completed before its stop: its slot is FREE at once (09 Table 6). -/
def State.closeOver (s : State) (i : Nat) : State :=
  let gang := s.gangOf i
  if !gang.isEmpty && gang.all CoreCtx.over then
    let home := s.core.id
    let sec := s.str.sec
    let s := (((s.focus ((gang.map (·.core.id)).headD 0)).gangComplete i).focus home)
    if s.str.sec == sec then s else s.swap
  else s

/-- 09 R251: the slot is placed, if its cores are free and no slot goes before it. A resumed gang goes on from its
contexts; any other is checked again, as the spec does not say it is not (DESIGN CHOICE, unsafe:
notes/assumptions/80.md), and starts. A resumed gang is not told of a tracking table that filled while it was away
(DESIGN CHOICE, unsafe: notes/assumptions/97.md). -/
def execPlacement (die : BitVec 2) (slot : BitVec 6) (s : State) : Res :=
  let i := slotNo die slot
  let sl := s.pkg.slot i
  let rival (j : Nat) : Bool := decide (j / 64 = i / 64 ∧ j ≠ i) && s.placeable j && s.pkg.first j i &&
    (recCores j (s.pkg.slot j).rcd).any (recCores i sl.rcd).contains
  if !s.placeable i || (List.range 256).any rival then .next s
  else if sl.resumed then
    let s := s.onPkg fun pk => pk.onSlot i fun sl => { sl with st := .running, ctxs := [], resumed := false }
    let r := s.requad i sl.ctxs (sl.ctxs.map (resumedTask i sl))
    .next ((r.2.foldl State.install r.1).closeOver i)
  else match s.pkg.bindCase sl.rcd sl.plan with
    | some c => .next (s.refuse i c sl.rcd)
    | none => .next (s.run i (newTasks s.pkg i sl.rcd sl.plan))

/-- Levels that a slot has waited: whole periods of 2^k µs of the wall clock since it became PENDING (00 R6; 09 R254), which
the RTC counts in nanoseconds. -/
def Package.levelsOf (pk : Package) (i : Nat) : Nat :=
  (pk.rtc - (pk.slot i).born) / (2 ^ vget pk.agek (i / 64) 10 * 1000)

/-- 09 R254: the age of a PENDING slot is that of its time and of AGEK as they stand. -/
def execAgingLevel (die : BitVec 2) (slot : BitVec 6) (s : State) : Res :=
  let i := slotNo die slot
  if (s.pkg.slot i).st = .pending then .next (s.onPkg fun pk => pk.onSlot i fun sl => { sl with age := pk.levelsOf i })
  else .next s

/-! ### The end of a stop -/

/-- Everything that the stopped streams of a core issued has been done (18 R421; 14 R384; 15 R405). -/
def CoreCtx.drained (c : CoreCtx) (pk : Package) : Bool :=
  let k := c.core
  let quiet (t : Stream) : Bool := t.gq.isEmpty && t.pend.all fun p => decide (p.arrive ≤ pk.clock) && (!t.sec || p.fault.isSome)
  let still (m : Mode) : Bool := m == .stopped || m == .done || m == .idle
  still c.a.mode && still c.b.mode && quiet c.a && quiet c.b &&
  k.copies.all (fun x => x.runs.isEmpty) && !(pk.migrations.any (·.core == k.id)) &&
  (match k.plan with | some p => p.acts.all (fun a => a.done || a.stuck) | none => true) &&
  k.probe.tab.all (fun w => w.fill.isNone) && !(k.stores.any fun e => e.sec || decide (neighbourSeq 0 ≤ e.seq)) &&
  !(k.chain.any (·.sec)) && k.chans.toList.all fun q => q.all fun m => decide (m.arrive ≤ pk.clock)

/-- 09 R258; 18 R424: the contexts go to CSAVE, the cores are released and the slot is SAVED. -/
def execSaveDone (die : BitVec 2) (slot : BitVec 6) (s : State) : Res :=
  let i := slotNo die slot
  let sl := s.pkg.slot i
  let cs := s.gangOf i
  if sl.st = .stopping ∧ recDiscard sl.rcd = false ∧ cs.all (·.drained s.pkg) = true then
    let n := s.pkg.draws
    let s := s.onPkg fun pk =>
      let pk := cs.foldl (fun pk c => pk.putImage c.core.fn c.core.csave (c.image pk.podn n)) pk
      { (pk.onSlot i fun sl => { sl with st := .saved, ctxs := cs, saveNo := n }) with draws := n + 1 }
    .next (s.releaseSlot i)
  else .next s

/-- 09 R259: the contexts are dropped and the slot is PENDING again; its cores' breakpoint units are cleared (20 R453). -/
def execDiscardDone (die : BitVec 2) (slot : BitVec 6) (s : State) : Res :=
  let i := slotNo die slot
  let sl := s.pkg.slot i
  let cs := s.gangOf i
  if sl.st = .stopping ∧ recDiscard sl.rcd = true ∧ cs.all (·.drained s.pkg) = true then
    let tags := svcTags cs
    let ids := cs.map (·.core.id)
    let s := s.onPkg fun pk => { ((pk.unseat i ids).onSlot i fun sl =>
        { sl with st := .pending, ctxs := [], since := pk.clock, born := pk.rtc, age := 0, resumed := false }) with
      service := pk.service.filter fun q => !tags.contains q.1 }
    .next ((s.releaseSlot i).onAll fun c => if ids.contains c.core.id then
      { c with core := { c.core with bpctl := Vector.replicate 4 0, bpval := Vector.replicate 4 0 } } else c)
  else .next s

end Sys2Proof.Machine
end

