-- ==== Sys2Proof/Machine/Queue.lean ====
section
/-! DEFINITION. Command queues and their entries (09 R236 to R247), recovery points and replica digests (18 R431 to
R435), notifications (22 R495), and the registers that the host and firmware write. -/
namespace Sys2Proof.Machine

def Package.queue (pk : Package) (q : BitVec 6) : Queue := pk.queues[q.toNat]'q.isLt
def Package.onQueue (pk : Package) (q : BitVec 6) (f : Queue → Queue) : Package :=
  { pk with queues := pk.queues.set q.toNat (f (pk.queue q)) q.isLt }
def State.onQueue (s : State) (q : BitVec 6) (f : Queue → Queue) : State := s.onPkg fun pk => pk.onQueue q f

/-- 09 R241: the queue stops before its entry, and its function is told. -/
def State.queueFault (s : State) (q : BitVec 6) (code : BitVec 8) : State :=
  s.onPkg fun pk => (pk.onQueue q (·.halted code)).notify (pk.queue q).fn
    { type := 1, arg := q.setWidth 32, tag := code.setWidth 32, seq := 0 }

/-- The entry in hand is done. -/
def Queue.pass (q : Queue) : Queue := { q with entry := none, wait := .none }

/-- How an entry ends: the queue goes on, waits with it, or stops on a queue fault. -/
inductive QEnd where
  | done (s : State)
  | wait (s : State)
  | fault (code : BitVec 8)

def queueRun (q : BitVec 6) (s : State) (e : QEnd) : Res :=
  match e with
  | .done t => .next (t.onQueue q Queue.pass)
  | .wait t => .next t
  | .fault c => .next (s.queueFault q c)

/-- Bytes that the interpreter or a Skidder reads in a function's space, or queue fault 3 (09 R238). -/
def Package.qread (pk : Package) (fn : Nat) (va : Word) (n : Nat) : Except (BitVec 8) (List Byte) :=
  let pas := pk.physOf fn va n
  if (pk.rangesFault fn { r := true } [(va, n)]).isSome ||
      pas.any (fun p => pk.unreachable p || pk.poisonAt p) then .error 3
  else .ok (pas.map pk.readPA)

/-- Whether a range may be written, and whether a write-blocked page holds it (10 R272). -/
def Package.qwritable (pk : Package) (fn : Nat) (va : Word) (n : Nat) : Bool :=
  (pk.rangesFault fn { w := true } [(va, n)]).isNone && !(pk.physOf fn va n).any pk.unreachable
def Package.qblocked (pk : Package) (fn : Nat) (va : Word) (n : Nat) : Bool :=
  (pageParts va n).any fun p => match pk.translate fn p.1 with | .ok e => leafBit e.leaf 7 | .error _ => false
def Package.qwrite (pk : Package) (fn : Nat) (va : Word) (bs : List Byte) : Package :=
  pk.perform fn (.bytes ((pk.physOf fn va bs.length).zip bs))

/-- Some phase launched from the queue has not committed. -/
def Package.uncommitted (pk : Package) (q : BitVec 6) : Bool := pk.phases.any (·.queue == q.toNat)

/-! ### Control entries -/

/-- 09 Table 4, OP 0x00. -/
def execQueueNop (q : BitVec 6) (s : State) : Res := queueRun q s (.done s)

/-- 09 R243. A LID that LAST = 1 has ended is forgotten: a later LAUNCH may name it again, with any phase number (DESIGN
CHOICE, unsafe: notes/assumptions/99.md). -/
def execPhaseEnd (q : BitVec 6) (last : BitVec 1) (s : State) : Res :=
  queueRun q s (if s.pkg.uncommitted q then .wait s
    else .done (if last = 1 then s.onQueue q fun u => { u with lid := none, last := none } else s))

/-- The test of 09 R244. -/
def condTest (cond : Nat) (w val : Word) : Bool :=
  match cond with
  | 0 => w == val
  | 1 => w != val
  | 2 => w.slt val
  | 3 => !w.slt val
  | 4 => w.ult val
  | _ => !w.ult val

/-- The condition of an entry: its fault, or whether it holds (09 R244). -/
def Package.condition (pk : Package) (fn : Nat) (cond : BitVec 3) (word val mask : Word) : Except (BitVec 8) Bool :=
  if 6 ≤ cond.toNat then .error 1
  else if word.toNat % 8 ≠ 0 then .error 2
  else (pk.qread fn word 8).map fun bs => condTest cond.toNat (BitVec.ofNat 64 (ofBytes bs) &&& mask) val

/-- Entries of the current list are skipped: ring entries as they arrive, those of a sub-list at once (09 R244, R245). -/
def Queue.skipOver (q : Queue) (n : Nat) : Queue :=
  match q.calls with
  | [] => { q with skip := q.skip + n }
  | a :: rest => { q with calls := (a + BitVec.ofNat 64 (32 * n)) :: rest }

/-- 09 R244. -/
def execCondSkip (q : BitVec 6) (cond : BitVec 3) (n : BitVec 32) (word val mask : BitVec 64) (s : State) : Res :=
  queueRun q s (match s.pkg.condition (s.pkg.queue q).fn cond word val mask with
    | .error c => .fault c
    | .ok b => .done (if b then s.onQueue q (·.skipOver n.toNat) else s))

/-- 09 R245: at depth 0 the entries jumped over count toward HEAD. -/
def execJump (q : BitVec 6) (off : BitVec 64) (s : State) : Res :=
  queueRun q s (match (s.pkg.queue q).calls with
    | [] => if off.toInt < 1 then .fault 6 else .done (s.onQueue q (·.skipOver (off.toNat - 1)))
    | a :: rest =>
      if off = 0 then .fault 6 else .done (s.onQueue q fun u => { u with calls := (a - 32 + 32 * off) :: rest }))

/-- 09 R245: the address of the next entry stays on the stack below the sub-list's. -/
def execQueueCall (q : BitVec 6) (sub : BitVec 64) (s : State) : Res :=
  queueRun q s (if sub.toNat % 32 ≠ 0 then .fault 2
    else if 4 ≤ (s.pkg.queue q).calls.length then .fault 4
    else .done (s.onQueue q fun u => { u with calls := sub :: u.calls }))

/-- 09 R245. -/
def execQueueReturn (q : BitVec 6) (s : State) : Res :=
  queueRun q s (match (s.pkg.queue q).calls with
    | [] => .fault 5
    | _ :: rest => .done (s.onQueue q fun u => { u with calls := rest }))

def waitTest (q : BitVec 6) (cond : BitVec 3) (word val mask : BitVec 64) (s : State) : QEnd :=
  match s.pkg.condition (s.pkg.queue q).fn cond word val mask with
  | .error c => .fault c
  | .ok true => .done s
  | .ok false => .wait s

/-- 09 R244: the queue is held until the test holds. -/
def execWaitValue (q : BitVec 6) (cond : BitVec 3) (word val mask : BitVec 64) (s : State) : Res :=
  queueRun q s (waitTest q cond word val mask s)

/-- 09 R244: a WAIT_VALUE in hand reads its word again. -/
def execWaitValueReread (q : BitVec 6) (s : State) : Res :=
  match (s.pkg.queue q).entry with
  | some w =>
    if bits w.toNat 7 0 = 7 then
      queueRun q s (waitTest q (w.extractLsb' 16 3) (w.extractLsb' 64 64) (w.extractLsb' 128 64) (w.extractLsb' 192 64) s)
    else .next s
  | none => .next s

/-- 09 R246. -/
def execWriteValue (q : BitVec 6) (commit notify : BitVec 1) (tag : BitVec 32) (word val : BitVec 64) (s : State) : Res :=
  let fn := (s.pkg.queue q).fn
  queueRun q s (if commit = 1 ∧ s.pkg.uncommitted q = true then .wait s
    else if word.toNat % 8 ≠ 0 then .fault 2
    else if !s.pkg.qwritable fn word 8 then .fault 3
    else if s.pkg.qblocked fn word 8 then .wait s
    else .done (s.onPkg fun pk =>
      let pk := pk.qwrite fn word (toBytes 8 val.toNat)
      if notify = 1 then pk.notify fn { type := 2, tag := tag, seq := 0 } else pk))

/-! ### LAUNCH -/

/-- Fields of a gang entry that a descriptor must leave 0 (09 R247). -/
def gangEntryLegal (r : BitVec 1024) : Bool :=
  decide (rcdF r 80 0 = 0 ∧ rcdF r 111 96 = 0 ∧ rcdF r 123 118 = 0 ∧ rcdF r 146 144 = 0 ∧ rcdF r 153 149 = 0 ∧
    rcdF r 639 512 = 0)

/-- A gang entry filled in for its bind request (09 R242, R247). -/
def fillRecord (r : BitVec 1024) (lid desc argp : Word) (phase : BitVec 16) (free gang fn : Nat) : BitVec 1024 :=
  let r := setRec (setRec (setRec (setRec r 63 0 lid.toNat) 79 64 phase.toNat) 80 80 free) 111 96 gang
  let r := setRec (setRec r 153 149 fn) 639 576 desc.toNat
  if argp = 0 then r else setRec r 511 448 argp.toNat

/-- The phase of a launch descriptor: FREE and its gangs' records, or the queue fault (09 R241, R242, R247). (DEDUCED, unsafe: notes/assumptions/42.md.)
A phase without gangs is malformed: the spec gives no range for the count (DESIGN CHOICE, unsafe: notes/assumptions/84.md).
The first entry with the phase's NUM counts, the reserved bytes of the others are not looked at, and the whole phase table is
read (DESIGN CHOICE, unsafe: notes/assumptions/100.md). -/
def Package.launchRead (pk : Package) (u : Queue) (phase : BitVec 16) (desc lid argp : Word) :
    Except (BitVec 8) (Bool × List (BitVec 1024)) := do
  if lid = 0 then .error 1
  if desc.toNat % 64 ≠ 0 then .error 2
  let ended := match u.lid, u.last with
    | some l, some n => if l = lid then decide (n.toNat < phase.toNat) else false
    | _, _ => true
  if !ended then .error 10
  let h := ofBytes (← pk.qread u.fn desc 64)
  let np := bits h 31 0
  let ng := bits h 63 32
  let po := bits h 127 64
  let go := bits h 191 128
  if np = 0 ∨ 4096 < np ∨ ng = 0 ∨ 65536 < ng ∨ po % 64 ≠ 0 ∨ go % 64 ≠ 0 ∨ bits h 511 192 ≠ 0 then .error 8
  let ps := els 128 np (ofBytes (← pk.qread u.fn (desc + BitVec.ofNat 64 po) (16 * np)))
  match ps.find? fun e => bits e 15 0 == phase.toNat with
  | none => .error 8
  | some e =>
    let first := bits e 63 32
    let count := bits e 95 64
    if bits e 31 17 ≠ 0 ∨ bits e 127 96 ≠ 0 ∨ count = 0 ∨ ng < first + count then .error 8
    let gs := (els 1024 count (ofBytes (← pk.qread u.fn (desc + BitVec.ofNat 64 (go + 128 * first)) (128 * count)))).map (BitVec.ofNat 1024)
    if !gs.all gangEntryLegal then .error 8
    .ok (bits e 16 16 == 1, gs.zipIdx.map fun g => fillRecord g.1 lid desc argp phase (bits e 16 16) g.2 u.fn)

/-- The armed slot that fires for a gang's record: on the lower die, then the lower slot (09 R252). Its gang is one of the
LAUNCH's own function (DESIGN CHOICE, unsafe: notes/assumptions/90.md). -/
def Package.armedFor (pk : Package) (r : BitVec 1024) : Option Nat :=
  (List.range 256).find? fun i =>
    let sl := pk.slot i
    sl.st == .armed && recFn sl.rcd == recFn r && rcdF sl.rcd 639 576 == rcdF r 639 576 && recPhase sl.rcd == recPhase r && recGang sl.rcd == recGang r

/-- An armed slot fires: LID and the argument pointer of its bind are the LAUNCH's (09 R242, R252). -/
def State.fire (s : State) (i : Nat) (lid argp : Word) : State :=
  let sl := s.pkg.slot i
  let arg (t : Stream) : Stream := if argp = 0 then t else { t with x := t.x.set 1 argp }
  let cs := sl.ctxs.map fun c => { core := { c.core with lid := lid, replay := (s.pkg.fnOf c.core.fn).replay }, a := arg c.a, b := arg c.b : CoreCtx }
  let rcd := setRec sl.rcd 63 0 lid.toNat
  (s.onPkg fun pk => pk.onSlot i fun sl =>
    { sl with rcd := if argp = 0 then rcd else setRec rcd 511 448 argp.toNat }).run i cs

/-- The Puppeteer presents bind requests in the order of their queues' priority, oldest first among equals (09 R239). -/
def Package.ask (pk : Package) (q : Nat) (r : BitVec 1024) : Package :=
  let before (x : Nat × BitVec 1024) : Bool := decide (q / 8 ≤ x.1 / 8)
  { pk with requests := pk.requests.takeWhile before ++ (q, r) :: pk.requests.dropWhile before }

/-- 09 R242: the gangs of the phase fire or are asked for; the entry is done once every bind has been accepted. -/
def execLaunch (q : BitVec 6) (phase : BitVec 16) (desc lid argp : BitVec 64) (s : State) : Res :=
  let u := s.pkg.queue q
  queueRun q s (if u.wait = .binds then
      match s.pkg.phases.find? (·.names u.fn lid phase) with
      | some p => if p.wanted.isEmpty then .done s else .wait s
      | none => .done s
    else if s.pkg.uncommitted q then .wait s
    else match s.pkg.launchRead u phase desc lid argp with
      | .error c => .fault c
      | .ok (free, gs) =>
        let armed := gs.map fun g => (g, s.pkg.armedFor g)
        let asked := (armed.filter (·.2.isNone)).map (·.1)
        let p : Phase := { lid := lid, num := phase, free := free, fn := u.fn, queue := q.toNat, wanted := asked.map recGang
                           live := (armed.filter (·.2.isSome)).map fun a => recGang a.1 }
        let s := s.onPkg fun pk => asked.foldl (fun pk r => pk.ask q.toNat r) { pk with phases := pk.phases ++ [p] }
        let s := armed.foldl (fun s a => match a.2 with | some i => s.fire i lid argp | none => s) s
        let s := s.onQueue q fun u => { u with lid := some lid, last := some phase, wait := .binds }
        if asked.isEmpty then .done s else .wait s)

/-! ### Recovery points and digests -/

/-- A region list as (SRC, BYTES, DST), or the queue fault (18 R431); a DIGEST ignores DST (18 R435). -/
def Package.regionList (pk : Package) (fn : Nat) (list : Word) (dst : Bool := true) :
    Except (BitVec 8) (List (Word × Nat × Word)) := do
  let tier0 (va : Word) (n : Nat) : Bool := (pageParts va n).all fun p => match pk.translate fn p.1 with
    | .ok e => leafTier e.leaf == 0
    | .error _ => false
  let h := ofBytes (← pk.qread fn list 64)
  let n := bits h 31 0
  if n = 0 ∨ 4096 < n ∨ bits h 511 32 ≠ 0 then .error 8
  let es := els 256 n (ofBytes (← pk.qread fn (list + 64) (32 * n)))
  if !tier0 list (64 + 32 * n) then .error 8
  let bad (e : Nat) : Bool :=
    let b := bits e 127 64
    decide (bits e 63 0 % 4096 ≠ 0 ∨ (dst = true ∧ bits e 191 128 % 4096 ≠ 0) ∨ b % 4096 ≠ 0 ∨ b = 0 ∨ 2 ^ 40 < b ∨
      bits e 255 192 ≠ 0)
  if es.any bad then .error 8
  .ok (es.map fun e => (BitVec.ofNat 64 e, bits e 127 64, BitVec.ofNat 64 (e / 2 ^ 128)))

/-- DST must translate to TIER 0 or TIER 2 (18 R431). -/
def Package.buddy (pk : Package) (fn : Nat) (r : Word × Nat × Word) : Bool :=
  (pageParts r.2.2 r.2.1).all fun p => match pk.translate fn p.1 with
    | .ok e => leafTier e.leaf == 0 || leafTier e.leaf == 2
    | .error _ => false

/-- One 4 KiB granule copied by the Skidder, unless it lies in a sealed range, which keeps its bytes (11 R305; DEDUCED,
unsafe: notes/assumptions/92.md), each side under the key of its page, which must be one of the function
(22 R497, R500); the granules written lose their poison (18 R430). -/
def Package.copyGranule (pk : Package) (fn : Nat) (src dst : Word) : Option Package :=
  match pk.translate fn src, pk.translate fn dst with
  | .ok a, .ok b =>
    let p := pk.phys a (bits src.toNat 56 0)
    let q := pk.phys b (bits dst.toNat 56 0)
    let under (q : PAddr) (g : Nat) : Bool := match pk.here q with
      | some a => decide (a ≤ 32 * g ∧ 32 * g < a + 4096)
      | none => false
    if (pk.fnOf fn).sealedAt (bits dst.toNat 56 0) then some pk
    else if pk.unreachable p || pk.unreachable q || !pk.keyOk fn a || !pk.keyOk fn b || pk.poison.any (under p) then none
    else
      let pk := pk.copyRange p q 4096
      let pk := { pk with poison := pk.poison.filter fun g => !under q g }
      some (if q.tier = 0 then pk else pk.egressAdd fn { q with key := 0, kid := 0 })
  | _, _ => none

/-- A region copied granule by granule, as far as it goes; whether all of it was. (DEDUCED, unsafe: notes/assumptions/61.md.) -/
def Package.copyRegion (pk : Package) (fn : Nat) (src dst : Word) (n : Nat) : Package × Bool :=
  (List.range (n / 4096)).foldl (fun (acc : Package × Bool) i =>
    if !acc.2 then acc
    else match acc.1.copyGranule fn (src + BitVec.ofNat 64 (4096 * i)) (dst + BitVec.ofNat 64 (4096 * i)) with
      | some pk => (pk, true)
      | none => (acc.1, false)) (pk, true)

/-- 18 R432: the copies begin once every phase of the queue has committed. -/
def execCheckpoint (q : BitVec 6) (point : BitVec 32) (list : BitVec 64) (s : State) : Res :=
  let u := s.pkg.queue q
  queueRun q s (match u.wait with
    | .copies _ _ => .wait s
    | _ =>
      if s.pkg.uncommitted q then .wait s
      else match s.pkg.regionList u.fn list with
        | .error c => .fault c
        | .ok rs => if !rs.all (s.pkg.buddy u.fn) then .fault 8
          else .wait (s.onQueue q fun u => { u with wait := .copies point list }))

/-- 18 R432: the copies have been performed and the point is current; with `failed`, or on a fault of a copy, queue
fault 3 leaves the previous point. -/
def execCheckpointCopiesDone (q : BitVec 6) (failed : BitVec 1) (s : State) : Res :=
  let u := s.pkg.queue q
  match u.wait with
  | .copies point list =>
    match s.pkg.regionList u.fn list with
    | .error c => .next (s.queueFault q c)
    | .ok rs =>
      if failed = 1 then .next (s.queueFault q 3)
      else
        let r := rs.foldl (fun (acc : Package × Bool) r =>
          if !acc.2 then acc
          else if (acc.1.rangesFault u.fn { r := true } [(r.1, r.2.1)]).isSome ||
              (acc.1.rangesFault u.fn { w := true } [(r.2.2, r.2.1)]).isSome then (acc.1, false)
          else acc.1.copyRegion u.fn r.1 r.2.2 r.2.1) (s.pkg, true)
        let s := s.onPkg fun _ => r.1
        if !r.2 then .next (s.queueFault q 3)
        else
          let p : Point := { num := point, list := list, queue := q.toNat, head := u.head, depth := u.calls.length }
          .next ((s.onPkg fun pk => pk.onFn u.fn fun f => { f with point := some p, egressIdx := 0, incomplete := false }).onQueue q Queue.pass)
  | _ => .next s

/-- 18 R435. -/
def execDigest (q : BitVec 6) (list result : BitVec 64) (s : State) : Res :=
  let u := s.pkg.queue q
  queueRun q s (match u.wait with
    | .digest _ _ => .wait s
    | _ =>
      if s.pkg.uncommitted q then .wait s
      else match s.pkg.regionList u.fn list false with
        | .error c => .fault c
        | .ok _ => if !s.pkg.qwritable u.fn result 72 then .fault 3
          else .wait (s.onQueue q fun u => { u with wait := .digest list result }))

/-- The message of a digest: for each entry its BYTES, then its bytes (18 R435). -/
def Package.digestMessage (pk : Package) (fn : Nat) (rs : List (Word × Nat × Word)) : Except (BitVec 8) (List Byte) :=
  rs.foldl (fun acc r => do
    let m ← acc
    let bs ← pk.qread fn r.1 r.2.1
    .ok (m ++ toBytes 8 r.2.1 ++ bs)) (.ok [])

/-- 18 R435: the result and then the value 1 are written. -/
def execDigestComplete (q : BitVec 6) (s : State) : Res :=
  let u := s.pkg.queue q
  match u.wait with
  | .digest list result =>
    match s.pkg.regionList u.fn list false >>= s.pkg.digestMessage u.fn with
    | .error c => .next (s.queueFault q c)
    | .ok m =>
      if !s.pkg.qwritable u.fn result 72 then .next (s.queueFault q 3)
      else .next ((s.onPkg fun pk => pk.qwrite u.fn result (shake256 m ++ toBytes 8 1)).onQueue q Queue.pass)
  | _ => .next s

/-! ### Registers -/

/-- A write of TAIL takes effect; one out of range raises queue fault 7 (09 R237). -/
def Package.tailWrite (pk : Package) (q : BitVec 6) (v : Word) : Package :=
  let u := pk.queue q
  let bad := decide (v.toNat < u.head.toNat ∨ u.head.toNat + 2 ^ u.log2n < v.toNat)
  let pk := pk.onQueue q fun u => { u with tail := v }
  if bad && !u.halt then
    (pk.onQueue q fun u => { u with fault := 7, halt := true, entry := none, wait := .none }).notify u.fn
      { type := 1, arg := q.setWidth 32, tag := 7, seq := 0 }
  else pk

/-- The host's earlier writes of the queue's function that still wait: a write of TAIL is a release of them (09 R237). -/
def Package.tailWaits (pk : Package) (q : BitVec 6) : Bool :=
  pk.waiting.any fun w => match w with
    | .bar2 fn _ _ => fn.toNat == (pk.queue q).fn
    | .tail _ p _ => p == q

/-- A write of TAIL through a function's BAR0 takes effect, or takes its place behind those that wait; the block of another
function ignores it (22 R494). -/
def Package.tailTry (pk : Package) (fn : BitVec 5) (q : BitVec 6) (v : Word) : Package :=
  if (pk.queue q).fn ≠ fn.toNat then pk
  else if pk.tailWaits q then { pk with waiting := pk.waiting ++ [.tail fn q v] }
  else pk.tailWrite q v

/-- 09 R237. -/
def execTail (block : BlockAt) (v : BitVec 64) (s : State) : Res :=
  s.hosted (.next (s.onPkg (·.tailTry block.fn block.q v)))

/-- IDLE of a queue (09 Table 1). -/
def Queue.idle (u : Queue) : Bool := u.head == u.tail && u.calls.isEmpty && u.entry.isNone

/-- The register block of a queue as a read gives it (09 Table 1): RST and the reserved fields read 0. -/
def Queue.block (u : Queue) : Nat :=
  u.base.toNat + u.tail.toNat * 2 ^ 64 + u.head.toNat * 2 ^ 128 + u.fault.toNat * 2 ^ 192 + (if u.halt then 2 ^ 200 else 0) +
    (if u.idle then 2 ^ 201 else 0) + u.log2n * 2 ^ 256 + u.fn * 2 ^ 264 + (if u.en then 2 ^ 272 else 0)

/-- 09 Table 1, RST. The launch in hand, with its LID and its last phase, stays open: the spec does not say that RST ends it
(DESIGN CHOICE, unsafe: notes/assumptions/81.md). -/
def Queue.rst (q : Queue) : Queue :=
  { q with head := q.tail, fault := 0, halt := false, calls := [], skip := 0, entry := none, wait := .none }

/-- A change of a queue's register block through a function's BAR0: the block of another function ignores it (22 R494). -/
def State.onBlock (s : State) (fn : BitVec 5) (q : BitVec 6) (f : Queue → Queue) : State :=
  if (s.pkg.queue q).fn = fn.toNat then s.onQueue q f else s

/-- 09 Table 1. A write of TAIL that still waits behind the host's earlier writes is overtaken: HEAD becomes the TAIL that
stands, and the waiting one takes effect later (DESIGN CHOICE, unsafe: notes/assumptions/98.md). -/
def execRst (block : BlockAt) (s : State) : Res := s.hosted (.next (s.onBlock block.fn block.q Queue.rst))

end Sys2Proof.Machine
end

