-- ==== Sys2Proof/Machine/Host.lean ====
section
/-! DEFINITION. The host and the outside: the management mailbox (22 R496), recovery (18 R434), slot plans and ports (21
R465 to R475), BAR0, BAR2, region keys and TDIs (22 R493 to R500), boot and resets (22 R501 to R503), stacks, errors and
the board (10 R262 to R264; 18 R428, R430; 22 R505, R506). -/
namespace Sys2Proof.Machine

/-! ### The mailbox -/

/-- A command of the mailbox: what it does, with its RESULT; none while it goes on. -/
abbrev MbRun := State × Option Nat

/-- A write of CMD starts the command with ARG and TAG as they stand; while the mailbox is busy it is ignored (22 R496).
The event stands for the host's writes of ARG and TAG and then of CMD. (DEDUCED, unsafe: notes/assumptions/46.md.) -/
def mailbox (fn : BitVec 5) (cmd : BitVec 8) (tag : Option Word) (args : List Word) (s : State) (run : State → MbRun) : Res :=
  s.hosted <|
    let busy := (s.pkg.fnOf fn.toNat).mbState == 1
    let put (g : FnState → FnState) (s : State) : State := s.onPkg fun pk => pk.onFn fn.toNat g
    let s := put (fun f => { f with mbTag := tag.getD f.mbTag, mbArg := args.zipIdx.foldl (fun v a => vset v a.2 a.1) f.mbArg }) s
    if busy then .next s
    else
      let s := put (fun f => { f with mbCmd := cmd, mbState := 1, mbResult := 0 }) s
      match run s with
      | (s, some r) => .next (put (fun f => { f with mbState := 2, mbResult := r }) s)
      | (s, none) => .next s

/-- Commands of the physical function alone (22 Table 5). -/
def physical (fn : BitVec 5) (s : State) (r : MbRun) : MbRun := if fn = 0 then r else (s, some 3)

/-- A context whose stream waits for a request's answer. -/
def CoreCtx.asks (c : CoreCtx) (tag : Nat) : Bool := (svcTags [c]).contains tag

/-- The function whose task waits for an answer, in a slot or on a core. -/
def State.askedBy (s : State) (tag : Nat) : Option Nat :=
  ((s.ctxs ++ s.pkg.slots.toList.flatMap (·.ctxs)).find? (·.asks tag)).map (·.core.fn)

/-- The value in the register's place in the image that CSAVE holds (18 Tables 3, 5). -/
def Package.keepAnswer (pk : Package) (c : CoreCtx) (tag : Nat) (v : Word) : Package :=
  let one (t : Stream) (block : Nat) (pk : Package) : Package := match t.svc with
    | some (n, d) =>
      if n = tag ∧ d ≠ 0 then pk.fnPut c.core.fn (c.core.csave + BitVec.ofNat 64 (block + 8 * d.toNat)) (toBytes 8 v.toNat) else pk
    | none => pk
  one c.b 0xD000 (one c.a 0x1000 pk)

/-- An answer lands at the lc after its SVC; one for a task in a SAVED slot is kept in CSAVE and lands when the task
resumes (09 R256). -/
def State.deliver (s : State) (tag : Nat) (v : Word) : State :=
  let s := s.onAll fun c => if c.asks tag then { c with a := c.a.answered tag v, b := c.b.answered tag v } else c
  let away (c : CoreCtx) : CoreCtx := { c with a := c.a.answeredAway tag v, b := c.b.answeredAway tag v }
  s.onPkg fun pk =>
    let saved := (pk.slots.toList.filter (·.st == .saved)).flatMap (·.ctxs)
    let pk := saved.foldl (fun pk c => pk.keepAnswer c tag v) pk
    { pk with
      service := pk.service.filter (·.1 != tag)
      slots := pk.slots.map fun sl => if sl.ctxs.any (·.asks tag) then { sl with ctxs := sl.ctxs.map away } else sl }

/-- 22 Table 5, CMD 1; 09 R256. -/
def execAnswer (fn : BitVec 5) (tag v : BitVec 64) (s : State) : Res :=
  mailbox fn 1 (some tag) [v] s fun s =>
    if !s.pkg.service.any (·.1 == tag.toNat) then (s.onPkg (·.post (.unknownTag tag)), some 1)
    else if fn ≠ 0 ∧ s.askedBy tag.toNat ≠ some fn.toNat then (s, some 3)
    else (s.deliver tag.toNat v, some 0)

/-- 09 R256: the Puppeteer answers a request itself. -/
def execPuppeteerServiceAnswer (tag v : BitVec 64) (s : State) : Res :=
  .next (if s.pkg.service.any (·.1 == tag.toNat) then s.deliver tag.toNat v else s)

/-- The current point of a function has a number. -/
def Package.pointOf (pk : Package) (fn : Nat) (point : Word) : Bool :=
  match (pk.fnOf fn).point with | some p => p.num.toNat == point.toNat | none => false

/-- 18 R434: recovery begins when the number is that of the function's current point. A virtual function that names another's
is not permitted (22 R496). -/
def execRecover (fn : BitVec 5) (point : BitVec 64) (s : State) : Res :=
  mailbox fn 2 none [point] s fun s =>
    if s.pkg.pointOf fn.toNat point then (s.onPkg fun pk => pk.onFn fn.toNat fun f => { f with recovering := true }, none)
    else if fn ≠ 0 ∧ (List.range 17).any (fun g => g != fn.toNat && s.pkg.pointOf g point) = true then (s, some 3)
    else (s, some 2)

/-- Slots of a function. -/
def Package.slotsOf (pk : Package) (fn : Nat) : List Nat :=
  (List.range 256).filter fun i => (pk.slot i).st != .free && (pk.slot i).fn == fn

/-- The slots of a function are freed, its phases dropped and its queues reset as RST does. -/
def State.clearFn (s : State) (fn : Nat) : State :=
  let s := (s.pkg.slotsOf fn).foldl State.freeSlot s
  s.onPkg fun pk => { pk with phases := pk.phases.filter (·.fn != fn)
                              queues := pk.queues.map fun q => if q.fn = fn then q.rst else q }

/-- Every DST of a region list copied back to its SRC, in entry order; whether all of it was. -/
def Package.copyBack (pk : Package) (fn : Nat) (rs : List (Word × Nat × Word)) : Package × Bool :=
  rs.foldl (fun acc r => if acc.2 then acc.1.copyRegion fn r.2.2 r.1 r.2.1 else acc) (pk, true)

/-- 18 R434: the copies are done; the slots are released, the queues reset, and the point's queue goes on from the
recorded position. -/
def execRecoveryCopiesDone (fn : BitVec 5) (s : State) : Res :=
  let f := s.pkg.fnOf fn.toNat
  let stop (r : Nat) (s : State) : State := s.onPkg fun pk => pk.onFn fn.toNat fun f => { f with mbState := 2, mbResult := r }
  if f.mbState ≠ 1 then .next s
  else match f.point with
    | none => .next (stop 2 s)
    | some p => match s.pkg.regionList fn.toNat p.list with
      | .error _ => .next (stop 2 s)
      | .ok rs =>
        let r := s.pkg.copyBack fn.toNat rs
        let s := s.onPkg fun _ => r.1
        if !r.2 then .next (stop 2 s)
        else
          let s := (s.clearFn fn.toNat).onPkg fun pk => pk.onFn fn.toNat fun f => { f with recovering := false }
          .next (stop 0 (s.onPkg fun pk => { pk with
            queues := vset pk.queues p.queue { vget pk.queues p.queue Queue.reset with head := p.head, en := true } }))

/-- A slot command of the mailbox: the slot number, its owner, then the command itself, which may be refused (22 Table 5). -/
def slotCommand (fn : BitVec 5) (slotId : Word) (cmd : Nat) (s : State) (run : Nat → Option (State × Bool)) : MbRun :=
  let i := slotId.toNat
  if 256 ≤ i then (s, some 2)
  else if fn ≠ 0 ∧ ((s.pkg.slot i).st = .free ∨ (s.pkg.slot i).fn ≠ fn.toNat) then (s, some 3)
  else match run i with
    | some r => (r.1, some (if r.2 then 2 else 0))
    | none => (s.late (BitVec.ofNat 2 (i / 64)) (BitVec.ofNat 6 i) cmd, some 2)

/-- 22 Table 5, CMD 3. -/
def execMailboxStop (fn : BitVec 5) (slotId : BitVec 64) (s : State) : Res :=
  mailbox fn 3 none [slotId] s fun s => slotCommand fn slotId 4 s fun i => (s.stopSlot i).map (·, false)

/-- 22 Table 5, CMD 4; ARG1 of all ones keeps the corner. -/
def execMailboxResume (fn : BitVec 5) (slotId corner : BitVec 64) (s : State) : Res :=
  mailbox fn 4 none [slotId, corner] s fun s =>
    slotCommand fn slotId 5 s fun i => s.resumeSlot i (if corner = BitVec.allOnes 64 then none else some (corner.setWidth 6))

/-- 22 Table 5, CMD 5. -/
def execMailboxRelease (fn : BitVec 5) (slotId : BitVec 64) (s : State) : Res :=
  mailbox fn 5 none [slotId] s fun s => slotCommand fn slotId 6 s fun i => (s.releaseBy i).map (·, false)

/-! ### Slot plans -/

/-- A plan image that 21 Tables 1 and 2 allow. -/
def planOf (hdr : Nat) (route map : List Byte) : Option PodPlan :=
  let nslot := bits hdr 63 48
  let ns := bits hdr 47 32
  let codes := (els 2 (36 * nslot / 2) (ofBytes map)).map (BitVec.ofNat 2)
  if bits hdr 511 96 = 0 ∧ bits hdr 31 10 = 0 ∧ 1 ≤ bits hdr 95 80 ∧ nslot % 16 = 0 ∧ 16 ≤ nslot ∧ nslot ≤ 4096 ∧
      32 ≤ ns ∧ ns ≤ 4096 ∧ codes.contains 3 = false then
    some { hdr := BitVec.ofNat 512 hdr, route := route, map := codes }
  else none

/-- The plan image at an address of the physical function; none where 21 R468 refuses it. (DEDUCED, unsafe: notes/assumptions/43.md.) -/
def Package.planAt (pk : Package) (addr : Word) : Option PodPlan :=
  match pk.fnRead 0 addr 64 with
  | none => none
  | some h =>
    let n := 18 * bits (ofBytes h) 63 48 * 2 / 8
    match pk.fnRead 0 (addr + 64) 1024, pk.fnRead 0 (addr + 1088) n with
    | some r, some m => planOf (ofBytes h) r m
    | _, _ => none

/-- 21 R468. -/
def execPlanload (fn : BitVec 5) (slot addr : BitVec 64) (s : State) : Res :=
  mailbox fn 6 none [slot, addr] s fun s => physical fn s
    (match if slot.toNat < 4 then s.pkg.planAt addr else none with
    | some p => (s.onPkg fun pk => { pk with planSlots := vset pk.planSlots slot.toNat (some p) }, some 0)
    | none => (s.onPkg (·.post (.refusedLoad fn.toNat)), some 2))

/-- 21 R474: the slot becomes ACTIVE; the event stands for the common slot boundary. (DESIGN CHOICE, safe: notes/assumptions/47.md.) -/
def execPlanact (fn : BitVec 5) (slot : BitVec 64) (s : State) : Res :=
  mailbox fn 7 none [slot] s fun s => physical fn s
    (match if slot.toNat < 4 then vget s.pkg.planSlots slot.toNat none else none with
    | some p => (s.onPkg fun pk => { pk with active := some p, frameSlot := 0 }, some 0)
    | none => (s, some 2))

/-- 20 R448; 22 Table 5, CMD 8. -/
def execDebug (fn : BitVec 5) (word target : BitVec 64) (s : State) : Res :=
  mailbox fn 8 none [word, target] s fun s =>
    if fn ≠ 0 ∧ target.toNat ≠ fn.toNat then (s, some 3)
    else if 16 < target.toNat ∨ (s.pkg.fnOf target.toNat).tdi = .run then (s, some 2)
    else (s.onPkg fun pk => pk.onFn target.toNat fun f => { f with dbg := word }, some 0)

/-- 21 R466. -/
def execPeerwin (fn : BitVec 5) (base bytes who : BitVec 64) (s : State) : Res :=
  mailbox fn 9 none [base, bytes, who] s fun s => physical fn s
    (s.onPkg fun pk => { pk with peerWins := pk.peerWins ++ [(base.toNat, bytes.toNat, who.toNat)] }, some 0)

/-- A reserved command (22 Table 5). -/
def mailboxReserved (fn : BitVec 5) (cmd : BitVec 8) (s : State) : Res :=
  mailbox fn cmd none [] s fun s => (s, some 4)

/-- A pod-wide pause begins (21 R472). -/
def Package.pause (pk : Package) : Package :=
  if pk.active.isNone || pk.paused then pk else { pk with paused := true, pauses := pk.pauses + 1 }

/-- The mask bit of a function's MSI-X vector: unmasked, a vector that is pending is sent (22 R493, R495). (PRESUMED, unsafe: notes/assumptions/77.md.) -/
def Package.maskMsix (pk : Package) (fn : Nat) (mask : Bool) : Package :=
  let f := pk.fnOf fn
  (if f.msixPending && !mask then { pk with sent := pk.sent ++ [.msix fn] } else pk).onFn fn fun f =>
    { f with msixMask := mask, msixPending := f.msixPending && mask }

/-- A write of CMD with the words as they stand. -/
def mailboxStart (fn : BitVec 5) (cmd : BitVec 8) (s : State) : Res :=
  let f := s.pkg.fnOf fn.toNat
  match cmd.toNat with
  | 1 => execAnswer fn f.mbTag f.mbArg[0] s
  | 2 => execRecover fn f.mbArg[0] s
  | 3 => execMailboxStop fn f.mbArg[0] s
  | 4 => execMailboxResume fn f.mbArg[0] f.mbArg[1] s
  | 5 => execMailboxRelease fn f.mbArg[0] s
  | 6 => execPlanload fn f.mbArg[0] f.mbArg[1] s
  | 7 => execPlanact fn f.mbArg[0] s
  | 8 => execDebug fn f.mbArg[0] f.mbArg[1] s
  | 9 => execPeerwin fn f.mbArg[0] f.mbArg[1] f.mbArg[2] s
  | _ => mailboxReserved fn cmd s

/-- The class code in the configuration space of every function (22 R493). -/
def classCode : BitVec 24 := 0x120000

/-- The answer to a configuration request: request-retry status until the boot sequence has come to its end (22 R501). (DEDUCED, unsafe: notes/assumptions/101.md.) -/
def Package.configAnswer (pk : Package) : Option Nat :=
  if pk.bootst = 1 ∨ 5 ≤ pk.bootStep then some classCode.toNat else none

/-- What the board's controller reads: BOOTST (0), the error counter of a die (1 to 4), and a temperature or the power, a
free value (22 R506; DESIGN CHOICE, safe: notes/assumptions/5.md). -/
def Package.boardAnswer (pk : Package) (what : Nat) : Package × Nat :=
  if what = 0 then (pk, pk.bootst.toNat)
  else if what ≤ 4 then (pk, vget pk.errors (what - 1) 0)
  else ({ pk with draws := pk.draws + 1 }, (Config.sensor pk.draws).toNat)

/-- A write of the host or of firmware to a register (09 R236, R254; 10 R267, R279; 15 R406; 18 R433, R438, R440;
20 R454; 22 R494 to R496); what the runtime asks of the Puppeteer (15 R409); the pod's pause (21 R472); and the reads of a
configuration request and of the board (22 R501, R506). -/
def execRegisterWrite (reg : HostReg) (v : BitVec 64) (s : State) : Res :=
  let onFn (fn : BitVec 5) (f : FnState → FnState) : Res := .next (s.onPkg fun pk => pk.onFn fn.toNat f)
  match reg with
  | .configRead fn => .next (s.onPkg fun pk => { pk with sent := pk.sent ++ [.config fn.toNat pk.configAnswer] })
  | .boardRead => .next (s.onPkg fun pk =>
      let r := pk.boardAnswer v.toNat
      { r.1 with sent := pk.sent ++ [.board r.2] })
  | _ => s.hosted (match reg with
  | .configRead _ | .boardRead => .next s
  | .qbase fn q => .next (s.onBlock fn q fun u => if u.en || bits v.toNat 11 0 != 0 then u else { u with base := v })
  | .qlog2n fn q => .next (s.onBlock fn q fun u =>
      if u.en || !decide (4 ≤ v.toNat ∧ v.toNat ≤ 20) then u else { u with log2n := v.toNat })
  | .qen fn q => .next (s.onBlock fn q fun u => { u with en := v.getLsbD 0 })
  | .qfn q => .next (s.onQueue q fun u => { u with fn := v.toNat % 32 })
  | .agek die => .next (s.onPkg fun pk => { pk with agek := vset pk.agek die.toNat (v.toNat % 16) })
  | .root fn => onFn fn fun f => { f with root := v }
  | .retag fn => onFn fn fun f => { f with retag := v }
  | .notifq fn => onFn fn fun f => { f with notifq := if v.toNat % 64 = 0 then v else f.notifq }
  | .journal fn => .next (s.onPkg fun pk =>
      let pk := pk.onFn fn.toNat fun f => { f with journal := v, journalIdx := 0, dropped := false }
      (pk.fnWrite fn.toNat v (List.replicate 64 0)).getD pk)
  | .journalCap fn => onFn fn fun f =>
      { f with journalCap := if 4096 ≤ v.toNat ∧ v.toNat ≤ 2 ^ 28 then v.toNat else f.journalCap }
  | .egress fn => onFn fn fun f => { f with egress := v }
  | .replay fn => onFn fn fun f => { f with replay := v.getLsbD 0, replayAt := 0 }
  | .ridx fn => onFn fn fun f => { f with ridx := v.toNat }
  | .arg fn k => onFn fn fun f => { f with mbArg := vset f.mbArg k.toNat v }
  | .tag fn => onFn fn fun f => { f with mbTag := v }
  | .cmd fn => mailboxStart fn (v.setWidth 8) s
  | .vfEnable fn => onFn fn fun f => { f with enabled := v.getLsbD 0 || fn == 0 }
  | .mbRsv fn k => onFn fn fun f => { f with mbRsv := vset f.mbRsv k.toNat v }
  | .bar2Size fn => onFn fn fun f => if 30 ≤ v.toNat ∧ v.toNat ≤ 40 then { f with bar2 := v.toNat } else f
  | .msixMask fn => .next (s.onPkg fun pk => pk.maskMsix fn.toNat (v.getLsbD 0))
  | .noteRsv fn k => onFn fn fun f => { f with noteRsv := vset f.noteRsv k.toNat v }
  | .migrate fn va => .next (s.runtimeMigrate fn.toNat va v)
  | .podPause => .next (s.onPkg fun pk =>
      if v.getLsbD 0 then ({ pk with farPause := true }).pause else { pk with farPause := false })
  | .bpctl u => .next (s.onCore fun k => { k with bpctl := vset k.bpctl u.toNat (v &&& 0x3FF) })
  | .bpval u => .next (s.onCore fun k => { k with bpval := vset k.bpval u.toNat v }))

/-! ### Notifications -/

/-- The `nth` newest stop record of a function that has been posted for a slot. -/
def Package.record (pk : Package) (fn slot nth : Nat) : Option (BitVec 2048) :=
  (pk.puppet.reverse.filterMap fun m => match m with
    | .stop _ _ _ sl rcd => if sl = slot ∧ bits rcd.toNat 545 541 = fn then some rcd else none
    | _ => none)[nth]?

/-- 22 R495: the entry, after the copy of the record for a type-3 entry: the one that the Puppeteer posts of those it has. (DESIGN CHOICE, safe: notes/assumptions/68.md.) -/
def execPuppeteerNotification (fn : BitVec 5) (type : BitVec 8) (arg tag : BitVec 32) (addr v : BitVec 64)
    (payload : NotePayload) (s : State) : Res :=
  let f := s.pkg.fnOf fn.toNat
  let room := decide ((f.widx + 2 ^ 64 - f.ridx) % 2 ^ 64 < 1024)
  let s := match if type = 3 ∧ room = true then s.pkg.record fn.toNat arg.toNat payload.nth else none with
    | some r => s.onPkg fun pk => pk.onFn fn.toNat fun (g : FnState) =>
        let i := g.widx % 256
        let kept := g.copies.filter fun (c : Nat × BitVec 2048) => c.1 != i
        { g with copies := kept ++ [(i, r)] }
    | none => s
  .next (s.onPkg fun pk => pk.notify fn.toNat
    { type := type, arg := arg, tag := tag, addr := addr, value := v, payload := payload.bits, seq := 0 })

/-! ### Stacks and errors -/

/-- 10 R264; 21 R472: while a stack is hot, the package is frozen. -/
def execStackCriticalTemperature (stack : BitVec 4) (s : State) : Res :=
  .next (if 12 ≤ stack.toNat ∨ s.pkg.hot.contains stack.toNat then s
    else s.onPkg fun pk => ({ pk with hot := pk.hot ++ [stack.toNat] }).pause)

/-- 10 R264. -/
def execStackSelfRefreshExit (stack : BitVec 4) (s : State) : Res :=
  .next (s.onPkg fun pk => { pk with hot := pk.hot.erase stack.toNat })

/-- 10 R262: a reserved code leaves the setting unchanged. (DESIGN CHOICE, safe: notes/assumptions/63.md.) -/
def execLaneRatioSwitch (stack : BitVec 4) (code : BitVec 3) (s : State) : Res :=
  .next (if 4 < code.toNat then s else s.onPkg fun pk => { pk with ratio := vset pk.ratio stack.toNat code })

/-- 18 R428: counted and reported; no value changes. -/
def execCorrectedError (die : BitVec 2) (s : State) : Res :=
  .next (s.onPkg fun pk => ({ pk with errors := vset pk.errors die.toNat (vget pk.errors die.toNat 0 + 1) }).post (.corrected die.toNat))

/-- 18 R430: the granule of device memory, or of the core's pool, is poisoned. -/
def execUncorrectableError (site : ErrSite) (s : State) : Res :=
  match site with
  | .device a =>
    if Config.devBytes ≤ a then .next s
    else .next (s.onPkg fun pk => ({ pk with
      poison := if pk.poison.contains (a / 32) then pk.poison else pk.poison ++ [a / 32] }).post (.poisoned (a / 32 * 32)))
  | .pool a =>
    if Config.poolBytes ≤ a then .next s
    else .next (s.onCore fun k => { k with
      poison := if k.poison.contains (a / 32 * 32) then k.poison else k.poison ++ [a / 32 * 32] })

/-! ### Ports -/

/-- The plan's code of a port in a slot (21 R468). -/
def PodPlan.code (p : PodPlan) (port slot : Nat) : Nat := (p.map.getD (port * bits p.hdr.toNat 63 48 + slot) 0).toNat

/-- A port in one slot (21 R470): a scheduled slot lost to a retry owes a chunk, and a scheduled or slack slot pays one
that is owed. -/
def Port.slot (p : Port) (code : Nat) : Port :=
  let q := { p with retry := false }
  match code with
  | 1 => if p.retry then { q with debt := p.debt + 1 } else { q with debt := p.debt - 1 }
  | 2 => if p.retry || p.debt == 0 then q else { q with debt := p.debt - 1, slack := p.slack + 1 }
  | _ => q

/-- 21 R470, R472: a slot period expires. In a pause the slot counter stops and every port sends what it owes. -/
def execSlotBoundary (s : State) : Res :=
  match s.pkg.active with
  | none => .next s
  | some p =>
    if s.pkg.paused then .next (s.onPkg fun pk => { pk with
      ports := pk.ports.map fun q => { q with debt := q.debt - 1, retry := false } })
    else .next (s.onPkg fun pk =>
      let t := pk.frameSlot
      { pk with
        ports := Vector.ofFn fun i : Fin 18 =>
          let q := pk.ports[i]
          let r : Port := if t = 0 then { q with slack := 0 } else q
          r.slot (p.code i.val t)
        frameSlot := (t + 1) % max 1 (bits p.hdr.toNat 63 48) })

/-- 21 R470: a link-level retry is in progress at the port's next slot. -/
def execLinkRetry (port : BitVec 5) (s : State) : Res :=
  .next (s.onPkg fun pk => if port.toNat < 18 then pk.onPort port.toNat fun p => { p with retry := true } else pk)

/-- 21 R472: a frame that ends with a port of the pod owing begins a pause. -/
def execFrameEnd (s : State) : Res :=
  .next (s.onPkg fun pk => if pk.farPause || pk.ports.toList.any fun p => decide (0 < p.debt) then pk.pause else pk)

/-- 21 R472. -/
def execPauseEnd (s : State) : Res :=
  .next (s.onPkg fun pk =>
    if pk.hot.isEmpty && !pk.farPause && pk.ports.toList.all fun p => p.debt == 0 then { pk with paused := false } else pk)

/-- Ports that carry a stream's requests on their way. -/
def Stream.portsUsed (t : Stream) (pk : Package) : List Nat :=
  pk.portsOf (t.gq.flatMap fun o => match o.eff with
    | .bytes cells => cells.map (·.1)
    | .atomic loc _ _ _ | .update loc _ _ => [loc]
    | .keys _ => []) ++
  (t.pend.filter fun p => decide (pk.clock < p.arrive)).flatMap fun p => p.peers.map (·.2)

/-- The page of an address in a package of the pod. -/
def podAddr (pkg : Nat) : PAddr := { tier := 2, addr := pkg * 2 ^ 40 }

/-- Ports that carry the requests and chunks of a core's engines: its tagged copies, the actions of its plan and the
chunks that its walker has not read. -/
def Core.portsUsed (k : Core) (pk : Package) : List Nat :=
  k.copies.flatMap (·.ports) ++
  (match k.plan with
    | some p => pk.portsOf ((p.acts.filter fun a => !a.done).flatMap fun a =>
        (entryReads (p.entry a.idx) ++ entryWrites (p.entry a.idx)).flatMap fun r => pk.physOf k.fn r.1 r.2)
    | none => []) ++
  pk.portsOf (k.colls.flatMap fun g => g.iters.map fun i => podAddr ((g.members.getD i.peer 0).toNat / 2 ^ 22))

/-- A request or a chunk of the function goes through a port. (DEDUCED, unsafe: notes/assumptions/48.md.) -/
def State.usesPort (s : State) (fn port : Nat) : Bool :=
  let pk := s.pkg
  (pk.portsOf ((pk.chunks.filter (·.fn == fn)).map fun c => podAddr c.pkg.toNat)).contains port ||
  (pk.portsOf ((pk.migrations.filter (·.fn == fn)).flatMap fun m => [pk.phys m.a m.a.base, pk.phys m.b m.b.base])).contains port ||
  s.ctxs.any fun c => c.core.fn == fn &&
    (c.a.portsUsed pk ++ c.b.portsUsed pk ++ c.core.portsUsed pk).contains port

/-- 21 R473: the port is declared failed; every gang of the functions it serves is stopped, each task precisely with fault
0x15, the pause ends, and recovery proceeds as for fault 0x11. The report's record is that of the function's first task. -/
def execPauseLimit (port : BitVec 5) (s : State) : Res :=
  let q := port.toNat
  let p := s.pkg.portAt q
  if 18 ≤ q ∨ s.pkg.paused = false ∨ p.debt = 0 then .next s
  else
    let fns := (List.range 17).filter fun fn => s.usesPort fn q
    let t : Trap := { code := 0x15, aux0 := BitVec.ofNat 64 (s.pkg.podn * 32 + q), aux1 := BitVec.ofNat 64 p.slack }
    let record (fn : Nat) : Nat := match s.ctxs.find? fun c => c.a.mode != .idle && c.core.fn == fn with
      | some c => recordBits c.core s.pkg.podn false { trap := t, baddr := c.a.pc, lc := c.a.lcc }
      | none => 0
    let s := s.onAll fun c => if c.a.mode != .idle && fns.contains c.core.fn then
      { c with core := { c.core with halt := some t } } else c
    .next (s.onPkg fun pk =>
      let pk := pk.onPort q fun p => { p with failed := true, debt := 0 }
      fns.foldl (fun pk fn => pk.stopGangs fn (BitVec.ofNat 2048 (record fn))) { pk with paused := false })

/-! ### Requests from outside -/

/-- First byte and number of bytes of a request. -/
def reqRange : PeerReq → Word × Nat
  | .read a n => (a, n)
  | .write a bs => (a, bs.length)
  | .atomic a _ w _ _ => (a, if w then 8 else 4)
  | .other a _ => (a, 0)

def reqWrites : PeerReq → Bool
  | .read _ _ => false
  | _ => true

/-- What a request changes at the bytes that serve it, and its answer: the bytes read, the old value of an atomic, nothing
for a write; or none, an error. Operations up to `maxOp` are supported (11 Table 4). Poisoned bytes and a peer out of reach
give no value. (DEDUCED, unsafe: notes/assumptions/59.md.) -/
def Package.serve (pk : Package) (fn maxOp : Nat) (pas : List PAddr) (r : PeerReq) : Package × Option (List Byte) :=
  let dead := pas.any fun p => pk.unreachable p || pk.poisonAt p
  match r with
  | .other _ _ => (pk, none)
  | .read _ _ => (pk, if dead then none else some (pas.map pk.readPA))
  | .write _ bs => (pk.perform fn (.bytes ((pas.zip bs).filter fun c => !pk.unreachable c.1)), some [])
  | .atomic a op w data cmp =>
    let n := if w then 8 else 4
    match pas with
    | [] => (pk, none)
    | loc :: _ =>
      if maxOp < op.toNat ∨ a.toNat % n ≠ 0 ∨ dead = true then (pk, none)
      else
        let old := pk.numPA loc n
        (if op = 1 ∧ old ≠ cmp.toNat % 2 ^ (8 * n) then pk
          else pk.perform fn (.atomic loc op n (data.toNat % 2 ^ (8 * n))), some (toBytes n old))

/-- 21 R465, R466: a read, write or atomic whose range a peer window opens to the requester is served, with no region key
(22 R497); any other request, and one of any other type, is answered with an error response. -/
def execPeerRequest (who : BitVec 10) (fn : BitVec 5) (req : PeerReq) (s : State) : Res :=
  let r := (reqRange req)
  let a := r.1.toNat
  let open_ := s.pkg.peerWins.any fun w =>
    w.2.2 == who.toNat * 32 + fn.toNat && decide (w.1 ≤ a ∧ a + r.2 ≤ w.1 + w.2.1)
  .next (s.onPkg fun pk =>
    let t := if open_ && decide (a + r.2 ≤ Config.devBytes) then
        pk.serve 0 9 ((List.range r.2).map fun i => { tier := 0, addr := a + i }) req
      else (pk, none)
    { t.1 with sent := t.1.sent ++ [.peer who.toNat fn.toNat t.2] })

/-- The first read on its way to the peer behind a port lands the fault of an error response instead (21 R467). -/
def Stream.peerLost (t : Stream) (port clock : Nat) (leaf : Word → Word) : Option Stream :=
  let via (p : Pending) : Option (Word × Nat) := p.peers.find? (·.2 == port)
  let hit (p : Pending) : Bool := decide (clock < p.arrive) && p.fault.isNone && (via p).isSome
  (t.pend.findIdx? hit).map fun i => { t with pend := t.pend.zipIdx.map fun p =>
    if p.2 = i then
      { p.1 with fault := (via p.1).map fun q => { code := 0x0C, sub := 5, va := q.1, aux0 := leaf q.1 : Trap } }
    else p.1 }

/-- 21 R467: an error response to a store is counted and reported; one to a read of the core in focus, the oldest still on
its way to the peer behind the port, the primary stream's first, faults at its landing. -/
def execPeerErrorResponse (store : BitVec 1) (port : BitVec 5) (s : State) : Res :=
  if store = 1 then
    .next (s.onPkg fun pk => (pk.onPort port.toNat fun p => { p with errors := p.errors + 1 }).post (.portError port.toNat))
  else
    let leaf (va : Word) : Word := match s.pkg.translate s.core.fn va with | .ok e => e.leaf | .error _ => 0
    match s.str.peerLost port.toNat s.pkg.clock leaf, s.alt.peerLost port.toNat s.pkg.clock leaf with
    | some t, _ => .next { s with str := t }
    | none, some t => .next { s with alt := t }
    | none, none => .next s

/-- A host access through BAR2: the package after it and its answer, or none while it waits for a write-blocked page. One
that fails translation or permission changes nothing and is answered with an unsupported-request status; a write to a
sealed range completes without effect; so does one to a keyed page that does not come on the TDI's stream in RUN, and
such a read gives all ones (10 R272; 11 R306; 22 R494, R500). -/
def Package.bar2 (pk : Package) (fn : Nat) (ide : Bool) (req : PeerReq) : Option (Package × Option (List Byte)) :=
  let r := (reqRange req)
  let va : Word := BitVec.ofNat 64 r.1.toNat
  let w := reqWrites req
  let f := pk.fnOf fn
  let pages := pageParts va r.2
  let ents := pages.filterMap fun p => match pk.translate fn p.1 with | .ok e => some e | .error _ => none
  let sealed := w && pages.any fun p => f.seals.any fun r => overlap (bits p.1.toNat 56 0) p.2 r.base r.bytes
  let hidden := ents.any (fun e => leafKey e.leaf != 0) && !(ide && f.tdi == .run)
  let fault : Bool := match pk.rangesFault fn
      { r := !w || (match req with | .atomic _ _ _ _ _ => true | _ => false), w := w, plain := true } [(va, r.2)] with
    | some t => !(hidden && t.code == 0x16)
    | none => false
  let nothing : List Byte := match req with | .write _ _ => [] | _ => List.replicate r.2 0xFF
  if 2 ^ f.bar2 < r.1.toNat + r.2 ∨ fault = true then some (pk, none)
  else if sealed then
    some ((pk.post (.sealedWrite fn r.1)).notify fn { type := 6, addr := r.1, seq := 0 }, some [])
  else if hidden then some (pk, some nothing)
  else if w && ents.any fun e => leafBit e.leaf 7 then none
  else some (pk.serve fn 2 (pk.physOf fn va r.2) req)

/-- A host access is tried: it is answered, or takes its place behind those that wait. -/
def Package.hostTry (pk : Package) (w : HostHeld) : Package :=
  match w with
  | .bar2 fn ide req => match pk.bar2 fn.toNat (ide == 1) req with
    | some (pk, r) => { pk with sent := pk.sent ++ [.host fn.toNat r] }
    | none => { pk with waiting := pk.waiting ++ [w] }
  | .tail fn q v => pk.tailTry fn q v

/-- 22 R494. -/
def execBar2Access (fn : BitVec 5) (ide : BitVec 1) (req : PeerReq) (s : State) : Res :=
  s.hosted (.next (s.onPkg fun pk => pk.hostTry (.bar2 fn ide req)))

/-- Host accesses that wait try again, in their order. -/
def Package.hostRetry (pk : Package) : Package := pk.waiting.foldl Package.hostTry { pk with waiting := [] }

/-! ### BAR0 as a function reads it -/

/-- Code of a TDI's state (22 Table 2). -/
def TdiSt.code : TdiSt → Nat
  | .unlocked => 0 | .locked => 1 | .run => 2 | .error => 3

/-- A notification entry (22 Table 3). -/
def Note.bits (n : Note) : Nat :=
  n.type.toNat + n.seq % 2 ^ 48 * 2 ^ 16 + n.arg.toNat * 2 ^ 64 + n.tag.toNat * 2 ^ 96 + n.addr.toNat * 2 ^ 128 +
  n.value.toNat * 2 ^ 192 + n.payload.toNat * 2 ^ 256

/-- The status block (22 Table 2). -/
def Package.statusBits (pk : Package) (fn : Nat) : Nat :=
  pk.bootst.toNat + (if fn = 0 then 0 else (pk.fnOf fn).tdi.code * 2 ^ 32) +
  match pk.running with
  | some m => m.1.toNat * 2 ^ 48 + (Config.fwver m.2).toNat * 2 ^ 64
  | none => 0

/-- The notification control block (15 Table 5; 22 R495). -/
def FnState.noteBits (f : FnState) : Nat :=
  f.widx % 2 ^ 64 + f.ridx % 2 ^ 64 * 2 ^ 64 + f.drops % 2 ^ 64 * 2 ^ 128 + ofEls 64 (f.noteRsv.toList.map BitVec.toNat) * 2 ^ 192

/-- The mailbox (22 Table 4). -/
def FnState.mailBits (f : FnState) : Nat :=
  f.mbCmd.toNat + f.mbState * 2 ^ 32 + f.mbResult * 2 ^ 40 + f.mbTag.toNat * 2 ^ 128 +
  ofEls 64 (f.mbArg.toList.map BitVec.toNat) % 2 ^ 192 * 2 ^ 192 + ofEls 64 (f.mbRsv.toList.map BitVec.toNat) * 2 ^ 384

/-- The block of BAR0 that holds an offset: its first byte and its bits (22 Table 1). Before the package has booted, and in
recovery mode, it answers with the status block alone (22 R501). -/
def Package.bar0Block (pk : Package) (fn off : Nat) : Nat × Nat :=
  let f := pk.fnOf fn
  if off < 0x1000 then (0, pk.statusBits fn)
  else if pk.bootst ≠ 1 then (off, 0)
  else if 0x10000 ≤ off ∧ off < 0x11000 then
    let q := (off - 0x10000) / 64
    let u := vget pk.queues q Queue.reset
    (0x10000 + 64 * q, if u.fn = fn then u.block else 0)
  else if 0x11000 ≤ off ∧ off < 0x11040 then (0x11000, f.noteBits)
  else if 0x20000 ≤ off ∧ off < 0x30000 then
    let i := (off - 0x20000) / 64
    (0x20000 + 64 * i, ((f.notes.find? fun n => n.seq % 1024 == i).map Note.bits).getD 0)
  else if 0x30000 ≤ off ∧ off < 0x40000 then
    let i := (off - 0x30000) / 256
    (0x30000 + 256 * i, ((f.copies.find? fun c => c.1 == i).map fun c => c.2.toNat).getD 0)
  else if 0x40000 ≤ off ∧ off < 0x40040 then (0x40000, f.mailBits)
  else (off, 0)

/-- A read of BAR0 by the host; it changes nothing. -/
def Package.bar0 (pk : Package) (fn off n : Nat) : List Byte :=
  (List.range n).map fun i =>
    let b := pk.bar0Block fn (off + i)
    BitVec.ofNat 8 (b.2 / 2 ^ (8 * (off + i - b.1)))

/-! ### Region keys and TDIs -/

/-- Bytes of a frame whose key is destroyed: which writes had reached the stack is free (DESIGN CHOICE, safe: notes/assumptions/5.md). -/
def Package.scramble (pk : Package) (fr : List (Nat × Nat)) : Package :=
  { pk with
    dev := fr.foldl (fun (m : Memory) f => (m.clear f.1 f.2).writeCells
      ((List.range f.2).map fun i => (f.1 + i, Config.keyedByte pk.draws (f.1 + i)))) pk.dev
    draws := pk.draws + 1 }

/-- A leaf with its KEY field set (10 Table 4). -/
def setKey (l : Word) (k : Nat) : Word := (l &&& ~~~0xFC00#64) ||| BitVec.ofNat 64 (k * 1024)

/-- 22 R498: the slot gets a fresh key, of the next draw of the entropy source, and the leaves of the pages name it, once
every access translated before has completed (10 R271). What the frames hold stays encrypted as it was. -/
def execKeySlotFill (fn : BitVec 5) (slot : BitVec 6) (pages : List (BitVec 64)) (s : State) : Res :=
  let f := s.pkg.fnOf fn.toNat
  let es := pages.map fun va => match walk s.pkg fn.toNat va with
    | .ok e => if leafTier e.leaf = 0 then some e else none
    | .error _ => none
  match allSome es with
  | none => .next s
  | some es =>
    if fn = 0 ∨ slot = 0 ∨ (f.tdi ≠ .locked ∧ f.tdi ≠ .run) ∨
        (vget s.pkg.keySlots slot.toNat { owner := 0, valid := false }).valid = true ∨
        es.any (fun e => s.objOutstanding fn.toNat e.base e.size) = true then .next s
    else
      let s := es.foldl (fun s e => s.invalidate fn.toNat e.base e.size) s
      let fr := es.map fun e => (leafPfn e.leaf * 65536, e.size)
      .next (s.onPkg fun pk =>
        let pk := es.foldl (fun pk e => pk.setLeaf e (setKey (pk.leafNow e) slot.toNat)) pk
        { pk with draws := pk.draws + 1
                  keySlots := vset pk.keySlots slot.toNat { owner := fn.toNat, valid := true, frames := fr, key := pk.draws + 1 } })

/-- The fault of a read whose key is gone before the read is performed (22 R500). -/
def goneTrap (k : Nat) (va : Word) : Trap := { code := 0x16, sub := 3, va := va, aux0 := BitVec.ofNat 64 k }

/-- Reads of the probe fills on their way that a stream's misses began: their fault comes with the next bundle of that stream,
once the reply has come. -/
def Probe.lost (p : Probe) (sec : Bool) (clock k : Nat) : List Pending :=
  p.tab.filterMap fun w => match w.fill, w.keys.find? (·.1 == k) with
    | some f, some q =>
      if w.bySec == sec && decide (clock < f.1) then
        some { target := .none, left := 1, arrive := f.1, fault := some (goneTrap k q.2) } else none
    | _, _ => none

/-- A fill on its way through a destroyed key slot lands nothing, and its way holds no block. -/
def Way.loseKey (w : Way) (clock k : Nat) : Way :=
  match w.fill with
  | some f => if clock < f.1 && w.keys.any (·.1 == k) then { w with block := none, fill := some (f.1, []) } else w
  | none => w

/-- An action on its way whose source lay under a destroyed key slot delivers nothing and keeps its fault (15 R402). -/
def HaulAct.loseKey (a : HaulAct) (clock k : Nat) : HaulAct :=
  match if a.begun && !a.done && decide (clock < a.due) then a.keys.find? (·.1 == k) else none with
  | some q => { a with cells := [], err := a.err.or (some (goneTrap k q.2)) }
  | none => a

/-- A chunk that the walker has not read, of a source under a destroyed key slot, is lost (14 R378; 21 R480). -/
def CollIter.loseKey (i : CollIter) (k : Nat) : CollIter :=
  match i.keys.find? (·.1 == k) with
  | some q => { i with bad := i.bad.or (some (goneTrap k q.2)) }
  | none => i

/-- Reads on their way through a destroyed key slot land nothing (22 R500): results, copies, fills, actions, and chunks that
a walker has not read. -/
def CoreCtx.loseKey (c : CoreCtx) (clock k : Nat) : CoreCtx :=
  let late (p : Pending) : Pending :=
    match if clock < p.arrive then p.keys.find? (·.1 == k) else none with
    | some q => { p with fault := lowTrap p.fault (some (goneTrap k q.2)) }
    | none => p
  let copy (x : Copy) : Copy :=
    match if x.runs.any (fun r => decide (clock < r.due)) || !x.todo.isEmpty then x.keys.find? (·.1 == k) else none with
    | some q => { x with
        err := x.err.or (some { goneTrap k q.2 with cmd := some x.baddr })
        todo := x.todo.map fun i => (i.1, [])
        runs := x.runs.map fun r => if clock < r.due then { r with cells := [] } else r }
    | none => x
  let gone : List Nat := match c.core.plan with
    | some p => (p.acts.filter fun a => a.loseKey clock k != a).map (·.idx)
    | none => []
  let out (o : GOp) : GOp := if o.act.any gone.contains then { o with eff := .bytes [] } else o
  let one (t : Stream) : Stream :=
    { t with pend := t.pend.map late ++ c.core.probe.lost t.sec clock k, gq := t.gq.map out }
  { core := { c.core with
      copies := c.core.copies.map copy
      probe := { c.core.probe with tab := c.core.probe.tab.map (·.loseKey clock k) }
      plan := c.core.plan.map fun p => { p with acts := p.acts.map (·.loseKey clock k) }
      colls := c.core.colls.map fun g => { g with iters := g.iters.map (·.loseKey k) } }
    a := one c.a, b := one c.b }

/-- 22 R499: a slot's key is zeroised, and the physical function is told. -/
def State.destroyKey (s : State) (k : Nat) : State :=
  let sl := vget s.pkg.keySlots k { owner := 0, valid := false }
  let s := s.onAll fun c => c.loseKey s.pkg.clock k
  s.onPkg fun pk =>
    let pk := { pk with keySlots := vset pk.keySlots k { owner := 0, valid := false } }
    ((pk.scramble sl.frames).post (.keyDestroyed k)).notify 0 { type := 9, arg := BitVec.ofNat 32 k, seq := 0 }

/-- Every slot that a function owns is destroyed. -/
def State.destroyKeys (s : State) (fn : Nat) : State :=
  ((List.range 64).filter fun k =>
    let sl := vget s.pkg.keySlots k { owner := 0, valid := false }
    sl.valid && sl.owner == fn).foldl State.destroyKey s

def State.setTdi (s : State) (fn : Nat) (t : TdiSt) : State := s.onPkg fun pk => pk.onFn fn fun f => { f with tdi := t }

/-- 22 R499: a TDI leaves RUN. -/
def State.leaveRun (s : State) (fn : Nat) (t : TdiSt) : State := (s.setTdi fn t).destroyKeys fn

/-- 22 R499. -/
def execTdiLeavesRun (fn : BitVec 5) (err : BitVec 1) (s : State) : Res :=
  .next (if (s.pkg.fnOf fn.toNat).tdi = .run then s.leaveRun fn.toNat (if err = 1 then .error else .unlocked) else s)

/-- 22 R493: the TSM locks (0), starts (1) or stops (2) a virtual function's TDI; a request that its state does not
admit changes nothing. (DEDUCED, unsafe: notes/assumptions/45.md.) -/
def execTdispRequest (fn : BitVec 5) (req : BitVec 2) (s : State) : Res :=
  let t := (s.pkg.fnOf fn.toNat).tdi
  s.hosted <|
  if fn = 0 ∨ 16 < fn.toNat then .next s
  else if req = 0 ∧ t = .unlocked then .next (s.setTdi fn.toNat .locked)
  else if req = 1 ∧ t = .locked then .next (s.setTdi fn.toNat .run)
  else if req = 2 then
    .next (if t = .run then s.leaveRun fn.toNat .unlocked else s.setTdi fn.toNat .unlocked)
  else .next s

/-- The lane ratios, AGEK and the identifiers of the plans loaded (22 R502, block 3). -/
def Package.configuration (pk : Package) : List Nat :=
  pk.ratio.toList.map BitVec.toNat ++ pk.agek.toList ++
    pk.planSlots.toList.map fun p => match p with | some p => bits p.hdr.toNat 95 80 | none => 0

/-- The TDI states of all functions, and a bit for each that is 1 while its DBGEN is (22 R502, block 4). -/
def Package.security (pk : Package) : List Nat :=
  (pk.fns.toList.map fun f => f.tdi.code) ++ pk.fns.toList.map fun f => (f.dbg.getLsbD 0).toNat

/-- A measurement block (22 R502), for the blocks that it names. -/
def Package.measured (pk : Package) (block : Nat) : Option (BitVec 512) :=
  match block with
  | 1 => some pk.meas[0]
  | 2 => some pk.meas[1]
  | 3 => some (Config.measurement 3 pk.configuration)
  | 4 => some (Config.measurement 4 pk.security)
  | _ => none

/-- 22 R502: a requester that offers none of the device's algorithms receives ERROR; any other gets the measurement block it
asks for, or another answer, whose content the spec leaves open. (DESIGN CHOICE, safe: notes/assumptions/60.md.) -/
def execSpdmRequest (fn : BitVec 5) (offered : BitVec 1) (block : BitVec 8) (s : State) : Res :=
  s.hosted <| .next (s.onPkg fun pk =>
    if offered = 0 then pk.post (.spdm fn.toNat false 0)
    else match pk.measured block.toNat with
      | some m => pk.post (.spdm fn.toNat true m)
      | none => { (pk.post (.spdm fn.toNat true (Config.spdmAnswer pk.draws))) with draws := pk.draws + 1 })

/-! ### Boot, resets and the board -/

/-- The first flash image that verifies (22 R501). -/
def Package.accepted (pk : Package) : Option (BitVec 16 × BitVec 512) :=
  ([0, 1] : List (BitVec 1)).findSome? fun i => (pk.images.find? fun m => m.1 == i &&
    Config.imageSigned m.2.2 && decide (pk.fusedSvn.toNat ≤ m.2.1.toNat)).map (·.2)

/-- The next step of Table 6 of 22, if the package has not finished booting. (DESIGN CHOICE, safe: notes/assumptions/49.md.) -/
def Package.bootNext (pk : Package) : Package :=
  match pk.bootStep with
  | 0 => { pk with bootStep := 1 }
  | 1 => match pk.accepted with
    | some m => { pk with bootStep := 2, running := some m
                          fusedSvn := if Config.imageRaises m.2 && decide (pk.fusedSvn.toNat < m.1.toNat) then m.1 else pk.fusedSvn }
    | none => { pk with bootStep := 6, bootst := 2 }
  | 2 => { pk with bootStep := 3
                   meas := #v[Config.extend pk.meas[0] Config.romHash,
                              Config.extend pk.meas[1] ((pk.running.map (·.2)).getD 0)] }
  | 3 => { pk with bootStep := 4, dev := [], enc := [], keys := [], poison := []
                   keySlots := Vector.replicate 64 { owner := 0, valid := false } }
  | 4 => { pk with bootStep := 5, bootst := 1 }
  | _ => pk

/-- 22 R503: all device state is lost, the power cap with it. What is outside the device stays: host and peer memory, the
flash, the fuses, and the inputs to come. -/
def State.packageReset (s : State) (bootst : BitVec 8) : State :=
  let p := s.pkg
  { State.reset with
    pkg := { Package.reset with
      host := p.host, peer := p.peer, images := p.images, fusedSvn := p.fusedSvn, delays := p.delays, replies := p.replies, draws := p.draws, bootst := bootst }
    inbox := s.inbox }

/-- 22 R503. -/
def execConventionalReset (s : State) : Res := .next (s.packageReset 0)

/-- Steps 1 to 3 of 22 R503, for one function. (DEDUCED, unsafe: notes/assumptions/50.md.) -/
def State.resetFn (s : State) (fn : Nat) : State :=
  ((s.performFn fn).clearFn fn).leaveRun fn .unlocked

/-- Step 4 of 22 R503: the notification control block and the mailbox are zeroed. -/
def FnState.zeroed (f : FnState) : FnState :=
  { f with widx := 0, ridx := 0, drops := 0, noteRsv := Vector.replicate 5 0, msixMask := true, msixPending := false
           mbArg := Vector.replicate 4 0, mbRsv := Vector.replicate 2 0, mbTag := 0, mbCmd := 0, mbState := 0, mbResult := 0 }

/-- 22 R503: a reset of the physical function does the same for every function; every block is zeroed after the last key has
been destroyed, so that it stands at 0 when the reset ends. -/
def execFunctionLevelReset (fn : BitVec 5) (s : State) : Res :=
  let fns := if fn = 0 then List.range 17 else [fn.toNat]
  s.hosted (.next ((fns.foldl State.resetFn s).onPkg fun pk => fns.foldl (fun pk f => pk.onFn f FnState.zeroed) pk))

/-- 22 R505: 100 MHz down or up, between 1.2 and 3.6 GHz. -/
def execClockStep (up : BitVec 1) (s : State) : Res :=
  .next (s.onPkg fun pk => { pk with freq := if up = 1 then min 36 (pk.freq + 1) else max 12 (pk.freq - 1) })

/-- 22 R505: the trip is recorded in BOOTST and the package enters conventional reset. -/
def execThermalTrip (s : State) : Res := .next (s.packageReset 3)

/-- 22 R506; in recovery mode a flash update is the only service, and before the boot's end no image runs (22 R501). -/
def execPowerCapSet (watts : BitVec 16) (s : State) : Res :=
  s.hosted (.next (s.onPkg fun pk => { pk with powerCap := some watts }))

/-- 22 R506. -/
def execFlashUpdate (image : BitVec 1) (svn : BitVec 16) (hash : BitVec 512) (s : State) : Res :=
  .next (s.onPkg fun pk => { pk with images := (pk.images.filter (·.1 != image)) ++ [(image, svn, hash)] })

end Sys2Proof.Machine
end

