-- ==== Sys2Proof/Machine/ScalarFp.lean ====
section
/-! DEFINITION. Scalar floating point, major 4 (04 R121 to R123). An operand of a w-bit type is xa[w - 1:0] and a
result is written zero-extended; flags are set in the lc in which the result lands (02 R75). -/
namespace Sys2Proof.Machine

def fval (t : BitVec 2) (x : Word) : FVal := fdecode (fmtOfScalar t) x.toNat

/-- A form that rounds: the result and flags for the mode that rm gives, MF for the fallback of rm 4 (04 R122). -/
def fpRounded (s : State) (d : BitVec 5) (lat : Nat) (r : BitVec 3) (op : Rnd → Nat × Flg) : Try State :=
  let m := s.rmPlain r.toNat
  .ok (s.emitX d lat (BitVec.ofNat 64 (op m.1).1) ((op m.1).2 ||| m.2))

/-- 04 Table 5, op 0. -/
def execFadd (d a b : BitVec 5) (r : BitVec 3) (t : BitVec 2) (s : State) : Res :=
  guarded (.fadd d a b r t) s <| fpRounded s d 4 r fun m => faddV (fmtOfScalar t) m (fval t (s.rx a)) (fval t (s.rx b))

/-- 04 Table 5, op 1. -/
def execFsub (d a b : BitVec 5) (r : BitVec 3) (t : BitVec 2) (s : State) : Res :=
  guarded (.fsub d a b r t) s <| fpRounded s d 4 r fun m =>
    faddV (fmtOfScalar t) m (fval t (s.rx a)) (fval t (s.rx b)).neg

/-- 04 Table 5, op 2. -/
def execFmul (d a b : BitVec 5) (r : BitVec 3) (t : BitVec 2) (s : State) : Res :=
  guarded (.fmul d a b r t) s <| fpRounded s d 4 r fun m => fmulR (fmtOfScalar t) m (fval t (s.rx a)) (fval t (s.rx b))

/-- 04 Table 5, op 3: xd is read at issue. -/
def execFma (d a b : BitVec 5) (r : BitVec 3) (t : BitVec 2) (s : State) : Res :=
  guarded (.fma d a b r t) s <| fpRounded s d 4 r fun m =>
    ffmaR (fmtOfScalar t) m (fval t (s.rx a)) (fval t (s.rx b)) (fval t (s.rx d))

/-- FMIN and FMAX (04 R123). -/
def fpMinMax (s : State) (mx : Bool) (d a b : BitVec 5) (t : BitVec 2) : Res :=
  let r := fminmax (fmtOfScalar t) mx (s.rx a).toNat (s.rx b).toNat
  landX s d 4 (BitVec.ofNat 64 r.1) r.2

/-- 04 Table 5, op 4. -/
def execFmin (d a b : BitVec 5) (t : BitVec 2) (s : State) : Res := fpMinMax s false d a b t
/-- 04 Table 5, op 5. -/
def execFmax (d a b : BitVec 5) (t : BitVec 2) (s : State) : Res := fpMinMax s true d a b t

/-- 04 Table 5, op 6. -/
def execFdiv (d a b : BitVec 5) (r : BitVec 3) (t : BitVec 2) (s : State) : Res :=
  guarded (.fdiv d a b r t) s <| fpRounded s d 12 r fun m => fdivR (fmtOfScalar t) m (fval t (s.rx a)) (fval t (s.rx b))

/-- 04 Table 5, op 7. -/
def execFsqrt (d a : BitVec 5) (r : BitVec 3) (t : BitVec 2) (s : State) : Res :=
  guarded (.fsqrt d a r t) s <| fpRounded s d 12 r fun m => fsqrtR (fmtOfScalar t) m (fval t (s.rx a))

/-- 04 Table 5, op 8: source type c to type t. To BF16, rm 4, or rm 5 with SR, rounds stochastically with element
index 0; a widening is exact and ignores rm, with MF for an rm other than 5 (04 R122). -/
def execFcvt (d a : BitVec 5) (c : BitVec 2) (r : BitVec 3) (t : BitVec 2) (s : State) : Res :=
  guarded (.fcvt d a c r t) s <|
    let x := (s.rx a).toNat
    let src := fmtOfScalar c
    let dst := fmtOfScalar t
    if src.width < dst.width then
      let o := fconvert src dst .rne false x
      .ok (s.emitX d 4 (BitVec.ofNat 64 o.1) (o.2 ||| flIf (r != 5) flMF))
    else if t == 3 && s.rmIsSr r.toNat then
      let sd := s.stochastic
      let o := fconvert src dst (rndAt .rne (some sd.1) 0) false x
      .ok (sd.2.emitX d 4 (BitVec.ofNat 64 o.1) o.2)
    else fpRounded s d 4 r fun m => fconvert src dst m false x

/-- 04 Table 5, op 9: to a signed 64-bit integer (02 R68). -/
def execFcvti (d a _b : BitVec 5) (r : BitVec 3) (t : BitVec 2) (s : State) : Res :=
  guarded (.fcvti d a _b r t) s <| fpRounded s d 4 r fun m => ftoInt (fmtOfScalar t) m true 64 (s.rx a).toNat

/-- 04 Table 5, op 10: to an unsigned 64-bit integer. -/
def execFcvtn (d a _b : BitVec 5) (r : BitVec 3) (t : BitVec 2) (s : State) : Res :=
  guarded (.fcvtn d a _b r t) s <| fpRounded s d 4 r fun m => ftoInt (fmtOfScalar t) m false 64 (s.rx a).toNat

/-- A conversion from an integer. To BF16 with rm 5 and SR it rounds stochastically with element index 0, as any
conversion to BF16 in dynamic mode (02 R64, Table 3, R72); rm 4 takes the fallback (04 R122). Both count as writes of
RMODE (DEDUCED, unsafe: notes/assumptions/74.md). -/
def fpOfInt (s : State) (d : BitVec 5) (r : BitVec 3) (t : BitVec 2) (v : Int) : Try State :=
  if t == 3 && r == 5 && s.str.sr then
    let sd := s.stochastic
    let o := fofInt (fmtOfScalar t) (rndAt .rne (some sd.1) 0) false v
    .ok (sd.2.emitX d 4 (BitVec.ofNat 64 o.1) o.2)
  else fpRounded s d 4 r fun m => fofInt (fmtOfScalar t) m false v

/-- 04 Table 5, op 11. -/
def execIcvtf (d a _b : BitVec 5) (r : BitVec 3) (t : BitVec 2) (s : State) : Res :=
  guarded (.icvtf d a _b r t) s <| fpOfInt s d r t (s.rx a).toInt

/-- 04 Table 5, op 12. -/
def execNcvtf (d a _b : BitVec 5) (r : BitVec 3) (t : BitVec 2) (s : State) : Res :=
  guarded (.ncvtf d a _b r t) s <| fpOfInt s d r t ((s.rx a).toNat : Int)

/-- A compare with condition code c of 05 R153; a predicate produced by it lands at issue + 4 (04 R114). -/
def fpCompare (s : State) (c : Nat) (p : BitVec 4) (a b : BitVec 5) (t : BitVec 2) : Res :=
  let r := fcompare (fmtOfScalar t) c (s.rx a).toNat (s.rx b).toNat
  finish (.ok (s.emitP p 4 r.1 r.2))

/-- 04 Table 5, op 13. -/
def execFcmpeq (p : BitVec 4) (a b : BitVec 5) (t : BitVec 2) (s : State) : Res := fpCompare s 0 p a b t
/-- 04 Table 5, op 14. -/
def execFcmplt (p : BitVec 4) (a b : BitVec 5) (t : BitVec 2) (s : State) : Res := fpCompare s 2 p a b t
/-- 04 Table 5, op 15. -/
def execFcmple (p : BitVec 4) (a b : BitVec 5) (t : BitVec 2) (s : State) : Res := fpCompare s 3 p a b t

/-- 04 Table 5, op 16: flips the sign bit of the pattern, no flag. -/
def execFneg (d a : BitVec 5) (t : BitVec 2) (s : State) : Res :=
  let f := fmtOfScalar t
  landX s d 4 (BitVec.ofNat 64 (((s.rx a).toNat % 2 ^ f.width + 2 ^ (f.width - 1)) % 2 ^ f.width))

/-- 04 Table 5, op 17: clears the sign bit of the pattern, no flag. -/
def execFabs (d a : BitVec 5) (t : BitVec 2) (s : State) : Res :=
  landX s d 4 (BitVec.ofNat 64 ((s.rx a).toNat % 2 ^ ((fmtOfScalar t).width - 1)))

end Sys2Proof.Machine
end

