-- ==== Sys2Proof/Machine/VBit.lean ====
section
/-! DEFINITION. Bit matrix and bit field, major 16 (05 R161), permutes and moves, major 17 (05 R162, R163), and
reductions, major 18 (05 R164, R165). -/
namespace Sys2Proof.Machine

def bitAt (x i : Nat) : Nat := x / 2 ^ i % 2

/-- Byte k, bit x is the XOR over y of A[k][y] AND M[y][x]. -/
def gf2mm (a m : Nat) : Nat :=
  ofEls 8 ((List.range 8).map fun k =>
    (List.range 8).foldl (fun r y => if bitAt a (8 * k + y) = 1 then r ^^^ el m 8 y else r) 0)

/-- Deposit: the bits of a, lowest first, into the places where m is 1. -/
def pdep (a m : Nat) : Nat :=
  ((List.range 64).foldl (fun (r : Nat × Nat) x =>
    if bitAt m x = 1 then (r.1 + 1, r.2 + bitAt a r.1 * 2 ^ x) else r) (0, 0)).2

/-- Extract: the bits of a where m is 1, packed. -/
def pext (a m : Nat) : Nat :=
  ((List.range 64).foldl (fun (r : Nat × Nat) x =>
    if bitAt m x = 1 then (r.1 + 1, r.2 + bitAt a x * 2 ^ r.1) else r) (0, 0)).2

/-- Bit x is 0 when bit 7 of byte x of the table is 1, else the bit of a that its bits [5:0] name. -/
def bperm (a tab : Nat) : Nat :=
  ofEls 1 ((List.range 64).map fun x => if bitAt (el tab 8 x) 7 = 1 then 0 else bitAt a (el tab 8 x % 64))

def vbit2 (s : State) (d a b : BitVec 6) (f : Nat → Nat → Nat) : Res :=
  finish (.ok (s.vput d 64 4 fun i => (f (el (s.rv a).toNat 64 i) (el (s.rv b).toNat 64 i), 0)))

/-- 05 Table 5, fn 0. -/
def execVgf2mm (d a b : BitVec 6) (s : State) : Res := vbit2 s d a b gf2mm
/-- 05 Table 5, fn 1. -/
def execVpdep (d a b : BitVec 6) (s : State) : Res := vbit2 s d a b pdep
/-- 05 Table 5, fn 2. -/
def execVpext (d a b : BitVec 6) (s : State) : Res := vbit2 s d a b pext
/-- 05 Table 5, fn 3: the table is bytes 0 to 63 of vb. -/
def execVbperm (d a b : BitVec 6) (s : State) : Res :=
  finish (.ok (s.vput d 64 4 fun i => (bperm (el (s.rv a).toNat 64 i) ((s.rv b).toNat % 2 ^ 512), 0)))
/-- 05 Table 5, fn 4. -/
def execVpopc (d a : BitVec 6) (s : State) : Res :=
  finish (.ok (s.vput d 64 4 fun i => (popcount 64 (el (s.rv a).toNat 64 i), 0)))

/-! ### Permutes -/

/-- Element k of va, 0 beyond the last (05 Table 6). -/
def elOr0 (v w k : Nat) : Nat := if k < 4096 / w then el v w k else 0

/-- 05 Table 6, fn 0; the index of 05 R163: 16-bit elements of the pair (vb, vb + 1) at width 8. -/
def execVperm (d a b : BitVec 6) (w : BitVec 3) (s : State) : Res :=
  guarded (.vperm d a b w) s <| .ok <| s.vput d (permWidth w) 3 fun i =>
    let q := if w = 0 then s.velGroup b 2 16 i else el (s.rv b).toNat (permWidth w) i
    (elOr0 (s.rv a).toNat (permWidth w) q, 0)

/-- 05 Table 6, fn 1. -/
def execVbcast (d : BitVec 6) (b : BitVec 5) (w : BitVec 3) (s : State) : Res :=
  guarded (.vbcast d b w) s <| .ok <| s.vput d (permWidth w) 3 fun _ => ((s.rx b).toNat % 2 ^ permWidth w, 0)

/-- 05 Table 6, fn 2. -/
def execVbcaste (d a : BitVec 6) (b : BitVec 5) (w : BitVec 3) (s : State) : Res :=
  guarded (.vbcaste d a b w) s <| .ok <| s.vput d (permWidth w) 3 fun _ =>
    (elOr0 (s.rv a).toNat (permWidth w) (s.rx b).toNat, 0)

/-- 05 Table 6, fn 3. -/
def execVslideup (d a : BitVec 6) (b : BitVec 5) (w : BitVec 3) (s : State) : Res :=
  guarded (.vslideup d a b w) s <| .ok <| s.vput d (permWidth w) 3 fun i =>
    (if (s.rx b).toNat ≤ i then el (s.rv a).toNat (permWidth w) (i - (s.rx b).toNat) else 0, 0)

/-- 05 Table 6, fn 4. -/
def execVslidedn (d a : BitVec 6) (b : BitVec 5) (w : BitVec 3) (s : State) : Res :=
  guarded (.vslidedn d a b w) s <| .ok <| s.vput d (permWidth w) 3 fun i =>
    (elOr0 (s.rv a).toNat (permWidth w) (i + (s.rx b).toNat), 0)

/-- 05 Table 6, fn 5: one element, if it is active. -/
def execVins (d : BitVec 6) (a b : BitVec 5) (w : BitVec 3) (s : State) : Res :=
  guarded (.vins d a b w) s <|
    let act := (actives (permWidth w) s.top).zipIdx.map fun x => x.1 && x.2 == (s.rx a).toNat
    .ok (s.emit (.v d (enables (permWidth w) act)
      (vreg (permWidth w) ((List.range (4096 / permWidth w)).map fun _ => (s.rx b).toNat))) 3)

/-- 05 Table 6, fn 6. -/
def execVext (d : BitVec 5) (a : BitVec 6) (b : BitVec 5) (w : BitVec 3) (s : State) : Res :=
  guarded (.vext d a b w) s <|
    .ok (s.emitX d 3 (BitVec.ofNat 64 (elOr0 (s.rv a).toNat (permWidth w) (s.rx b).toNat)))

/-- Two whole registers, unmasked. -/
def vpair (s : State) (d : BitVec 6) (lo hi : VReg) : Try State :=
  .ok ((s.emit (.v d (BitVec.allOnes 4096) lo) 3).emit (.v (d + 1) (BitVec.allOnes 4096) hi) 3)

/-- 05 Table 6, fn 7. -/
def execVilv (d a b : BitVec 6) (w : BitVec 3) (s : State) : Res :=
  guarded (.vilv d a b w) s <|
    let n := 4096 / permWidth w
    let c := ((els (permWidth w) n (s.rv a).toNat).zip (els (permWidth w) n (s.rv b).toNat)).flatMap fun x => [x.1, x.2]
    vpair s d (vreg (permWidth w) (c.take n)) (vreg (permWidth w) (c.drop n))

/-- 05 Table 6, fn 8. -/
def execVdilv (d a b : BitVec 6) (w : BitVec 3) (s : State) : Res :=
  guarded (.vdilv d a b w) s <|
    let n := 4096 / permWidth w
    let c := els (permWidth w) n (s.rv a).toNat ++ els (permWidth w) n (s.rv b).toNat
    vpair s d (vreg (permWidth w) (evens c)) (vreg (permWidth w) (odds c))

/-! ### Reductions -/

/-- An integer reduction of the active elements, read by type, to 64 bits. -/
def vredInt (s : State) (d : BitVec 5) (a : BitVec 6) (t : BitVec 3) (start : Int) (f : Int → Int → Int) : Res :=
  finish (.ok (s.emitX d 4 (BitVec.ofInt 64
    (((s.activeVals a (intWidth t)).map (readEl (intSigned t) (intWidth t))).foldl f start))))

/-- 05 Table 7, fn 0. -/
def execVredsum (d : BitVec 5) (a : BitVec 6) (t : BitVec 3) (s : State) : Res := vredInt s d a t 0 (· + ·)
/-- 05 Table 7, fn 1. -/
def execVredmin (d : BitVec 5) (a : BitVec 6) (t : BitVec 3) (s : State) : Res :=
  vredInt s d a t (intMax (intSigned t) (intWidth t)) min
/-- 05 Table 7, fn 2. -/
def execVredmax (d : BitVec 5) (a : BitVec 6) (t : BitVec 3) (s : State) : Res :=
  vredInt s d a t (intMin (intSigned t) (intWidth t)) max

/-- A bitwise reduction over w bits, zero-extended. -/
def vredBits (s : State) (d : BitVec 5) (a : BitVec 6) (t : BitVec 3) (start : Nat) (f : Nat → Nat → Nat) : Res :=
  finish (.ok (s.emitX d 4 (BitVec.ofNat 64 ((s.activeVals a (intWidth t)).foldl f start))))

/-- 05 Table 7, fn 3. -/
def execVredand (d : BitVec 5) (a : BitVec 6) (t : BitVec 3) (s : State) : Res :=
  vredBits s d a t (2 ^ intWidth t - 1) (· &&& ·)
/-- 05 Table 7, fn 4. -/
def execVredor (d : BitVec 5) (a : BitVec 6) (t : BitVec 3) (s : State) : Res := vredBits s d a t 0 (· ||| ·)
/-- 05 Table 7, fn 5. -/
def execVredxor (d : BitVec 5) (a : BitVec 6) (t : BitVec 3) (s : State) : Res := vredBits s d a t 0 (· ^^^ ·)

/-- The active elements as binary64 codes, with the flags of their widening. -/
def State.activeF64 (s : State) (a : BitVec 6) (t : BitVec 3) : List Nat × Flg :=
  let rs := (s.activeVals a (fpWidth t)).map (widen64 (fmtOf t))
  (rs.map (·.1), orFlags (rs.map (·.2)))

/-- 05 Table 7, fn 8; 05 R165: a pairwise tree in RNE over every element, -0 for an inactive one. -/
def execVfredsum (d : BitVec 5) (a : BitVec 6) (t : BitVec 3) (s : State) : Res :=
  guarded (.vfredsum d a t) s <|
    let w := fpWidth t
    let q := ((els w (4096 / w) (s.rv a).toNat).zip (actives w s.top)).map fun x =>
      if x.2 then widen64 (fmtOf t) x.1 else (2 ^ 63, 0)
    let r := treeSum add64 (bitLen (4096 / w) - 1) (q.map (·.1), orFlags (q.map (·.2)))
    .ok (s.emitX d 8 (BitVec.ofNat 64 r.1) r.2)

/-- VFREDMIN and VFREDMAX under 04 R123, as binary64: a signalling NaN sets NV, a NaN gives way to a number. -/
def vfredMinMax (s : State) (mx : Bool) (d : BitVec 5) (a : BitVec 6) (t : BitVec 3) : Try State :=
  let q := s.activeF64 a t
  let r := match q.1 with
    | [] => (F64.infCode + F64.signBit mx, (0 : Flg))
    | x :: xs => xs.foldl (fun (acc : Nat × Flg) y => let m := fminmax F64 mx acc.1 y; (m.1, acc.2 ||| m.2)) (x, 0)
  .ok (s.emitX d 8 (BitVec.ofNat 64 r.1) (q.2 ||| r.2))

/-- 05 Table 7, fn 9. -/
def execVfredmin (d : BitVec 5) (a : BitVec 6) (t : BitVec 3) (s : State) : Res :=
  guarded (.vfredmin d a t) s (vfredMinMax s false d a t)
/-- 05 Table 7, fn 10. -/
def execVfredmax (d : BitVec 5) (a : BitVec 6) (t : BitVec 3) (s : State) : Res :=
  guarded (.vfredmax d a t) s (vfredMinMax s true d a t)

/-- 05 Table 7, fn 11: the largest magnitude; NaNs are ignored unless every active element is NaN. -/
def execVfredmaxa (d : BitVec 5) (a : BitVec 6) (t : BitVec 3) (s : State) : Res :=
  guarded (.vfredmaxa d a t) s <|
    let q := s.activeF64 a t
    let nums := q.1.filter fun x => !(fdecode F64 x).isNaN
    let r := if q.1.isEmpty then 0 else if nums.isEmpty then F64.nan
      else nums.foldl (fun m x => max m (x % 2 ^ 63)) 0
    .ok (s.emitX d 8 (BitVec.ofNat 64 r) q.2)

end Sys2Proof.Machine
end

