-- ==== Sys2Proof/Machine/VMem.lean ====
section
/-! DEFINITION. Vector memory, majors 20 to 22: L-space (05 R166 to R170) and global (10 R280 to R283). A form with
no active element touches and checks nothing (05 R167). -/
namespace Sys2Proof.Machine

/-- Bytes as the elements of a register from element 0. -/
def vregBytes (bs : List Byte) : VReg := BitVec.ofNat 4096 (ofBytes bs)

/-- The active bytes of a 512-byte form. -/
def State.byteAct (s : State) : List Bool := actives 8 s.top

/-- A load's landing: the enables of the active elements of width w. -/
def vloadEn (s : State) (w : Nat) : VReg := enables w (actives w s.top)

/-- The runs of active bytes of a contiguous form, as offset and length (01 R27; 10 R281). -/
def runsGo : Nat → Option (Nat × Nat) → List Bool → List (Nat × Nat)
  | _, none, [] => []
  | _, some r, [] => [r]
  | i, none, a :: as => if a then runsGo (i + 1) (some (i, 1)) as else runsGo (i + 1) none as
  | i, some r, a :: as => if a then runsGo (i + 1) (some (r.1, r.2 + 1)) as else r :: runsGo (i + 1) none as

def activeRanges (va : Word) (act : List Bool) : List (Word × Nat) :=
  (runsGo 0 none act).map fun r => (va + BitVec.ofNat 64 r.1, r.2)

/-- Pool ranges of the active bytes of a form at `p`. -/
def State.activePool (s : State) (p : Nat) : List (Nat × Nat) := (runsGo 0 none s.byteAct).map fun r => (p + r.1, r.2)

/-- 05 Table 8, major 20, code 0. -/
def execVld (d : BitVec 6) (a : BitVec 5) (c : BitVec 2) (i : BitVec 9) (s : State) : Res :=
  finish do
    if s.byteAct.all (!·) then .ok (s.emit (.v d 0 0) 5 (classFlag c))
    else
      let la := ea (s.rx a) i 512
      let p ← s.lspace la 512 512
      let s ← s.lacc false 0 la (s.activePool p)
      let s := if (activeRanges la s.byteAct).any fun r => s.touchesObject false r.1.toNat r.2 then s.cause 0x07 else s
      .ok (s.emit (.v d (vloadEn s 8) (vregBytes (s.core.spad.readN p 512))) 5 (classFlag c))

/-- Bytes of a broadcast size code (05 Table 8). -/
def bcastSize (z : BitVec 3) : Nat := 2 ^ (z.toNat - 1)

def bcast (n : Nat) (v : Nat) : VReg := vreg (8 * n) ((List.range (512 / n)).map fun _ => v)

/-- 05 Table 8, major 20, codes 1 to 4. -/
def execVldB (d : BitVec 6) (a : BitVec 5) (c : BitVec 2) (z : BitVec 3) (i : BitVec 9) (s : State) : Res :=
  guarded (.vldB d a c z i) s do
    let n := bcastSize z
    if (actives (8 * n) s.top).all (!·) then .ok (s.emit (.v d 0 0) 5 (classFlag c))
    else
      let la := ea (s.rx a) i n
      let p ← s.lspace la n n
      let s ← s.lacc false 0 la [(p, n)]
      let s := s.lloadCause la n
      .ok (s.emit (.v d (vloadEn s (8 * n)) (bcast n (s.core.spad.num p n))) 5 (classFlag c))

/-- The active ones of a list, element by element. -/
def pick {α : Type} (act : List Bool) (xs : List α) : List α :=
  (act.zip xs).filterMap fun x => if x.1 then some x.2 else none

/-- 05 Table 8, major 21. -/
def execVst (t : BitVec 6) (a : BitVec 5) (c : BitVec 2) (i : BitVec 9) (s : State) : Res :=
  finish do
    if s.byteAct.all (!·) then .ok (s.emitFlags 1 (classFlag c))
    else
      let la := ea (s.rx a) i 512
      let p ← s.lspace la 512 512
      let s ← s.lacc true 2 la (s.activePool p)
      .ok ((s.store 2 (pick s.byteAct (cellsAt p (toBytes 512 (s.rv t).toNat))) 6).emitFlags 1 (classFlag c))

/-- Bytes of a gather or scatter code (05 Table 9). -/
def gsSize (z : BitVec 3) : Nat := match z.toNat % 3 with | 0 => 4 | 1 => 2 | _ => 8

/-- Addresses of the active elements with their element index (05 R168). -/
def State.gsAddrs (s : State) (x : Word) (v : BitVec 6) (n : Nat) : List (Nat × Word) :=
  (actives (8 * n) s.top).zipIdx.filterMap fun e =>
    if e.1 then some (e.2, x + BitVec.ofNat 64 (el (s.rv v).toNat (8 * n) e.2 * n)) else none

/-- 05 R169 in L-space: xa aligned, then every active address in bounds; the pool addresses. -/
def State.gsCheck (s : State) (x : Word) (n : Nat) (as : List (Nat × Word)) : Try (List (Nat × Nat)) := do
  trapWith s (decide (x.toNat % n ≠ 0)) { code := 0x05, va := x }
  match as.find? fun e => !s.core.inBounds s.str.spb e.2 n with
  | some e => .error (.trap s { code := 0x06, va := e.2 })
  | none => .ok (as.map fun e => (e.1, poolAddr s.str.spb e.2))

/-- A register with the given elements, 0 elsewhere. -/
def vregAt (w : Nat) (xs : List (Nat × Nat)) : VReg :=
  BitVec.ofNat 4096 (xs.foldl (fun r x => r + x.2 % 2 ^ w * 2 ^ (w * x.1)) 0)

/-- 05 Table 9, codes 0 to 2. -/
def execVgath (d : BitVec 6) (a : BitVec 5) (c : BitVec 2) (z : BitVec 3) (v : BitVec 6) (s : State) : Res :=
  guarded (.vgath d a c z v) s do
    let n := gsSize z
    match s.gsAddrs (s.rx a) v n with
    | [] => .ok (s.emit (.v d 0 0) 5 (classFlag c))
    | e :: es =>
      let ps ← s.gsCheck (s.rx a) n (e :: es)
      let s ← s.lacc false 0 e.2 (ps.map fun p => (p.2, n))
      let s := if (e :: es).any (fun e => s.touchesObject false e.2.toNat n) then s.cause 0x07 else s
      .ok (s.emit (.v d (vloadEn s (8 * n)) (vregAt (8 * n) (ps.map fun p => (p.1, s.core.spad.num p.2 n)))) 5
        (classFlag c))

/-- 05 Table 9, codes 3 to 5: the higher element stands where two name one address. -/
def execVscat (t : BitVec 6) (a : BitVec 5) (c : BitVec 2) (z : BitVec 3) (v : BitVec 6) (s : State) : Res :=
  guarded (.vscat t a c z v) s do
    let n := gsSize z
    match s.gsAddrs (s.rx a) v n with
    | [] => .ok (s.emitFlags 1 (classFlag c))
    | e :: es =>
      let ps ← s.gsCheck (s.rx a) n (e :: es)
      let s ← s.lacc true 2 e.2 (ps.map fun p => (p.2, n))
      .ok ((s.store 2 (ps.flatMap fun p => cellsAt p.2 (toBytes n (el (s.rv t).toNat (8 * n) p.1))) 6).emitFlags 1
        (classFlag c))

/-! ### Global forms -/

/-- Major 20 with SP = 1, code 0. -/
def execVldg (d : BitVec 6) (a : BitVec 5) (c : BitVec 2) (i : BitVec 9) (s : State) : Res :=
  finish do
    let va := ea (s.rx a) i 512
    if s.byteAct.all (!·) then .ok (s.emitG (.v d 0 0) c.toNat none [])
    else
      misaligned s va 512
      let rs := activeRanges va s.byteAct
      let s ← s.gacc { r := true } rs
      let s := s.gloadCause rs
      let f := rs.foldl (fun f r => lowTrap f (s.readFault r.1 (s.pkg.physOf s.core.fn r.1 r.2))) none
      .ok (s.emitG (.v d (vloadEn s 8) (vregBytes (s.gbytes va 512))) c.toNat f rs)

/-- Major 20 with SP = 1, codes 1 to 4. -/
def execVldgB (d : BitVec 6) (a : BitVec 5) (c : BitVec 2) (z : BitVec 3) (i : BitVec 9) (s : State) : Res :=
  guarded (.vldgB d a c z i) s do
    let n := bcastSize z
    let va := ea (s.rx a) i n
    if (actives (8 * n) s.top).all (!·) then .ok (s.emitG (.v d 0 0) c.toNat none [])
    else
      misaligned s va n
      let (s, bs, f) ← s.gread va n
      .ok (s.emitG (.v d (vloadEn s (8 * n)) (bcast n (ofBytes bs))) c.toNat f [(va, n)])

/-- Major 21 with SP = 1: the active bytes are checked, counted and written. -/
def execVstg (t : BitVec 6) (a : BitVec 5) (i : BitVec 9) (s : State) : Res :=
  finish do
    let va := ea (s.rx a) i 512
    if s.byteAct.all (!·) then .ok s
    else
      misaligned s va 512
      let rs := activeRanges va s.byteAct
      let s ← s.gacc { w := true } rs
      let bs := toBytes 512 (s.rv t).toNat
      .ok (s.gstore (rs.map fun r => (r.1, (bs.drop (r.1 - va).toNat).take r.2)))

/-- Major 22 with SP = 1, gathers. -/
def execVgathg (d : BitVec 6) (a : BitVec 5) (c : BitVec 2) (z : BitVec 3) (v : BitVec 6) (s : State) : Res :=
  guarded (.vgathg d a c z v) s do
    let n := gsSize z
    match s.gsAddrs (s.rx a) v n with
    | [] => .ok (s.emitG (.v d 0 0) c.toNat none [])
    | e :: es =>
      misaligned s (s.rx a) n
      let rs := (e :: es).map fun e => (e.2, n)
      let s ← s.gacc { r := true } rs
      let s := s.gloadCause rs
      let seen := s.view
      let phys := (e :: es).map fun e => (e.1, s.pkg.physOf s.core.fn e.2 n)
      let f := (e :: es).foldl (fun f x => lowTrap f (s.readFault x.2 (s.pkg.physOf s.core.fn x.2 n))) none
      .ok (s.emitG (.v d (vloadEn s (8 * n)) (vregAt (8 * n) (phys.map fun p =>
        (p.1, ofBytes (p.2.map seen.readPA))))) c.toNat f rs)

/-- Major 22 with SP = 1, scatters. -/
def execVscatg (t : BitVec 6) (a : BitVec 5) (z : BitVec 3) (v : BitVec 6) (s : State) : Res :=
  guarded (.vscatg t a z v) s do
    let n := gsSize z
    match s.gsAddrs (s.rx a) v n with
    | [] => .ok s
    | e :: es =>
      misaligned s (s.rx a) n
      let s ← s.gacc { w := true } ((e :: es).map fun e => (e.2, n))
      .ok (s.gstore ((e :: es).map fun e => (e.2, toBytes n (el (s.rv t).toNat (8 * n) e.1))))

end Sys2Proof.Machine
end

