-- ==== Sys2Proof/Machine/Dispatch.lean ====
section
/-! DEFINITION. The dispatch of every instruction to its meaning. -/
namespace Sys2Proof.Machine

def exec (i : Instr) (s : State) : Host.Outcome State Fault Refusal :=
  match i with
  | .nop => Sys2Proof.Machine.execNop s
  | .endTask => Sys2Proof.Machine.execEndTask s
  | .svc d a => Sys2Proof.Machine.execSvc d a s
  | .trap n => Sys2Proof.Machine.execTrap n s
  | .csrr d c => Sys2Proof.Machine.execCsrr d c s
  | .csrw a c => Sys2Proof.Machine.execCsrw a c s
  | .csrs a c => Sys2Proof.Machine.execCsrs a c s
  | .csrc a c => Sys2Proof.Machine.execCsrc a c s
  | .yield => Sys2Proof.Machine.execYield s
  | .drain => Sys2Proof.Machine.execDrain s
  | .clogrd d a => Sys2Proof.Machine.execClogrd d a s
  | .rjmark a => Sys2Proof.Machine.execRjmark a s
  | .rescnt d => Sys2Proof.Machine.execRescnt d s
  | .add d a b => Sys2Proof.Machine.execAdd d a b s
  | .sub d a b => Sys2Proof.Machine.execSub d a b s
  | .and d a b => Sys2Proof.Machine.execAnd d a b s
  | .or d a b => Sys2Proof.Machine.execOr d a b s
  | .xor d a b => Sys2Proof.Machine.execXor d a b s
  | .andn d a b => Sys2Proof.Machine.execAndn d a b s
  | .sll d a b => Sys2Proof.Machine.execSll d a b s
  | .srl d a b => Sys2Proof.Machine.execSrl d a b s
  | .sra d a b => Sys2Proof.Machine.execSra d a b s
  | .min d a b => Sys2Proof.Machine.execMin d a b s
  | .max d a b => Sys2Proof.Machine.execMax d a b s
  | .minu d a b => Sys2Proof.Machine.execMinu d a b s
  | .maxu d a b => Sys2Proof.Machine.execMaxu d a b s
  | .adds d a b => Sys2Proof.Machine.execAdds d a b s
  | .subs d a b => Sys2Proof.Machine.execSubs d a b s
  | .sel d a b p => Sys2Proof.Machine.execSel d a b p s
  | .cmpeq p a b => Sys2Proof.Machine.execCmpeq p a b s
  | .cmpne p a b => Sys2Proof.Machine.execCmpne p a b s
  | .cmplt p a b => Sys2Proof.Machine.execCmplt p a b s
  | .cmpltu p a b => Sys2Proof.Machine.execCmpltu p a b s
  | .cmple p a b => Sys2Proof.Machine.execCmple p a b s
  | .cmpleu p a b => Sys2Proof.Machine.execCmpleu p a b s
  | .addi d a im => Sys2Proof.Machine.execAddi d a im s
  | .andi d a im => Sys2Proof.Machine.execAndi d a im s
  | .ori d a im => Sys2Proof.Machine.execOri d a im s
  | .xori d a im => Sys2Proof.Machine.execXori d a im s
  | .slli d a n => Sys2Proof.Machine.execSlli d a n s
  | .srli d a n => Sys2Proof.Machine.execSrli d a n s
  | .srai d a n => Sys2Proof.Machine.execSrai d a n s
  | .shlor d a im => Sys2Proof.Machine.execShlor d a im s
  | .movi d im => Sys2Proof.Machine.execMovi d im s
  | .cmpeqi p a im => Sys2Proof.Machine.execCmpeqi p a im s
  | .cmplti p a im => Sys2Proof.Machine.execCmplti p a im s
  | .cmpltui p a im => Sys2Proof.Machine.execCmpltui p a im s
  | .mul d a b => Sys2Proof.Machine.execMul d a b s
  | .mulh d a b => Sys2Proof.Machine.execMulh d a b s
  | .mulhu d a b => Sys2Proof.Machine.execMulhu d a b s
  | .div d a b => Sys2Proof.Machine.execDiv d a b s
  | .divu d a b => Sys2Proof.Machine.execDivu d a b s
  | .rem d a b => Sys2Proof.Machine.execRem d a b s
  | .remu d a b => Sys2Proof.Machine.execRemu d a b s
  | .clz d a => Sys2Proof.Machine.execClz d a s
  | .ctz d a => Sys2Proof.Machine.execCtz d a s
  | .popc d a => Sys2Proof.Machine.execPopc d a s
  | .brev d a => Sys2Proof.Machine.execBrev d a s
  | .bswap d a => Sys2Proof.Machine.execBswap d a s
  | .rol d a b => Sys2Proof.Machine.execRol d a b s
  | .ror d a b => Sys2Proof.Machine.execRor d a b s
  | .extu d a b => Sys2Proof.Machine.execExtu d a b s
  | .exts d a b => Sys2Proof.Machine.execExts d a b s
  | .fadd d a b r t => Sys2Proof.Machine.execFadd d a b r t s
  | .fsub d a b r t => Sys2Proof.Machine.execFsub d a b r t s
  | .fmul d a b r t => Sys2Proof.Machine.execFmul d a b r t s
  | .fma d a b r t => Sys2Proof.Machine.execFma d a b r t s
  | .fmin d a b t => Sys2Proof.Machine.execFmin d a b t s
  | .fmax d a b t => Sys2Proof.Machine.execFmax d a b t s
  | .fdiv d a b r t => Sys2Proof.Machine.execFdiv d a b r t s
  | .fsqrt d a r t => Sys2Proof.Machine.execFsqrt d a r t s
  | .fcvt d a c r t => Sys2Proof.Machine.execFcvt d a c r t s
  | .fcvti d a b r t => Sys2Proof.Machine.execFcvti d a b r t s
  | .fcvtn d a b r t => Sys2Proof.Machine.execFcvtn d a b r t s
  | .icvtf d a b r t => Sys2Proof.Machine.execIcvtf d a b r t s
  | .ncvtf d a b r t => Sys2Proof.Machine.execNcvtf d a b r t s
  | .fcmpeq p a b t => Sys2Proof.Machine.execFcmpeq p a b t s
  | .fcmplt p a b t => Sys2Proof.Machine.execFcmplt p a b t s
  | .fcmple p a b t => Sys2Proof.Machine.execFcmple p a b t s
  | .fneg d a t => Sys2Proof.Machine.execFneg d a t s
  | .fabs d a t => Sys2Proof.Machine.execFabs d a t s
  | .beq a b d => Sys2Proof.Machine.execBeq a b d s
  | .bne a b d => Sys2Proof.Machine.execBne a b d s
  | .blt a b d => Sys2Proof.Machine.execBlt a b d s
  | .bge a b d => Sys2Proof.Machine.execBge a b d s
  | .bltu a b d => Sys2Proof.Machine.execBltu a b d s
  | .bgeu a b d => Sys2Proof.Machine.execBgeu a b d s
  | .bp p d => Sys2Proof.Machine.execBp p d s
  | .bnp p d => Sys2Proof.Machine.execBnp p d s
  | .j d => Sys2Proof.Machine.execJ d s
  | .call d => Sys2Proof.Machine.execCall d s
  | .jr a d => Sys2Proof.Machine.execJr a d s
  | .callr a d => Sys2Proof.Machine.execCallr a d s
  | .loop a d => Sys2Proof.Machine.execLoop a d s
  | .loopRot a n d => Sys2Proof.Machine.execLoopRot a n d s
  | .loopRot58 a n d => Sys2Proof.Machine.execLoopRot58 a n d s
  | .mpushAll => Sys2Proof.Machine.execMpushAll s
  | .mdup => Sys2Proof.Machine.execMdup s
  | .mpop => Sys2Proof.Machine.execMpop s
  | .mand => Sys2Proof.Machine.execMand s
  | .mor => Sys2Proof.Machine.execMor s
  | .mxor => Sys2Proof.Machine.execMxor s
  | .mandn => Sys2Proof.Machine.execMandn s
  | .mnot => Sys2Proof.Machine.execMnot s
  | .melse => Sys2Proof.Machine.execMelse s
  | .mpushP p => Sys2Proof.Machine.execMpushP p s
  | .mcnt d => Sys2Proof.Machine.execMcnt d s
  | .many p => Sys2Proof.Machine.execMany p s
  | .pand d a b im => Sys2Proof.Machine.execPand d a b im s
  | .por d a b im => Sys2Proof.Machine.execPor d a b im s
  | .pxor d a b im => Sys2Proof.Machine.execPxor d a b im s
  | .pandn d a b im => Sys2Proof.Machine.execPandn d a b im s
  | .pnz p a => Sys2Proof.Machine.execPnz p a s
  | .prd d => Sys2Proof.Machine.execPrd d s
  | .guard p m => Sys2Proof.Machine.execGuard p m s
  | .mskip n => Sys2Proof.Machine.execMskip n s
  | .ld d a c z im => Sys2Proof.Machine.execLd d a c z im s
  | .st t a c z im => Sys2Proof.Machine.execSt t a c z im s
  | .ldg d a c z im => Sys2Proof.Machine.execLdg d a c z im s
  | .stg t a z im => Sys2Proof.Machine.execStg t a z im s
  | .amswap d a b p w c o => Sys2Proof.Machine.execAmswap d a b p w c o s
  | .amcas d a b p w c o => Sys2Proof.Machine.execAmcas d a b p w c o s
  | .amadd d a b p w c o => Sys2Proof.Machine.execAmadd d a b p w c o s
  | .amand d a b p w c o => Sys2Proof.Machine.execAmand d a b p w c o s
  | .amor d a b p w c o => Sys2Proof.Machine.execAmor d a b p w c o s
  | .amxor d a b p w c o => Sys2Proof.Machine.execAmxor d a b p w c o s
  | .ammin d a b p w c o => Sys2Proof.Machine.execAmmin d a b p w c o s
  | .ammax d a b p w c o => Sys2Proof.Machine.execAmmax d a b p w c o s
  | .amminu d a b p w c o => Sys2Proof.Machine.execAmminu d a b p w c o s
  | .ammaxu d a b p w c o => Sys2Proof.Machine.execAmmaxu d a b p w c o s
  | .waddF64 a b p c o => Sys2Proof.Machine.execWaddF64 a b p c o s
  | .waddF32 a b p c o => Sys2Proof.Machine.execWaddF32 a b p c o s
  | .waddF16 a b p c o => Sys2Proof.Machine.execWaddF16 a b p c o s
  | .waddBf16 a b p c o => Sys2Proof.Machine.execWaddBf16 a b p c o s
  | .waddI64 a b p c o => Sys2Proof.Machine.execWaddI64 a b p c o s
  | .wrd d a p w c o => Sys2Proof.Machine.execWrd d a p w c o s
  | .atomicExecution => Sys2Proof.Machine.execAtomicExecution s
  | .fence c => Sys2Proof.Machine.execFence c s
  | .bind a b p => Sys2Proof.Machine.execBind a b p s
  | .unbind a => Sys2Proof.Machine.execUnbind a s
  | .sealRange a b => Sys2Proof.Machine.execSealRange a b s
  | .unsealRange a b => Sys2Proof.Machine.execUnsealRange a b s
  | .sealCompletion fn base => Sys2Proof.Machine.execSealCompletion fn base s
  | .unsealCompletion fn base => Sys2Proof.Machine.execUnsealCompletion fn base s
  | .binit c a b p => Sys2Proof.Machine.execBinit c a b p s
  | .arrb d a p c => Sys2Proof.Machine.execArrb d a p c s
  | .waitph a b p c => Sys2Proof.Machine.execWaitph a b p c s
  | .barrierObjectUpdate sp addr bytes arr => Sys2Proof.Machine.execBarrierObjectUpdate sp addr bytes arr s
  | .globalWritePerformed => Sys2Proof.Machine.execGlobalWritePerformed s
  | .vadd d a b t k => Sys2Proof.Machine.execVadd d a b t k s
  | .vsub d a b t k => Sys2Proof.Machine.execVsub d a b t k s
  | .vadds d a b t k => Sys2Proof.Machine.execVadds d a b t k s
  | .vsubs d a b t k => Sys2Proof.Machine.execVsubs d a b t k s
  | .vmin d a b t k => Sys2Proof.Machine.execVmin d a b t k s
  | .vmax d a b t k => Sys2Proof.Machine.execVmax d a b t k s
  | .vmul d a b t k => Sys2Proof.Machine.execVmul d a b t k s
  | .vmulh d a b t k => Sys2Proof.Machine.execVmulh d a b t k s
  | .vand d a b t k => Sys2Proof.Machine.execVand d a b t k s
  | .vor d a b t k => Sys2Proof.Machine.execVor d a b t k s
  | .vxor d a b t k => Sys2Proof.Machine.execVxor d a b t k s
  | .vandn d a b t k => Sys2Proof.Machine.execVandn d a b t k s
  | .vsll d a b t k => Sys2Proof.Machine.execVsll d a b t k s
  | .vsrl d a b t k => Sys2Proof.Machine.execVsrl d a b t k s
  | .vsra d a b t k => Sys2Proof.Machine.execVsra d a b t k s
  | .vcmp c a b t k => Sys2Proof.Machine.execVcmp c a b t k s
  | .vfadd d a b t k => Sys2Proof.Machine.execVfadd d a b t k s
  | .vfsub d a b t k => Sys2Proof.Machine.execVfsub d a b t k s
  | .vfmul d a b t k => Sys2Proof.Machine.execVfmul d a b t k s
  | .vfmin d a b t k => Sys2Proof.Machine.execVfmin d a b t k s
  | .vfmax d a b t k => Sys2Proof.Machine.execVfmax d a b t k s
  | .vfdiv d a b t k => Sys2Proof.Machine.execVfdiv d a b t k s
  | .vfsqrt d a t => Sys2Proof.Machine.execVfsqrt d a t s
  | .vfrsqrt d a t => Sys2Proof.Machine.execVfrsqrt d a t s
  | .vfexp2 d a t => Sys2Proof.Machine.execVfexp2 d a t s
  | .vflog2 d a t => Sys2Proof.Machine.execVflog2 d a t s
  | .vfneg d a t => Sys2Proof.Machine.execVfneg d a t s
  | .vfabs d a t => Sys2Proof.Machine.execVfabs d a t s
  | .vfcmp c a b t k => Sys2Proof.Machine.execVfcmp c a b t k s
  | .vfma d a b t k => Sys2Proof.Machine.execVfma d a b t k s
  | .vfnma d a b t k => Sys2Proof.Machine.execVfnma d a b t k s
  | .vfmsub d a b t k => Sys2Proof.Machine.execVfmsub d a b t k s
  | .vfmaw d a b t k => Sys2Proof.Machine.execVfmaw d a b t k s
  | .vmac d a b t k => Sys2Proof.Machine.execVmac d a b t k s
  | .vmacw d a b t k => Sys2Proof.Machine.execVmacw d a b t k s
  | .vcvt d a r x m c e l => Sys2Proof.Machine.execVcvt d a r x m c e l s
  | .vgf2mm d a b => Sys2Proof.Machine.execVgf2mm d a b s
  | .vpdep d a b => Sys2Proof.Machine.execVpdep d a b s
  | .vpext d a b => Sys2Proof.Machine.execVpext d a b s
  | .vbperm d a b => Sys2Proof.Machine.execVbperm d a b s
  | .vpopc d a => Sys2Proof.Machine.execVpopc d a s
  | .vperm d a b w => Sys2Proof.Machine.execVperm d a b w s
  | .vbcast d b w => Sys2Proof.Machine.execVbcast d b w s
  | .vbcaste d a b w => Sys2Proof.Machine.execVbcaste d a b w s
  | .vslideup d a b w => Sys2Proof.Machine.execVslideup d a b w s
  | .vslidedn d a b w => Sys2Proof.Machine.execVslidedn d a b w s
  | .vins d a b w => Sys2Proof.Machine.execVins d a b w s
  | .vext d a b w => Sys2Proof.Machine.execVext d a b w s
  | .vilv d a b w => Sys2Proof.Machine.execVilv d a b w s
  | .vdilv d a b w => Sys2Proof.Machine.execVdilv d a b w s
  | .vredsum d a t => Sys2Proof.Machine.execVredsum d a t s
  | .vredmin d a t => Sys2Proof.Machine.execVredmin d a t s
  | .vredmax d a t => Sys2Proof.Machine.execVredmax d a t s
  | .vredand d a t => Sys2Proof.Machine.execVredand d a t s
  | .vredor d a t => Sys2Proof.Machine.execVredor d a t s
  | .vredxor d a t => Sys2Proof.Machine.execVredxor d a t s
  | .vfredsum d a t => Sys2Proof.Machine.execVfredsum d a t s
  | .vfredmin d a t => Sys2Proof.Machine.execVfredmin d a t s
  | .vfredmax d a t => Sys2Proof.Machine.execVfredmax d a t s
  | .vfredmaxa d a t => Sys2Proof.Machine.execVfredmaxa d a t s
  | .qsinit a b => Sys2Proof.Machine.execQsinit a b s
  | .hhinit b => Sys2Proof.Machine.execHhinit b s
  | .dcinit a b => Sys2Proof.Machine.execDcinit a b s
  | .qsadd a b t => Sys2Proof.Machine.execQsadd a b t s
  | .hhadd a b t => Sys2Proof.Machine.execHhadd a b t s
  | .hhaddw w a b => Sys2Proof.Machine.execHhaddw w a b s
  | .dcadd a b t => Sys2Proof.Machine.execDcadd a b t s
  | .qsmrg a b => Sys2Proof.Machine.execQsmrg a b s
  | .hhmrg a b => Sys2Proof.Machine.execHhmrg a b s
  | .dcmrg a b => Sys2Proof.Machine.execDcmrg a b s
  | .qsquant d a b => Sys2Proof.Machine.execQsquant d a b s
  | .hhtop d a b => Sys2Proof.Machine.execHhtop d a b s
  | .dcest d b => Sys2Proof.Machine.execDcest d b s
  | .summaryResultLanding => Sys2Proof.Machine.execSummaryResultLanding s
  | .vld d a c im => Sys2Proof.Machine.execVld d a c im s
  | .vldB d a c z im => Sys2Proof.Machine.execVldB d a c z im s
  | .vst t a c im => Sys2Proof.Machine.execVst t a c im s
  | .vldg d a c im => Sys2Proof.Machine.execVldg d a c im s
  | .vldgB d a c z im => Sys2Proof.Machine.execVldgB d a c z im s
  | .vstg t a im => Sys2Proof.Machine.execVstg t a im s
  | .vgath d a c z v => Sys2Proof.Machine.execVgath d a c z v s
  | .vscat t a c z v => Sys2Proof.Machine.execVscat t a c z v s
  | .vgathg d a c z v => Sys2Proof.Machine.execVgathg d a c z v s
  | .vscatg t a z v => Sys2Proof.Machine.execVscatg t a z v s
  | .resultLanding => Sys2Proof.Machine.execResultLanding s
  | .storeEffect => Sys2Proof.Machine.execStoreEffect s
  | .globalLoadReply k => Sys2Proof.Machine.execGlobalLoadReply k s
  | .translationReply => Sys2Proof.Machine.execTranslationReply s
  | .invalidation fn va psz => Sys2Proof.Machine.execInvalidation fn va psz s
  | .invalidationComplete fn va psz => Sys2Proof.Machine.execInvalidationComplete fn va psz s
  | .mxcall a b n => Sys2Proof.Machine.execMxcall a b n s
  | .mxparm a n => Sys2Proof.Machine.execMxparm a n s
  | .mxrcfg a b r => Sys2Proof.Machine.execMxrcfg a b r s
  | .mxrpush a r => Sys2Proof.Machine.execMxrpush a r s
  | .mxrstat d r => Sys2Proof.Machine.execMxrstat d r s
  | .mxrda a q d => Sys2Proof.Machine.execMxrda a q d s
  | .mxwra a q v => Sys2Proof.Machine.execMxwra a q v s
  | .mxdset m => Sys2Proof.Machine.execMxdset m s
  | .mxdclr m => Sys2Proof.Machine.execMxdclr m s
  | .mxdrd d => Sys2Proof.Machine.execMxdrd d s
  | .mxuld a b => Sys2Proof.Machine.execMxuld a b s
  | .routineStart => Sys2Proof.Machine.execRoutineStart s
  | .mend => Sys2Proof.Machine.execMend s
  | .mpass ra rb xc xp xq fmt ck za => Sys2Proof.Machine.execMpass ra rb xc xp xq fmt ck za s
  | .mscale ra rb xc xp xq fmt za => Sys2Proof.Machine.execMscale ra rb xc xp xq fmt za s
  | .mzero xc => Sys2Proof.Machine.execMzero xc s
  | .mout xc xq fmt sat rm mpr => Sys2Proof.Machine.execMout xc xq fmt sat rm mpr s
  | .mckz xc => Sys2Proof.Machine.execMckz xc s
  | .mckout xc xq mpr => Sys2Proof.Machine.execMckout xc xq mpr s
  | .mpopMicroOp ra => Sys2Proof.Machine.execMpopMicroOp ra s
  | .macc xc xp => Sys2Proof.Machine.execMacc xc xp s
  | .midle imm => Sys2Proof.Machine.execMidle imm s
  | .mldi xc sel mpr mpf imm => Sys2Proof.Machine.execMldi xc sel mpr mpf imm s
  | .maddi xc imm => Sys2Proof.Machine.execMaddi xc imm s
  | .mloop xc => Sys2Proof.Machine.execMloop xc s
  | .mnext => Sys2Proof.Machine.execMnext s
  | .ldgeom a n => Sys2Proof.Machine.execLdgeom a n s
  | .stgeom a n => Sys2Proof.Machine.execStgeom a n s
  | .cpyin a b n o => Sys2Proof.Machine.execCpyin a b n o s
  | .cpyout a b n => Sys2Proof.Machine.execCpyout a b n s
  | .cpyloop a b n => Sys2Proof.Machine.execCpyloop a b n s
  | .wtagAll a => Sys2Proof.Machine.execWtagAll a s
  | .wtagAny a => Sys2Proof.Machine.execWtagAny a s
  | .ffr a d => Sys2Proof.Machine.execFfr a d s
  | .tcnt a d => Sys2Proof.Machine.execTcnt a d s
  | .localCopyBeat => Sys2Proof.Machine.execLocalCopyBeat s
  | .taggedCopyCompletion t => Sys2Proof.Machine.execTaggedCopyCompletion t s
  | .loopingIterationLanding t => Sys2Proof.Machine.execLoopingIterationLanding t s
  | .coll a b t => Sys2Proof.Machine.execColl a b t s
  | .crank d b => Sys2Proof.Machine.execCrank d b s
  | .crankg d b => Sys2Proof.Machine.execCrankg d b s
  | .cplan d => Sys2Proof.Machine.execCplan d s
  | .walkerChunkRead t => Sys2Proof.Machine.execWalkerChunkRead t s
  | .chunkArrival c => Sys2Proof.Machine.execChunkArrival c s
  | .collectiveCompletion t => Sys2Proof.Machine.execCollectiveCompletion t s
  | .send a x => Sys2Proof.Machine.execSend a x s
  | .sendv a v => Sys2Proof.Machine.execSendv a v s
  | .recv h b d => Sys2Proof.Machine.execRecv h b d s
  | .recvv h b d => Sys2Proof.Machine.execRecvv h b d s
  | .arrive c => Sys2Proof.Machine.execArrive c s
  | .wait c => Sys2Proof.Machine.execWait c s
  | .nstv a m v => Sys2Proof.Machine.execNstv a m v s
  | .messageArrival ch k => Sys2Proof.Machine.execMessageArrival ch k s
  | .barrierGenerationComplete scope key => Sys2Proof.Machine.execBarrierGenerationComplete scope key s
  | .pcfg a b => Sys2Proof.Machine.execPcfg a b s
  | .probe d b p => Sys2Proof.Machine.execProbe d b p s
  | .plook d b p => Sys2Proof.Machine.execPlook d b p s
  | .pinv b => Sys2Proof.Machine.execPinv b s
  | .pinva => Sys2Proof.Machine.execPinva s
  | .probeFillLanding slot => Sys2Proof.Machine.execProbeFillLanding slot s
  | .haulset a b c => Sys2Proof.Machine.execHaulset a b c s
  | .haulend => Sys2Proof.Machine.execHaulend s
  | .blaze a => Sys2Proof.Machine.execBlaze a s
  | .migrate a b t => Sys2Proof.Machine.execMigrate a b t s
  | .haulstat d => Sys2Proof.Machine.execHaulstat d s
  | .haulActionCompletion idx => Sys2Proof.Machine.execHaulActionCompletion idx s
  | .migrationInvalidated t => Sys2Proof.Machine.execMigrationInvalidated t s
  | .migrationCopyDone t => Sys2Proof.Machine.execMigrationCopyDone t s
  | .migrationComplete t => Sys2Proof.Machine.execMigrationComplete t s
  | .tagset a b => Sys2Proof.Machine.execTagset a b s
  | .tagsetz a b => Sys2Proof.Machine.execTagsetz a b s
  | .tagget a d => Sys2Proof.Machine.execTagget a d s
  | .dtrace a => Sys2Proof.Machine.execDtrace a s
  | .lpcrd a d => Sys2Proof.Machine.execLpcrd a d s
  | .dinjA a b => Sys2Proof.Machine.execDinjA a b s
  | .dinjM a b m => Sys2Proof.Machine.execDinjM a b m s
  | .dinjgM a b m => Sys2Proof.Machine.execDinjgM a b m s
  | .dbrk => Sys2Proof.Machine.execDbrk s
  | .traceSample => Sys2Proof.Machine.execTraceSample s
  | .preciseStop code sub => Sys2Proof.Machine.execPreciseStop code sub s
  | .streamCompletion => Sys2Proof.Machine.execStreamCompletion s
  | .phaseCommit launch phase => Sys2Proof.Machine.execPhaseCommit launch phase s
  | .queueNop q => Sys2Proof.Machine.execQueueNop q s
  | .launch q phase desc lid argp => Sys2Proof.Machine.execLaunch q phase desc lid argp s
  | .phaseEnd q last => Sys2Proof.Machine.execPhaseEnd q last s
  | .condSkip q cond n word val mask => Sys2Proof.Machine.execCondSkip q cond n word val mask s
  | .jump q off => Sys2Proof.Machine.execJump q off s
  | .queueCall q sub => Sys2Proof.Machine.execQueueCall q sub s
  | .queueReturn q => Sys2Proof.Machine.execQueueReturn q s
  | .waitValue q cond word val mask => Sys2Proof.Machine.execWaitValue q cond word val mask s
  | .waitValueReread q => Sys2Proof.Machine.execWaitValueReread q s
  | .writeValue q commit notify tag word val => Sys2Proof.Machine.execWriteValue q commit notify tag word val s
  | .checkpoint q point list => Sys2Proof.Machine.execCheckpoint q point list s
  | .checkpointCopiesDone q failed => Sys2Proof.Machine.execCheckpointCopiesDone q failed s
  | .digest q list result => Sys2Proof.Machine.execDigest q list result s
  | .tail block v => Sys2Proof.Machine.execTail block v s
  | .rst block => Sys2Proof.Machine.execRst block s
  | .registerWrite reg v => Sys2Proof.Machine.execRegisterWrite reg v s
  | .write die slot rcd plan => Sys2Proof.Machine.execWrite die slot rcd plan s
  | .arm die slot rcd plan => Sys2Proof.Machine.execArm die slot rcd plan s
  | .disarm die slot => Sys2Proof.Machine.execDisarm die slot s
  | .stop die slot => Sys2Proof.Machine.execStop die slot s
  | .resume die slot corner => Sys2Proof.Machine.execResume die slot corner s
  | .release die slot => Sys2Proof.Machine.execRelease die slot s
  | .placement die slot => Sys2Proof.Machine.execPlacement die slot s
  | .agingLevel die slot => Sys2Proof.Machine.execAgingLevel die slot s
  | .saveDone die slot => Sys2Proof.Machine.execSaveDone die slot s
  | .discardDone die slot => Sys2Proof.Machine.execDiscardDone die slot s
  | .answer fn tag v => Sys2Proof.Machine.execAnswer fn tag v s
  | .recover fn point => Sys2Proof.Machine.execRecover fn point s
  | .mailboxStop fn slotId => Sys2Proof.Machine.execMailboxStop fn slotId s
  | .mailboxResume fn slotId corner => Sys2Proof.Machine.execMailboxResume fn slotId corner s
  | .mailboxRelease fn slotId => Sys2Proof.Machine.execMailboxRelease fn slotId s
  | .planload fn slot addr => Sys2Proof.Machine.execPlanload fn slot addr s
  | .planact fn slot => Sys2Proof.Machine.execPlanact fn slot s
  | .debug fn word target => Sys2Proof.Machine.execDebug fn word target s
  | .peerwin fn base bytes who => Sys2Proof.Machine.execPeerwin fn base bytes who s
  | .puppeteerNotification fn type arg tag addr v payload => Sys2Proof.Machine.execPuppeteerNotification fn type arg tag addr v payload s
  | .stackCriticalTemperature stack => Sys2Proof.Machine.execStackCriticalTemperature stack s
  | .stackSelfRefreshExit stack => Sys2Proof.Machine.execStackSelfRefreshExit stack s
  | .laneRatioSwitch stack code => Sys2Proof.Machine.execLaneRatioSwitch stack code s
  | .correctedError die => Sys2Proof.Machine.execCorrectedError die s
  | .uncorrectableError site => Sys2Proof.Machine.execUncorrectableError site s
  | .slotBoundary => Sys2Proof.Machine.execSlotBoundary s
  | .linkRetry port => Sys2Proof.Machine.execLinkRetry port s
  | .frameEnd => Sys2Proof.Machine.execFrameEnd s
  | .pauseEnd => Sys2Proof.Machine.execPauseEnd s
  | .pauseLimit port => Sys2Proof.Machine.execPauseLimit port s
  | .peerRequest who fn req => Sys2Proof.Machine.execPeerRequest who fn req s
  | .peerErrorResponse store port => Sys2Proof.Machine.execPeerErrorResponse store port s
  | .bar2Access fn ide req => Sys2Proof.Machine.execBar2Access fn ide req s
  | .keySlotFill fn slot pages => Sys2Proof.Machine.execKeySlotFill fn slot pages s
  | .tdiLeavesRun fn err => Sys2Proof.Machine.execTdiLeavesRun fn err s
  | .spdmRequest fn offered block => Sys2Proof.Machine.execSpdmRequest fn offered block s
  | .conventionalReset => Sys2Proof.Machine.execConventionalReset s
  | .functionLevelReset fn => Sys2Proof.Machine.execFunctionLevelReset fn s
  | .clockStep up => Sys2Proof.Machine.execClockStep up s
  | .thermalTrip => Sys2Proof.Machine.execThermalTrip s
  | .powerCapSet watts => Sys2Proof.Machine.execPowerCapSet watts s
  | .flashUpdate image svn hash => Sys2Proof.Machine.execFlashUpdate image svn hash s
  | .digestComplete q => Sys2Proof.Machine.execDigestComplete q s
  | .recoveryCopiesDone fn => Sys2Proof.Machine.execRecoveryCopiesDone fn s
  | .puppeteerServiceAnswer tag v => Sys2Proof.Machine.execPuppeteerServiceAnswer tag v s
  | .tdispRequest fn req => Sys2Proof.Machine.execTdispRequest fn req s

end Sys2Proof.Machine
end

