-- ==== Sys2Proof/Machine/Regs.lean ====
section
/-! DEFINITION. The registers that a syllable names (01 R19; 03 R97): the bundle rules of 01 R19 and the interlock of the
secondary stream (08 R215) go by them. -/
namespace Sys2Proof.Machine

/-- A register in the sense of 01 R19 and 03 R97. -/
inductive Reg where
  | x (r : BitVec 5) | p (r : BitVec 4) | v (r : BitVec 6) | mask | csr (c : BitVec 8) | mp (n : BitVec 3)
  | dep (n : BitVec 3) | g (n : BitVec 4)
  deriving DecidableEq, Repr

def allP : List Reg := (List.range 16).map fun i => .p (BitVec.ofNat 4 i)
/-- P8 to P15, which a rotating loop sets (04 R133). -/
def stageP : List Reg := (List.range 8).map fun i => .p (BitVec.ofNat 4 (8 + i))
def allMp : List Reg := (List.range 8).map fun i => .mp (BitVec.ofNat 3 i)
def allDep : List Reg := (List.range 8).map fun i => .dep (BitVec.ofNat 3 i)

/-- A register group (05 R144). -/
def vs (r : BitVec 6) (n : Nat) : List Reg := (List.range n).map fun i => .v (r + BitVec.ofNat 6 i)
/-- Operand b of a vector form, or its scalar form's xb (05 R146). -/
def vsrc (b : BitVec 6) (k : BitVec 1) : List Reg := if k = 1 then [.x (b.setWidth 5)] else [.v b]
/-- A form whose encoding rounds stochastically, or may, writes RMODE (02 R72). -/
def sr (b : Bool) : List Reg := if b then [.csr 0x0A] else []

/-- Registers of the source and the destination group of a conversion (05 R156). -/
def cvtGroups (l : BitVec 2) (s d : BitVec 3) : Nat × Nat :=
  if l == 0 && (s == 6 || d == 6) then (1, 1)
  else
    let ws := (cvtWidths l s d).1
    let wd := (cvtWidths l s d).2
    if ws < wd then (1, wd / ws) else (ws / wd, 1)

/-- A vector conversion that 02 R72 names: rm 4 or 5 to E4M3, E5M2 or BF16, and not exact by definition. -/
def cvtStochastic (r : BitVec 3) (s d : BitVec 3) (l : BitVec 2) : Bool :=
  (r == 4 || r == 5) && srDest l d && (l != 0 || s != 6) && !cvtExact l s d

/-- The registers that an instruction reads, and those that it writes; MSKIP counts as a reader of the mask stack (DESIGN
CHOICE, unsafe: notes/assumptions/86.md). -/
def uses : Instr → List Reg × List Reg
  | .svc d a => ([.x a], [.x d])
  | .csrr d c => ([.csr c], [.x d])
  | .csrw a c => ([.x a], [.csr c])
  | .csrs a c => ([.x a, .csr c], [.csr c])
  | .csrc a c => ([.x a, .csr c], [.csr c])
  | .clogrd d a => ([.x a], [.x d])
  | .rjmark a => ([.x a], [])
  | .rescnt d => ([], [.x d])
  | .add d a b => ([.x a, .x b], [.x d])
  | .sub d a b => ([.x a, .x b], [.x d])
  | .and d a b => ([.x a, .x b], [.x d])
  | .or d a b => ([.x a, .x b], [.x d])
  | .xor d a b => ([.x a, .x b], [.x d])
  | .andn d a b => ([.x a, .x b], [.x d])
  | .sll d a b => ([.x a, .x b], [.x d])
  | .srl d a b => ([.x a, .x b], [.x d])
  | .sra d a b => ([.x a, .x b], [.x d])
  | .min d a b => ([.x a, .x b], [.x d])
  | .max d a b => ([.x a, .x b], [.x d])
  | .minu d a b => ([.x a, .x b], [.x d])
  | .maxu d a b => ([.x a, .x b], [.x d])
  | .adds d a b => ([.x a, .x b], [.x d])
  | .subs d a b => ([.x a, .x b], [.x d])
  | .sel d a b p => ([.x a, .x b, .p p], [.x d])
  | .cmpeq p a b => ([.x a, .x b], [.p p])
  | .cmpne p a b => ([.x a, .x b], [.p p])
  | .cmplt p a b => ([.x a, .x b], [.p p])
  | .cmpltu p a b => ([.x a, .x b], [.p p])
  | .cmple p a b => ([.x a, .x b], [.p p])
  | .cmpleu p a b => ([.x a, .x b], [.p p])
  | .addi d a _ => ([.x a], [.x d])
  | .andi d a _ => ([.x a], [.x d])
  | .ori d a _ => ([.x a], [.x d])
  | .xori d a _ => ([.x a], [.x d])
  | .slli d a _ => ([.x a], [.x d])
  | .srli d a _ => ([.x a], [.x d])
  | .srai d a _ => ([.x a], [.x d])
  | .shlor d a _ => ([.x a], [.x d])
  | .movi d _ => ([], [.x d])
  | .cmpeqi p a _ => ([.x a], [.p p])
  | .cmplti p a _ => ([.x a], [.p p])
  | .cmpltui p a _ => ([.x a], [.p p])
  | .mul d a b => ([.x a, .x b], [.x d])
  | .mulh d a b => ([.x a, .x b], [.x d])
  | .mulhu d a b => ([.x a, .x b], [.x d])
  | .div d a b => ([.x a, .x b], [.x d])
  | .divu d a b => ([.x a, .x b], [.x d])
  | .rem d a b => ([.x a, .x b], [.x d])
  | .remu d a b => ([.x a, .x b], [.x d])
  | .clz d a => ([.x a], [.x d])
  | .ctz d a => ([.x a], [.x d])
  | .popc d a => ([.x a], [.x d])
  | .brev d a => ([.x a], [.x d])
  | .bswap d a => ([.x a], [.x d])
  | .rol d a b => ([.x a, .x b], [.x d])
  | .ror d a b => ([.x a, .x b], [.x d])
  | .extu d a b => ([.x a, .x b], [.x d])
  | .exts d a b => ([.x a, .x b], [.x d])
  | .fadd d a b _ _ => ([.x a, .x b], [.x d])
  | .fsub d a b _ _ => ([.x a, .x b], [.x d])
  | .fmul d a b _ _ => ([.x a, .x b], [.x d])
  | .fma d a b _ _ => ([.x d, .x a, .x b], [.x d])
  | .fmin d a b _ => ([.x a, .x b], [.x d])
  | .fmax d a b _ => ([.x a, .x b], [.x d])
  | .fdiv d a b _ _ => ([.x a, .x b], [.x d])
  | .fsqrt d a _ _ => ([.x a], [.x d])
  | .fcvt d a _ r t => ([.x a], [.x d] ++ sr (t == 3 && (r == 4 || r == 5)))
  | .fcvti d a _ _ _ => ([.x a], [.x d])
  | .fcvtn d a _ _ _ => ([.x a], [.x d])
  | .icvtf d a _ r t => ([.x a], [.x d] ++ sr (t == 3 && (r == 4 || r == 5)))
  | .ncvtf d a _ r t => ([.x a], [.x d] ++ sr (t == 3 && (r == 4 || r == 5)))
  | .fcmpeq p a b _ => ([.x a, .x b], [.p p])
  | .fcmplt p a b _ => ([.x a, .x b], [.p p])
  | .fcmple p a b _ => ([.x a, .x b], [.p p])
  | .fneg d a _ => ([.x a], [.x d])
  | .fabs d a _ => ([.x a], [.x d])
  | .beq a b _ => ([.x a, .x b], [])
  | .bne a b _ => ([.x a, .x b], [])
  | .blt a b _ => ([.x a, .x b], [])
  | .bge a b _ => ([.x a, .x b], [])
  | .bltu a b _ => ([.x a, .x b], [])
  | .bgeu a b _ => ([.x a, .x b], [])
  | .bp p _ => ([.p p], [])
  | .bnp p _ => ([.p p], [])
  | .call _ => ([], [.x 31])
  | .jr a _ => ([.x a], [])
  | .callr a _ => ([.x a], [.x 31])
  | .loop a _ => ([.x a], [])
  | .loopRot a _ _ => ([.x a], stageP)
  | .loopRot58 a _ _ => ([.x a], stageP)
  | .mpushAll => ([.mask], [.mask])
  | .mdup => ([.mask], [.mask])
  | .mpop => ([.mask], [.mask])
  | .mand => ([.mask], [.mask])
  | .mor => ([.mask], [.mask])
  | .mxor => ([.mask], [.mask])
  | .mandn => ([.mask], [.mask])
  | .mnot => ([.mask], [.mask])
  | .melse => ([.mask], [.mask])
  | .mpushP p => ([.mask, .p p], [.mask])
  | .mcnt d => ([.mask], [.x d])
  | .many p => ([.mask], [.p p])
  | .pand d a b _ => ([.p a, .p b], [.p d])
  | .por d a b _ => ([.p a, .p b], [.p d])
  | .pxor d a b _ => ([.p a, .p b], [.p d])
  | .pandn d a b _ => ([.p a, .p b], [.p d])
  | .pnz p a => ([.x a], [.p p])
  | .prd d => (allP, [.x d])
  | .guard p _ => ([.p p], [])
  | .mskip _ => ([.mask], [])
  | .ld d a _ _ _ => ([.x a], [.x d])
  | .st t a _ _ _ => ([.x t, .x a], [])
  | .ldg d a _ _ _ => ([.x a], [.x d])
  | .stg t a _ _ => ([.x t, .x a], [])
  | .amswap d a b _ _ _ _ => ([.x a, .x b], [.x d])
  | .amcas d a b _ _ _ _ => ([.x d, .x a, .x b], [.x d])
  | .amadd d a b _ _ _ _ => ([.x a, .x b], [.x d])
  | .amand d a b _ _ _ _ => ([.x a, .x b], [.x d])
  | .amor d a b _ _ _ _ => ([.x a, .x b], [.x d])
  | .amxor d a b _ _ _ _ => ([.x a, .x b], [.x d])
  | .ammin d a b _ _ _ _ => ([.x a, .x b], [.x d])
  | .ammax d a b _ _ _ _ => ([.x a, .x b], [.x d])
  | .amminu d a b _ _ _ _ => ([.x a, .x b], [.x d])
  | .ammaxu d a b _ _ _ _ => ([.x a, .x b], [.x d])
  | .waddF64 a b _ _ _ => ([.x a, .x b], [])
  | .waddF32 a b _ _ _ => ([.x a, .x b], [])
  | .waddF16 a b _ _ _ => ([.x a, .x b], [])
  | .waddBf16 a b _ _ _ => ([.x a, .x b], [])
  | .waddI64 a b _ _ _ => ([.x a, .x b], [])
  | .wrd d a _ _ _ _ => ([.x a], [.x d])
  | .bind a b _ => ([.x a, .x b], [])
  | .unbind a => ([.x a], [])
  | .sealRange a b => ([.x a, .x b], [])
  | .unsealRange a b => ([.x a, .x b], [])
  | .binit c a b _ => ([.x a, .x b, .x c], [])
  | .arrb d a _ _ => ([.x a], [.x d])
  | .waitph a b _ _ => ([.x a, .x b], [])
  | .vadd d a b _ k => ([.mask, .v a] ++ vsrc b k, [.v d])
  | .vsub d a b _ k => ([.mask, .v a] ++ vsrc b k, [.v d])
  | .vadds d a b _ k => ([.mask, .v a] ++ vsrc b k, [.v d])
  | .vsubs d a b _ k => ([.mask, .v a] ++ vsrc b k, [.v d])
  | .vmin d a b _ k => ([.mask, .v a] ++ vsrc b k, [.v d])
  | .vmax d a b _ k => ([.mask, .v a] ++ vsrc b k, [.v d])
  | .vmul d a b _ k => ([.mask, .v a] ++ vsrc b k, [.v d])
  | .vmulh d a b _ k => ([.mask, .v a] ++ vsrc b k, [.v d])
  | .vand d a b _ k => ([.mask, .v a] ++ vsrc b k, [.v d])
  | .vor d a b _ k => ([.mask, .v a] ++ vsrc b k, [.v d])
  | .vxor d a b _ k => ([.mask, .v a] ++ vsrc b k, [.v d])
  | .vandn d a b _ k => ([.mask, .v a] ++ vsrc b k, [.v d])
  | .vsll d a b _ k => ([.mask, .v a] ++ vsrc b k, [.v d])
  | .vsrl d a b _ k => ([.mask, .v a] ++ vsrc b k, [.v d])
  | .vsra d a b _ k => ([.mask, .v a] ++ vsrc b k, [.v d])
  | .vcmp _ a b _ k => ([.mask, .v a] ++ vsrc b k, [.mask])
  | .vfadd d a b _ k => ([.mask, .v a] ++ vsrc b k, [.v d])
  | .vfsub d a b _ k => ([.mask, .v a] ++ vsrc b k, [.v d])
  | .vfmul d a b _ k => ([.mask, .v a] ++ vsrc b k, [.v d])
  | .vfmin d a b _ k => ([.mask, .v a] ++ vsrc b k, [.v d])
  | .vfmax d a b _ k => ([.mask, .v a] ++ vsrc b k, [.v d])
  | .vfdiv d a b _ k => ([.mask, .v a] ++ vsrc b k, [.v d])
  | .vfsqrt d a _ => ([.mask, .v a], [.v d])
  | .vfrsqrt d a _ => ([.mask, .v a], [.v d])
  | .vfexp2 d a _ => ([.mask, .v a], [.v d])
  | .vflog2 d a _ => ([.mask, .v a], [.v d])
  | .vfneg d a _ => ([.mask, .v a], [.v d])
  | .vfabs d a _ => ([.mask, .v a], [.v d])
  | .vfcmp _ a b _ k => ([.mask, .v a] ++ vsrc b k, [.mask])
  | .vfma d a b _ k => ([.mask, .v d, .v a] ++ vsrc b k, [.v d])
  | .vfnma d a b _ k => ([.mask, .v d, .v a] ++ vsrc b k, [.v d])
  | .vfmsub d a b _ k => ([.mask, .v d, .v a] ++ vsrc b k, [.v d])
  | .vfmaw d a b _ k => ([.mask, .v a] ++ vs d 2 ++ vsrc b k, vs d 2)
  | .vmac d a b _ k => ([.mask, .v d, .v a] ++ vsrc b k, [.v d])
  | .vmacw d a b _ k => ([.mask, .v a] ++ vs d 4 ++ vsrc b k, vs d 4)
  | .vcvt d a r _ _ c e l => ((if l == 0 && (c == 6 || e == 6) then [] else [.mask]) ++ vs a (cvtGroups l c e).1, vs d (cvtGroups l c e).2 ++ sr (cvtStochastic r c e l))
  | .vgf2mm d a b => ([.mask, .v a, .v b], [.v d])
  | .vpdep d a b => ([.mask, .v a, .v b], [.v d])
  | .vpext d a b => ([.mask, .v a, .v b], [.v d])
  | .vbperm d a b => ([.mask, .v a, .v b], [.v d])
  | .vpopc d a => ([.mask, .v a], [.v d])
  | .vperm d a b w => ([.mask, .v a] ++ (vs b (if w == 0 then 2 else 1)), [.v d])
  | .vbcast d b _ => ([.mask, .x b], [.v d])
  | .vbcaste d a b _ => ([.mask, .v a, .x b], [.v d])
  | .vslideup d a b _ => ([.mask, .v a, .x b], [.v d])
  | .vslidedn d a b _ => ([.mask, .v a, .x b], [.v d])
  | .vins d a b _ => ([.mask, .x a, .x b], [.v d])
  | .vext d a b _ => ([.v a, .x b], [.x d])
  | .vilv d a b _ => ([.v a, .v b], vs d 2)
  | .vdilv d a b _ => ([.v a, .v b], vs d 2)
  | .vredsum d a _ => ([.mask, .v a], [.x d])
  | .vredmin d a _ => ([.mask, .v a], [.x d])
  | .vredmax d a _ => ([.mask, .v a], [.x d])
  | .vredand d a _ => ([.mask, .v a], [.x d])
  | .vredor d a _ => ([.mask, .v a], [.x d])
  | .vredxor d a _ => ([.mask, .v a], [.x d])
  | .vfredsum d a _ => ([.mask, .v a], [.x d])
  | .vfredmin d a _ => ([.mask, .v a], [.x d])
  | .vfredmax d a _ => ([.mask, .v a], [.x d])
  | .vfredmaxa d a _ => ([.mask, .v a], [.x d])
  | .qsinit a b => ([.x a, .x b], [])
  | .hhinit b => ([.x b], [])
  | .dcinit a b => ([.x a, .x b], [])
  | .qsadd a b _ => ([.mask, .v a, .x b], [])
  | .hhadd a b _ => ([.mask, .v a, .x b], [])
  | .hhaddw w a b => ([.mask, .v w, .v a, .x b], [])
  | .dcadd a b _ => ([.mask, .v a, .x b], [])
  | .qsmrg a b => ([.x a, .x b], [])
  | .hhmrg a b => ([.x a, .x b], [])
  | .dcmrg a b => ([.x a, .x b], [])
  | .qsquant d a b => ([.x a, .x b], [.x d])
  | .hhtop d a b => ([.x a, .x b], [.v d])
  | .dcest d b => ([.x b], [.x d])
  | .vld d a _ _ => ([.mask, .x a], [.v d])
  | .vldB d a _ _ _ => ([.mask, .x a], [.v d])
  | .vst t a _ _ => ([.mask, .v t, .x a], [])
  | .vldg d a _ _ => ([.mask, .x a], [.v d])
  | .vldgB d a _ _ _ => ([.mask, .x a], [.v d])
  | .vstg t a _ => ([.mask, .v t, .x a], [])
  | .vgath d a _ _ v => ([.mask, .x a, .v v], [.v d])
  | .vscat t a _ _ v => ([.mask, .v t, .x a, .v v], [])
  | .vgathg d a _ _ v => ([.mask, .x a, .v v], [.v d])
  | .vscatg t a _ v => ([.mask, .v t, .x a, .v v], [])
  | .mxcall a b _ => ([.x a, .x b] ++ allMp, [])
  | .mxparm a n => ([.x a], [.mp n])
  | .mxrcfg a b _ => ([.x a, .x b], [])
  | .mxrpush a _ => ([.x a], [])
  | .mxrstat d _ => ([], [.x d])
  | .mxrda a _ d => ([.x a], [.v d])
  | .mxwra a _ v => ([.x a, .v v], [])
  | .mxdset _ => ([], allDep)
  | .mxdclr _ => ([], allDep)
  | .mxdrd d => (allDep, [.x d])
  | .mxuld a b => ([.x a, .x b], [])
  | .ldgeom a n => ([.x a], [.g n])
  | .stgeom a n => ([.x a, .g n], [])
  | .cpyin a b n _ => ([.x a, .x b, .g n], [])
  | .cpyout a b n => ([.x a, .x b, .g n], [])
  | .cpyloop a b n => ([.x a, .x b, .g n], [])
  | .wtagAll a => ([.x a], [])
  | .wtagAny a => ([.x a], [])
  | .ffr a d => ([.x a], [.x d, .csr 0x14])
  | .tcnt a d => ([.x a], [.x d])
  | .coll a b _ => ([.x a, .x b], [])
  | .crank d b => ([.x b], [.x d])
  | .crankg d b => ([.x b], [.x d])
  | .cplan d => ([], [.x d])
  | .send a x => ([.x a, .x x], [])
  | .sendv a v => ([.x a, .v v], [])
  | .recv _ b d => ([.x b], [.x d])
  | .recvv _ b d => ([.x b], [.v d])
  | .nstv a _ v => ([.x a, .v v], [])
  | .pcfg a b => ([.x a, .x b], [])
  | .probe d b p => ([.x b], [.x d, .p p])
  | .plook d b p => ([.x b], [.x d, .p p])
  | .pinv b => ([.x b], [])
  | .haulset a b c => ([.x a, .x b, .x c], [])
  | .blaze a => ([.x a], [])
  | .migrate a b _ => ([.x a, .x b], [])
  | .haulstat d => ([], [.x d])
  | .tagset a b => ([.x a, .x b], [])
  | .tagsetz a b => ([.x a, .x b], [])
  | .tagget a d => ([.x a], [.x d])
  | .dtrace a => ([.x a], [])
  | .lpcrd a d => ([.x a], [.x d])
  | .dinjA a b => ([.x a, .x b], [])
  | .dinjM a b _ => ([.x a, .x b], [])
  | .dinjgM a b _ => ([.x a, .x b], [])
  | _ => ([], [])

/-- X0 and P0 are exempt (01 R19; 03 R97). -/
def Reg.counts (r : Reg) : Bool := r != .x 0 && r != .p 0
def reads (i : Instr) : List Reg := (uses i).1.filter Reg.counts
def writes (i : Instr) : List Reg := (uses i).2.filter Reg.counts

/-! ### The vector elements that a form takes values from (01 R26, R27; 05 R143 to R145) -/

/-- Indexes of the active elements of a governing width. -/
def State.actIdx (s : State) (w : Nat) : List Nat :=
  ((actives w s.top).zipIdx.filter (·.1)).map (·.2)

/-- A register, an element width and the elements taken. -/
abbrev Taken := BitVec 6 × Nat × List Nat

def State.lane (s : State) (r : BitVec 6) (w : Nat) : List Taken := [(r, w, s.actIdx w)]
def State.laneB (s : State) (b : BitVec 6) (k : BitVec 1) (w : Nat) : List Taken := if k = 1 then [] else s.lane b w
/-- Element `i` of a group stands in register i mod r, at place i div r, with r times the governing width. -/
def State.laneGroup (s : State) (g : BitVec 6) (r w : Nat) : List Taken :=
  (List.range r).map fun k => (g + BitVec.ofNat 6 k, r * w, ((s.actIdx w).filter (· % r == k)).map (· / r))
def wholeReg (r : BitVec 6) : List Taken := [(r, 256, List.range 16)]
/-- Elements of va that a permute names, those that it has. -/
def takenAt (a : BitVec 6) (w : Nat) (is : List Nat) : List Taken := [(a, w, is.filter (· < 4096 / w))]

/-- The elements of vector registers that an instruction takes a value from; every granule of one that an unmasked form
reads. -/
def State.takes (s : State) (i : Instr) : List Taken :=
  match i with
  | .vadd _ a b t k | .vsub _ a b t k | .vadds _ a b t k | .vsubs _ a b t k | .vmin _ a b t k | .vmax _ a b t k
  | .vmul _ a b t k | .vmulh _ a b t k | .vand _ a b t k | .vor _ a b t k | .vxor _ a b t k | .vandn _ a b t k
  | .vsll _ a b t k | .vsrl _ a b t k | .vsra _ a b t k | .vcmp _ a b t k =>
    s.lane a (intWidth t) ++ s.laneB b k (intWidth t)
  | .vmac d a b t k => s.lane d (intWidth t) ++ s.lane a (intWidth t) ++ s.laneB b k (intWidth t)
  | .vmacw d a b t k => s.laneGroup d 4 (intWidth t) ++ s.lane a (intWidth t) ++ s.laneB b k (intWidth t)
  | .vfadd _ a b t k | .vfsub _ a b t k | .vfmul _ a b t k | .vfmin _ a b t k | .vfmax _ a b t k | .vfdiv _ a b t k
  | .vfcmp _ a b t k => s.lane a (fpWidth t) ++ s.laneB b k (fpWidth t)
  | .vfsqrt _ a t | .vfrsqrt _ a t | .vfexp2 _ a t | .vflog2 _ a t | .vfneg _ a t | .vfabs _ a t => s.lane a (fpWidth t)
  | .vfma d a b t k | .vfnma d a b t k | .vfmsub d a b t k =>
    s.lane d (fpWidth t) ++ s.lane a (fpWidth t) ++ s.laneB b k (fpWidth t)
  | .vfmaw d a b t k => s.laneGroup d 2 (fpWidth t) ++ s.lane a (fpWidth t) ++ s.laneB b k (fpWidth t)
  | .vcvt _ a _ _ _ c e l =>
    if l == 0 && c == 6 then [(a, 256, List.range 5)]
    else if l == 0 && e == 6 then wholeReg a
    else
      let w := cvtWidths l c e
      if w.1 < w.2 then s.lane a w.1 else s.laneGroup a (w.1 / w.2) w.2
  | .vgf2mm _ a b | .vpdep _ a b | .vpext _ a b => s.lane a 64 ++ s.lane b 64
  | .vbperm _ a b => s.lane a 64 ++ (if (s.actIdx 64).isEmpty then [] else [(b, 256, [0, 1])])
  | .vpopc _ a => s.lane a 64
  | .vperm _ a b w =>
    (if w = 0 then s.laneGroup b 2 8 else s.lane b (permWidth w)) ++ takenAt a (permWidth w) ((s.actIdx (permWidth w)).map fun i =>
      if w = 0 then s.velGroup b 2 16 i else el (s.rv b).toNat (permWidth w) i)
  | .vbcaste _ a b w => takenAt a (permWidth w) (if (s.actIdx (permWidth w)).isEmpty then [] else [(s.rx b).toNat])
  | .vslideup _ a b w => takenAt a (permWidth w)
      (((s.actIdx (permWidth w)).filter fun i => decide ((s.rx b).toNat ≤ i)).map (· - (s.rx b).toNat))
  | .vslidedn _ a b w => takenAt a (permWidth w) ((s.actIdx (permWidth w)).map (· + (s.rx b).toNat))
  | .vext _ a b w => takenAt a (permWidth w) [(s.rx b).toNat]
  | .vredsum _ a t | .vredmin _ a t | .vredmax _ a t | .vredand _ a t | .vredor _ a t | .vredxor _ a t => s.lane a (intWidth t)
  | .vfredsum _ a t | .vfredmin _ a t | .vfredmax _ a t | .vfredmaxa _ a t | .qsadd a _ t => s.lane a (fpWidth t)
  | .hhadd a _ t | .dcadd a _ t => s.lane a (intWidth t)
  | .hhaddw w a _ => s.lane a 32 ++ s.lane w 32
  | .vst t _ _ _ | .vstg t _ _ => s.lane t 8
  | .vgath _ _ _ z v | .vgathg _ _ _ z v => s.lane v (8 * gsSize z)
  | .vscat t _ _ z v => s.lane t (8 * gsSize z) ++ s.lane v (8 * gsSize z)
  | .vscatg t _ z v => s.lane t (8 * gsSize z) ++ s.lane v (8 * gsSize z)
  | i => (reads i).flatMap fun r => match r with | .v n => wholeReg n | _ => []

end Sys2Proof.Machine
end

