-- ==== Sys2Proof/Machine/Sched.lean ====
section
/-! DEFINITION. One clock of the package: the parts of an lc of every core (01 R13 to R24, R38 to R47; 08 R214 to R221;
13 R340 to R343), one attempt of every command queue (09 R237 to R239), and what falls due at the end of the clock.

A part of an lc is done for a whole lockstep quad at once, or not at all: a freeze of one member freezes all. -/
namespace Sys2Proof.Machine

/-- The next state of an instruction that always has one. -/
def runOn (i : Instr) (s : State) : State :=
  match exec i s with
  | .next t => t
  | _ => s

def nextOf (r : Res) (s : State) : State :=
  match r with
  | .next t => t
  | _ => s

/-! ### Bundles -/

/-- Slot mask of a major (03 Table 2): bit n stands for slot n. -/
def slotMask (major : BitVec 5) : BitVec 8 :=
  match major.toNat with
  | 0 | 5 | 6 | 29 => 0x08
  | 1 | 2 | 4 => if major = 4 then 0x02 else 0x03
  | 3 => 0x02
  | 7 => 0x01
  | 8 | 9 | 10 | 11 | 28 => 0x04
  | 12 | 13 | 14 | 15 | 18 => 0x30
  | 16 | 17 | 19 => 0x20
  | 20 | 21 | 22 => 0x40
  | 23 | 24 | 25 | 26 | 27 => 0x80
  | _ => 0

/-- A syllable with the slot it takes; a NOP and a syllable of major 30 or 31 take none. -/
structure Placed where
  slot : Option Nat
  major : BitVec 5
  op : Option Instr
  deriving DecidableEq, Repr

/-- The words of the bundle at `a`, at most `n` (01 R15, R43; 03 R98), and the fault of a run without an end. -/
def Core.bundle (k : Core) : Nat → Word → List (BitVec 32) × Option Trap
  | 0, _ => ([], some { code := 0x02 })
  | n + 1, a => match k.word a with
    | none => ([], some { code := 0x0A, sub := 1 })
    | some w => if w.getLsbD 31 then ([w], none) else (w :: (k.bundle n (a + 4)).1, (k.bundle n (a + 4)).2)

/-- The syllables of the bundle at `a`: a run past the image faults at its first syllable (03 R98). -/
noncomputable def Core.fetch (k : Core) (a : Word) : List Syllable × Option Trap :=
  let r := k.bundle 8 a
  (r.1.map decodeSyllable, r.2.map fun t => { t with va := if t.code = 0x0A then a else 0 })

def isNop : Option Instr → Bool
  | some .nop => true
  | _ => false

/-- The slots in syllable order (01 R18): none when a syllable finds no free slot. -/
def place (free : BitVec 8) : List Syllable → Option (List Placed)
  | [] => some []
  | y :: ys =>
    if isNop y.op || decide (30 ≤ y.major.toNat) then
      (place free ys).map ({ slot := none, major := y.major, op := y.op } :: ·)
    else
      match (List.range 8).find? fun n => (free &&& slotMask y.major).getLsbD n with
      | none => none
      | some n => (place (free &&& ~~~(1#8 <<< n)) ys).map ({ slot := some n, major := y.major, op := y.op } :: ·)

def slotsTaken (ps : List Placed) : BitVec 8 :=
  ps.foldl (fun m p => match p.slot with | some n => m ||| (1#8 <<< n) | none => m) 0

/-- The instruction of a syllable that raises no fault 0x01 under 03 R93. -/
def Placed.good (p : Placed) : Option Instr :=
  match p.op with
  | some i => if legal i then some i else none
  | none => none

/-- 01 R19: a register that one syllable writes is read or written by another. -/
def regClash : List Instr → Bool
  | [] => false
  | i :: rest => rest.any (fun j =>
      (writes i).any (fun r => (reads j).contains r || (writes j).contains r) || (reads i).any (writes j).contains) ||
      regClash rest

/-- The order in which faults of a bundle rank (01 R47; 03 R93): syllables without a slot, then slots upward. -/
def issueOrder (ps : List Placed) : List Placed :=
  (ps.filter fun p => p.slot.isNone && !isNop p.op) ++
  (List.range 8).filterMap fun n => ps.find? fun p => p.slot == some n

/-! ### What an attempt leaves -/

/-- A bundle that does not issue leaves what its attempt itself changed: translations begun, an announced blaze with what
its actions' accesses log (08 R210), a range taken for a seal, the tag that an FFR waits for, a deferred fault reported. -/
def keep (s t : State) : State :=
  let str := { s.str with
    xlate := t.str.xlate, sealing := t.str.sealing, gq := t.str.gq, held := t.str.held, ffr := t.str.ffr }
  let core := { s.core with
    tags := t.core.tags, plan := t.core.plan, hpb := t.core.hpb, clog := t.core.clog, clogOvf := t.core.clogOvf }
  let notStop (m : PMsg) : Bool := match m with | .stop _ _ _ _ _ => false | _ => true
  let pkg := { s.pkg with
    delays := t.pkg.delays, tlb := t.pkg.tlb, ports := t.pkg.ports
    tracking := t.pkg.tracking, trackFull := t.pkg.trackFull, trackTold := t.pkg.trackTold
    puppet := s.pkg.puppet ++ (t.pkg.puppet.drop s.pkg.puppet.length).takeWhile notStop
    fns := Vector.zipWith (fun (f g : FnState) => { f with seals := g.seals }) s.pkg.fns t.pkg.fns }
  { s with str := str, core := core, pkg := pkg, others := t.others }

/-- How the attempt of one syllable or bundle ends. -/
inductive Issue where
  | ok (s : State)
  | hold (s : State)
  | trap (s : State) (t : Trap)

/-- What a run of an instruction on `s` came to. -/
def outcome (t : State) : Issue :=
  if t.str.mode = .stopped then
    match t.str.stopRec with
    | some r => .trap t r.trap
    | none => .hold t
  else if t.str.held then .hold t else .ok t

/-- The hidden slots: those that the GUARD of the bundle squashes (04 R136). -/
def guardMask (s : State) (ps : List Placed) : BitVec 8 :=
  ps.foldl (fun m p => match p.good, p.slot with
    | some (.guard q k), some n => m ||| ((runOn (.guard q k) s).str.squash &&& ~~~(1#8 <<< n))
    | _, _ => m) 0

def Placed.squashed (p : Placed) (mask : BitVec 8) : Bool := match p.slot with | some n => mask.getLsbD n | none => false

/-- Fault 0x11 of an instruction that takes an element from a poisoned granule of a register-file bank (18 R430; 01 R27).
(DESIGN CHOICE, unsafe: notes/assumptions/75.md.) -/
def State.regFault (s : State) (i : Instr) : Option Trap :=
  if s.core.poison.isEmpty then none
  else
    let bank := vBank s.str.sec
    let places := (s.takes i).flatMap fun t => t.2.2.map fun n =>
      bank * Config.bankBytes + 512 * t.1.toNat + 32 * (n * t.2.1 / 256)
    (places.find? s.core.poison.contains).map fun p =>
      { code := 0x11, sub := 2, va := BitVec.ofNat 64 p, aux0 := BitVec.ofNat 64 bank }

/-- Every syllable tried alone on `s` (01 R17), in order of rank: the first that holds or faults decides (01 R47). A
squashed or skipped syllable raises fault 0x01 alone (04 R136, R137). (DEDUCED, unsafe: notes/assumptions/52.md.) -/
def tryAll (s : State) (mask : BitVec 8) (skip : Bool) : List Placed → Issue
  | [] => .ok s
  | p :: ps => match p.good with
    | none => .trap s { code := 0x01 }
    | some i =>
      let hidden := skip || p.squashed mask
      match outcome (runOn i s) with
      | .hold t => if hidden then tryAll s mask skip ps else .hold t
      | .ok _ => match s.regFault i with
        | some r => if hidden then tryAll s mask skip ps else .trap s r
        | none => tryAll s mask skip ps
      | .trap t r =>
        let r := (lowTrap (some r) (s.regFault i)).getD r
        if hidden && r.code != 0x01 then tryAll s mask skip ps else .trap t r

/-- The events of a syllable pass the gate of a replay (18 R440). -/
def State.replayGate (s : State) (t : State) : Issue :=
  match (t.core.events.drop s.core.events.length).foldlM (fun t ev => t.gateEvent ev.code t.str.pc) t with
  | .ok t => .ok t
  | .error (.hold t) => .hold t
  | .error (.trap t r) => .trap t r

/-- Flags of the copies that the bundle's syllables observe: they are set at its issue lc, before a syllable of the bundle
reads FLAGS (04 R141; 14 R378). -/
def observed (s : State) (mask : BitVec 8) (ps : List Placed) : Flg :=
  ps.foldl (fun f p => match p.good with
    | some i => if p.squashed mask then f else f ||| (runOn i s).str.flags
    | none => f) 0

/-- `f` with the granule keys as they stood before the bundle, `old`; a change that it makes to them stays (01 R17, 10
R285): no syllable sees the keys that another one sets. -/
def State.withKeys (s : State) (old : List (Nat × BitVec 4)) (f : State → State) : State :=
  let now := s.pkg.keys
  (f (s.onPkg fun pk => { pk with keys := old })).onPkg fun pk => { pk with keys := if pk.keys = old then now else pk.keys }

/-- The syllables take effect (01 R17): each reads `s` through results that land later, and the keys `old`. -/
def issueAll (s : State) (mask : BitVec 8) (xlate : Option Nat) (old : List (Nat × BitVec 4)) : List Placed → Issue
  | [] => .ok s
  | p :: ps => match p.good with
    | none => issueAll s mask xlate old ps
    | some i =>
      if p.squashed mask then issueAll s mask xlate old ps
      else
        let s := s.onStr fun t => { t with xlate := xlate }
        match outcome (s.withKeys old (runOn i)) with
        | .ok t => match s.replayGate t with
          | .ok t => issueAll t mask xlate old ps
          | r => r
        | r => r

/-- Results that a stream has pending (01 R46): scalar ones, the answer of an SVC among them, and wide ones. -/
def Stream.pendingScalar (t : Stream) : Nat :=
  (t.pend.countP fun p => p.left != 0 && match p.target with
    | .x r _ => r != 0 | .p r _ => r != 0 | .csr _ _ => true | _ => false) +
  match t.svc with | some (_, d) => if d = 0 then 0 else 1 | none => 0
/-- DEDUCED, unsafe: notes/assumptions/51.md. -/
def Stream.pendingWide (t : Stream) : Nat := t.pend.countP fun p => p.left != 0 && match p.target with
  | .v _ _ _ => true | .mask (.push _) => true | .mask .dup => true | _ => false

/-- 01 R46; a neighbour write into the own scratchpad is a local store (08 R235). -/
def State.overBounds (s : State) : Bool :=
  decide (40 < s.core.chain.length) || !s.str.sec && decide (64 < s.str.pendingScalar ∨
    48 < s.str.pendingWide + s.core.stores.countP fun e => !e.sec && decide (e.seq < beatSeq ∨ e.seq = neighbourSeq s.core.id))

/-- Every loop entry counts the lc, and the slots that hold a syllable of the stream (20 R452). -/
def Stream.countLoops (t : Stream) (slots : BitVec 8) : Stream :=
  { t with loops := t.loops.map fun l => { l with
      lc := l.lc + 1, used := l.used.zipIdx.map fun u => if slots.getLsbD u.2 then u.1 + 1 else u.1 } }

/-- The bundle breakpoints of 20 R454, R455: the lowest sub-code, then the lowest unit. -/
def State.breakpoint (s : State) : Option Trap :=
  if !s.dbgen || s.str.fresh then none
  else (List.range 4).foldl (fun r u =>
    let c := (vget s.core.bpctl u 0).toNat
    let v := vget s.core.bpval u 0
    let hit := bits c 3 3 = (if s.str.sec then 1 else 0) ∧
      ((bits c 1 0 = 1 ∧ v = s.str.pc) ∨ (bits c 1 0 = 2 ∧ bits v.toNat 47 0 = s.str.lcc.toNat))
    if hit then lowTrap r (some { code := 0x17, sub := BitVec.ofNat 16 (bits c 1 0), va := v, aux0 := BitVec.ofNat 64 u })
    else r) none

/-- The stream goes on after its bundle: to the target of a taken branch with its two empty lc (01 R23), or under loop
control (04 R131). -/
def State.goOn (s : State) (skipping : Bool) : State :=
  let s := s.onStr fun t => { t with fresh := false, held := false, xlate := none, skip := if skipping then t.skip - 1 else t.skip }
  if s.str.mode ≠ .running then s
  else match s.str.next with
    | some a => s.onStr fun t => { t with pc := a, gap := 2, next := none }
    | none => s.loopControl

/-- The bundle at the PC, decoded and placed in the free slots. -/
inductive Fetched where
  | ready (ps : List Placed)
  | wait
  | trap (t : Trap)

/-- 01 R15, R18, R19, R43, R47; 08 R214: a secondary bundle that would fit with all slots free waits. -/
noncomputable def State.fetchBundle (s : State) (free : BitVec 8) : Fetched × Nat :=
  let r := s.core.fetch s.str.pc
  (match place 0xFF r.1 with
    | none => .trap { code := 0x02 }
    | some all =>
      if regClash (all.filterMap Placed.good) then .trap { code := 0x02 }
      else match r.2 with
        | some t => .trap t
        | none => match place free r.1 with
          | none => .wait
          | some ps => .ready ps, r.1.length)

/-- A bundle without faults or holds: its syllables take effect (01 R17) and the stream goes on. `s` is the state before
the attempt, `s1` the state that the bundle reads. The bounds of 01 R46 are tested after every syllable has passed: 01 R47
does not rank their fault (DESIGN CHOICE, unsafe: notes/assumptions/85.md). -/
def State.issueBundle (s s1 : State) (ps : List Placed) (len : Nat) : Issue :=
  let skipping := s.str.skip != 0
  let order := issueOrder ps
  let s1 := (s1.onStr fun t => { t with len := len, next := none, squash := 0 }).onCore fun k => { k with events := [] }
  let mask := if skipping then 0 else guardMask s1 ps
  match tryAll s1 mask skipping order with
  | .hold t => .hold (keep s t)
  | .trap t r => .trap (keep s t) r
  | .ok _ =>
    let s2 := s1.onStr fun t => { (t.countLoops (slotsTaken ps)) with
      flags := if skipping then t.flags else t.flags ||| observed s1 mask order }
    match if skipping then .ok s2
      else issueAll (s2.onStr fun t => { t with squash := mask }) mask s.str.xlate s2.pkg.keys order with
    | .hold t => .hold ((s.onStr fun r => { r with xlate := t.str.xlate, held := true }).onPkg fun pk => { pk with delays := t.pkg.delays })
    | .trap _ r => .trap s r
    | .ok t =>
      if !skipping && t.overBounds then .trap s { code := 0x07, sub := 9 }
      else .ok (t.recordEvents.goOn skipping)

/-! ### The parts of an lc -/

/-- The end of a part: done; frozen, with what the attempt itself left; or a stream has stopped and the part begins
again. -/
inductive PartEnd where
  | done (s : State)
  | frozen (s : State)
  | stopped (s : State)

/-- Members of the lockstep quad of the core in focus, with it (08 R220). -/
def State.quad (s : State) : List CoreCtx :=
  if s.core.lock then
    s.ctxs.filter fun c => c.core.lock && c.core.slot == s.core.slot && c.core.id / 4 == s.core.id / 4 && c.a.mode != .idle
  else [s.ctx]

/-- The primary stream issues no more: it has stopped, or a member of its quad has (DEDUCED, unsafe: notes/assumptions/37.md). -/
def State.primaryOff (s : State) : Bool := s.quad.any fun c => c.a.mode == .stopped

/-- The slot of the core in focus takes a STOP (09 R257), or its task is stopped by the Puppeteer (21 R473). -/
def State.stopping (s : State) : Bool := (s.pkg.slot s.core.slot).st == .stopping
def State.stopCause (s : State) : Option Trap :=
  match s.core.halt with
  | some t => some t
  | none => if s.stopping then some { code := 0x18, sub := if s.core.pmode then 1 else 0 } else none

/-- 04 R137: the test of an MSKIP, once the results of the next lc have landed. (DEDUCED, unsafe: notes/assumptions/19.md.) -/
def State.skipTest (s : State) : State :=
  match s.str.skipTest with
  | some n => s.onStr fun t => { t with skipTest := none, skip := if s.top = 0 then n else t.skip }
  | none => s

/-- The package is frozen by a critical stack or a pause of the pod (10 R264, 21 R472). -/
def Package.frozen (pk : Package) : Bool := !pk.hot.isEmpty || pk.paused

/-- Results land at the start of the lc (01 R21, R22). The core is frozen while a stall of bank conflicts runs (01 R40),
while a primary result has not arrived (10 R282), and while the primary waits for an answer (04 R140). -/
def partLand (s : State) : PartEnd :=
  let waits := s.str.svc.isSome && s.stopCause.isNone && s.str.mode == .running
  let live := s.str.mode != .stopped && !s.primaryOff
  if s.pkg.frozen then .frozen s
  else if s.core.stall ≠ 0 then .frozen s
  else if live && s.str.late s.pkg.clock || waits then .frozen s
  else
    let one (t : State) : State := (nextOf (execResultLanding t) t).skipTest
    let s := if live then one s else s
    .done (one s.swap).swap

/-- A store effect due, not of the secondary stream or of it, finds a row that a copy has made busy since it was issued,
or a fill (10 R288; 14 R376). (DEDUCED, unsafe: notes/assumptions/54.md.) -/
def Core.effectWaits (k : Core) (sec : Bool) : Bool :=
  (k.stores.any fun e => e.sec == sec && e.left == 0 && k.effBlocked e) ||
    k.chain.any fun p => p.sec == sec && p.left == 0 && k.effBlocked p.eff

/-- Micro-ops run while no timed one is in progress (13 R345, R346); an unreadable word is fault 0x0E, sub-code 0x50. -/
noncomputable def microLoop : Nat → State → State
  | 0, s => s
  | n + 1, s =>
    match s.core.seq with
    | none => s
    | some q =>
      if q.wait ≠ 0 || q.ending || s.core.engTrap.isSome then s
      else
        match if 4095 < q.upc then none else decodeMicro (BitVec.ofNat 64 (s.core.uword q.upc)) with
        | none =>
          let t : Trap := { code := 0x0E, sub := 0x50, cmd := some q.cmd.baddr, aux0 := BitVec.ofNat 64 q.upc }
          s.onCore fun k => { k with engTrap := some t }
        | some i =>
          let t := runOn i s
          if t.str.held then t else microLoop n t

/-- The most control micro-ops of one lc: two nested loops of 65,535 and a store of 4,096 words (13 R345). -/
def microFuel : Nat := 2 ^ 45

noncomputable def State.micro (s : State) : State := if s.core.seq.isSome then microLoop microFuel s else s

/-- The engines at the start of an lc, after its store effects: beats of local copies, the start of a command, and
micro-ops (13 R340; 14 R368; 01 R39). A command whose start check has failed stays at the head of the queue, and is
checked again after a RESUME (18 R423). -/
noncomputable def State.engines (s : State) : State :=
  let s := if s.core.beats.isEmpty then s else nextOf (execLocalCopyBeat s) s
  if s.str.held then s
  else
    let s := match s.core.cmdq with
      | c :: _ => if c.start ≤ s.str.lcc.toNat ∧ s.core.engTrap.isNone then nextOf (execRoutineStart s) s else s
      | [] => s
    s.micro

/-- The trap taken, and no longer pending in the engine. -/
def State.stopWith (s : State) (t : Trap) : State := (s.takeTrap t).onCore fun k => { k with engTrap := none }

/-- The store effects due, without or with those of the primary (01 R38). -/
def State.landed (s : State) (own : Bool) : State := s.onCore fun k => k.landEffects own s.stopping

/-- The attempt of the primary bundle of the lc (01 R17 to R47), after the store effects due in it (01 R38) and the
engines' work. In an empty lc of a taken branch no bundle issues (01 R23). -/
noncomputable def primaryIssue (s : State) : PartEnd :=
  if s.core.effectWaits false then .frozen s
  else
    let s1 := (s.landed true).engines
    if s1.str.held then .frozen (s.onStr fun t => { t with held := true })
    else if s.str.mode = .running ∧ s.str.gap ≠ 0 then
      .done (s1.onStr fun t => { (t.countLoops 0) with gap := t.gap - 1 })
    else match s1.core.engTrap with
    | some t => .stopped (s.stopWith t)
    | none =>
      if s.str.mode = .ended then
        match s.str.landFault s.pkg.clock with
        | some t => .stopped (s.takeTrap t)
        | none => .done s1
      else match s.breakpoint with
      | some t => .stopped (s.takeTrap t)
      | none => match s.fetchBundle 0xFF with
        | (.trap t, _) => .stopped (s.takeTrap t)
        | (.wait, _) => .frozen s
        | (.ready ps, len) => match s.str.landFault s.pkg.clock with
          | some t => .stopped (s.takeTrap t)
          | none => match s.issueBundle s1 ps len with
            | .ok t => .done (t.onCore fun k => { k with slots := slotsTaken ps })
            | .hold t => .frozen (t.onStr fun r => { r with held := true })
            | .trap t r => .stopped (t.takeTrap r)

/-- The primary's share of an lc. A stop waits for the lc of a bundle (01 R44), and a fault of that bundle goes before
it (09 R260, 18 R422). (DEDUCED, unsafe: notes/assumptions/53.md.) -/
noncomputable def partIssue (s : State) : PartEnd :=
  let s := s.onStr fun t => { t with held := false }
  let off := s.primaryOff
  if s.pkg.frozen then .frozen s
  else match if s.str.mode = .running ∧ (s.str.gap = 0 ∨ off = true) then s.stopCause else none with
  | some t =>
    if off || s.str.svc.isSome then .stopped (s.stopWith t)
    else match primaryIssue s with
      | .stopped u => .stopped u
      | _ => .stopped (s.stopWith t)
  | none =>
    if s.str.mode = .stopped ∨ off = true then .done (s.landed false)
    else if s.str.mode = .done ∨ s.str.mode = .idle then .done (s.landed true)
    else primaryIssue s

/-- A routine that the bundle itself started begins in the same lc; a fault stops the next bundle (13 R340, R343). -/
noncomputable def partAfter (s : State) : PartEnd :=
  if s.str.mode = .stopped ∨ s.primaryOff = true then .done s
  else
    let s := s.onStr fun t => { t with held := false }
    let t := s.micro
    if t.str.held then .frozen (s.onStr fun t => { t with held := true }) else .done t

/-- Registers that a pending result will change (08 R215). -/
def Pending.regs (p : Pending) : List Reg :=
  (match p.target with
    | .x r _ => [.x r] | .p r _ => [.p r] | .csr c _ => [.csr c] | .v r _ _ => [.v r] | .mask _ => [.mask, .csr 0x07]
    | .mp n _ => [.mp n] | .g n _ => [.g n] | .idleTag _ => [.csr 0x14] | .binds _ _ => [] | .none => []) ++
  (if p.flags = 0 then [] else [.csr 0x09])

/-- The predicates that a bundle of `len` syllables shifts when it may end an iteration of a rotating loop (04 R133). -/
def Stream.rotates (t : Stream) (len : Nat) : List Reg :=
  match t.loops with
  | l :: _ => if l.rot ∧ t.pc ≤ l.last ∧ l.last < t.pc + BitVec.ofNat 64 (4 * len) then stageP else []
  | [] => []

/-- 08 R215: an earlier secondary bundle has a pending write to a register that this one reads or writes. -/
def State.interlocked (s : State) (ps : List Placed) (len : Nat) : Bool :=
  let regs := ((ps.filterMap Placed.good).flatMap fun i => reads i ++ writes i) ++ s.str.rotates len
  s.str.pend.any fun p => p.regs.any regs.contains

/-- Banks that the secondary stream's own pending store effects write: those of bundles from issue count `n` on. -/
def Core.secBanks (k : Core) (n : Nat := 0) : List Nat :=
  (k.stores.filter fun e => e.sec && decide (16 * n ≤ e.seq)).flatMap
    (fun e => (e.cells.map fun c => c.1 / Config.bankBytes).eraseDups) ++
  (k.chain.filter fun p => p.sec && p.write && decide (16 * n ≤ p.seq)).flatMap fun p => banksOf p.addr p.bytes.length

/-- An engine or a global command of a secondary bundle waits for the stream's own store effects (08 R215). -/
def engineMajor (m : BitVec 5) : Bool := decide (23 ≤ m.toNat ∧ m.toNat ≤ 28 ∧ m.toNat ≠ 26)

/-- The attempt of the secondary bundle (08 R214 to R216), its stream in focus. It waits without freezing the core. (DEDUCED, unsafe: notes/assumptions/23.md.) -/
noncomputable def State.secondAttempt (s : State) : State :=
  let wait (s : State) : State := s.onStr fun t => { (t.countLoops 0) with held := true }
  if s.str.svc.isSome then wait s
  else match s.breakpoint with
  | some t => s.takeTrap t
  | none => match s.fetchBundle (~~~s.core.slots) with
    | (.trap t, _) => s.takeTrap t
    | (.wait, _) => wait s
    | (.ready ps, len) =>
      if s.interlocked ps len || s.core.effectWaits true then wait s
      else match s.str.landFault s.pkg.clock with
      | some t => s.takeTrap t
      | none =>
        let used := s.core.touched
        let own := s.core.secBanks
        if !own.isEmpty && ps.any (fun p => engineMajor p.major) then wait s
        else match s.issueBundle (s.onCore fun k => { k with touched := [] }) ps len with
        | .hold t => wait t
        | .trap t r => t.takeTrap r
        | .ok t =>
          let banks := t.core.touched.flatMap (·.2) ++ t.core.secBanks t.core.issue
          if banks.any own.contains || used.any (·.2.any banks.contains) then wait s
          else t.onCore fun k => { k with touched := used ++ k.touched }

/-- The secondary's share of an lc; a stop as for the primary. -/
noncomputable def State.secondIssue (s : State) : State :=
  let s := s.onStr fun t => { t with held := false }
  if s.str.mode ≠ .running then s
  else if s.str.gap ≠ 0 then s.onStr fun t => { (t.countLoops 0) with gap := t.gap - 1 }
  else match s.stopCause with
  | none => s.secondAttempt
  | some t =>
    if s.secondAttempt.str.mode = .stopped then s.secondAttempt else s.takeTrap t

noncomputable def partSecond (s : State) : PartEnd := .done s.swap.secondIssue.swap

/-- The most accesses of one bank in the lc, less one, among those of the primary and the engines, or of one secondary
bundle (01 R40; 08 R216). -/
def Core.conflicts (k : Core) : Nat :=
  let most (key : Nat) : Nat :=
    let banks := (k.touched.filter (·.1 == key)).flatMap (·.2)
    (banks.eraseDups.map fun b => banks.count b).foldl max 1 - 1
  ((k.touched.map (·.1)).eraseDups.map most).foldl max 0

/-- Flags of a routine that completes at the end of lc t: set then, so that what reads FLAGS from t + 1 on sees them. Before
a write of FLAGS due at t + 1 they wait for it, as a setting due at that lc (13 R341; 01 R76). -/
def Stream.routineFlags (t : Stream) (fl : Flg) : Stream :=
  let written := t.pend.any fun p => p.left == 1 && match p.target with | .csr c _ => c == 0x09 | _ => false
  if written then { t with pend := t.pend ++ [{ target := .none, left := 1, flags := fl, baddr := t.pc }] }
  else { t with flags := t.flags ||| fl }

/-- The updates of the matrix engine at the end of the lc, in the order of 13 R330, R341 and R356. -/
def State.closeEngine (s : State) : State :=
  let acc0 := s.core.acc
  let popped := (s.core.mxApply acc0 0 3).mxApply acc0 3 4
  let c := popped.claims s.pkg.clock s.pkg.delays
  let k := c.1.mxApply acc0 4 7
  let fl := k.mxDone
  let s := { s with core := k.mxApply acc0 7 8, pkg := { s.pkg with delays := c.2 } }
  let s := s.onCore fun k => { k with
    mxpend := (k.mxpend.filter (·.left != 0)).map fun p => { p with left := p.left - 1 }
    seq := k.seq.map fun q => { q with wait := q.wait - 1 } }
  s.onStr (·.routineFlags fl)

def Watch.next (w : Watch) : Watch :=
  let down (l : List (Nat × Nat)) := (l.filter (·.2 != 0)).map fun b => (b.1, b.2 - 1)
  { w with src := down w.src, dst := down w.dst }

/-- Every distance of the core comes one lc nearer. `on`: the primary's too; `near`: those of neighbour writes. -/
def Core.tick (k : Core) (on near : Bool) : Core :=
  let mine (e : StoreEff) : Bool := e.sec || on || near && decide (neighbourSeq 0 ≤ e.seq)
  let k := { k with
    stores := k.stores.map fun e => if mine e then { e with left := e.left - 1 } else e
    chain := k.chain.map fun p => if p.sec || on then { p with left := p.left - 1 } else p
    stall := k.conflicts, touched := [], slots := 0, events := [], issue := k.issue + 1 }
  if !on then k
  else { k with
    beats := k.beats.map fun b => { b with left := b.left - 1 }, localEnd := k.localEnd - 1
    watch := (k.watch.map Watch.next).filter fun w => !w.src.isEmpty || !w.dst.isEmpty
    vcc := if k.lock then k.vcc + 1 else k.vcc }

def Stream.tick (t : Stream) : Stream := { t with pend := t.pend.map fun p => { p with left := p.left - 1 } }

/-- The end of the lc. LCC moves on (01 R11, R13); that of the secondary counts from its first bundle. -/
def partClose (s : State) : PartEnd :=
  let on := s.str.mode != .stopped && !s.primaryOff
  let near := s.stopping
  let s := if on then s.closeEngine else s
  let s := s.onCore (·.tick on near)
  let s := if on then s.onStr fun t => { t.tick with lcc := t.lcc + 1 } else s
  let b := s.alt.tick
  .done { s with alt := if b.len ≠ 0 ∧ b.mode = .running then { b with lcc := b.lcc + 1 } else b }

/-! ### A step of the cores -/

noncomputable def runPart (s : State) : PartEnd :=
  match s.core.lcPart with
  | .land => partLand s
  | .issue => partIssue s
  | .after => partAfter s
  | .second => partSecond s
  | .close => partClose s

/-- What follows a part that is done. -/
def Core.nextPart (k : Core) : Core :=
  match k.lcPart with
  | .land => { k with lcPart := .issue }
  | .issue => { k with lcPart := .after }
  | .after => { k with lcPart := .second }
  | .second => { k with lcPart := .close }
  | .close => { k with lcPart := .land, run := .ended }

/-- A part done for the members of a group in turn; the first that is not done, by its core. (DEDUCED, unsafe: notes/assumptions/70.md.) -/
noncomputable def runGroup (s : State) : List Nat → State × Option Nat
  | [] => (s, none)
  | id :: ids => match runPart (s.focus id) with
    | .done t => runGroup t ids
    | _ => (s, some id)

/-- A frozen group: no member goes on in this clock; their stalls of bank conflicts run together (01 R40; 08 R220). -/
def State.freeze (s : State) (ids : List Nat) : State :=
  let down (k : Core) : Nat := if s.pkg.frozen then k.stall else k.stall - 1
  s.onAll fun c => if ids.contains c.core.id then { c with core := { c.core with run := .frozen, stall := down c.core } } else c

/-- One part of the lc of the core in focus and of its lockstep quad. -/
noncomputable def stepCore (s : State) : State :=
  let ids := sortBy (fun a b => decide (a ≤ b)) (s.quad.map (·.core.id))
  match runGroup s ids with
  | (t, none) => t.onAll fun c => if ids.contains c.core.id then { c with core := c.core.nextPart } else c
  | (_, some id) => match runPart (s.focus id) with
    | .frozen t => t.freeze ids
    | .stopped t => t
    | .done _ => s.freeze ids

/-- The core whose work goes on: the lowest-numbered one that holds a task and is neither frozen nor at its end. -/
def State.nextCore (s : State) : Option Nat :=
  ((s.ctxs.filter fun c => c.a.mode != .idle && c.core.run == .live).map (·.core.id)).foldl
    (fun m id => match m with | none => some id | some n => some (min n id)) none

/-! ### A step of the queues -/

def Queue.ready (u : Queue) : Bool :=
  u.en && !u.halt && (u.entry.isSome || !u.calls.isEmpty || decide (u.head < u.tail))

/-- The queue that goes next (09 R236, R239): the highest priority, and in it round-robin from the one after that last
served. -/
def Package.nextQueue (pk : Package) : Option (BitVec 6) :=
  let order := (List.range 8).flatMap fun p =>
    (List.range 8).map fun i => (7 - p) * 8 + (vget pk.served (7 - p) 0 + 1 + i) % 8
  (order.find? fun q => !pk.asked.contains q && (vget pk.queues q Queue.reset).ready).map (BitVec.ofNat 6)

/-- The queue has been served, unless its entry waits (09 R239). -/
def State.queueServed (s : State) (q : BitVec 6) : State :=
  if (s.pkg.queue q).entry.isSome then s
  else s.onPkg fun pk => { pk with served := vset pk.served (q.toNat / 8) (q.toNat % 8) }

/-- An entry runs: a field that must be 0 or a reserved code is queue fault 1 (09 R240). -/
noncomputable def State.runEntry (s : State) (q : BitVec 6) (w : BitVec 256) : State :=
  match decodeEntry q w with
  | some i => if legal i then runOn i s else s.queueFault q 1
  | none => s.queueFault q 1

/-- One attempt of a queue: its entry in hand, or the next entry of its sub-list or its ring (09 R237, R245). -/
noncomputable def State.queueStep (s : State) (q : BitVec 6) : State :=
  let s := s.onPkg fun pk => { pk with asked := q.toNat :: pk.asked }
  let u := s.pkg.queue q
  let take (u' : Queue) (va : Word) : State :=
    match s.pkg.qread u.fn va 32 with
    | .ok bs =>
      let w : BitVec 256 := BitVec.ofNat 256 (ofBytes bs)
      (s.onQueue q fun _ => { u' with entry := some w, wait := .none }).runEntry q w
    | .error c => (s.onQueue q fun _ => { u' with entry := some 0 }).queueFault q c
  (match u.entry, u.calls with
  | some w, _ => s.runEntry q w
  | none, a :: rest => take { u with calls := (a + 32) :: rest } a
  | none, [] =>
    if u.skip ≠ 0 then
      let n := min u.skip (u.tail.toNat - u.head.toNat)
      s.onQueue q fun u => { u with head := u.head + BitVec.ofNat 64 n, skip := u.skip - n }
    else take { u with head := u.head + 1 } (u.base + BitVec.ofNat 64 (32 * (u.head.toNat % 2 ^ u.log2n)))).queueServed q

/-! ### The end of a clock -/

/-- `f` on every core that holds a task, in the order of their numbers; the focus ends on the last. -/
def State.forCores (s : State) (f : State → State) : State :=
  let ids := sortBy (fun a b => decide (a ≤ b)) ((s.ctxs.filter fun c => c.a.mode != .idle).map (·.core.id))
  ids.foldl (fun s id => f (s.focus id)) s

def State.repeatOn {α : Type} (s : State) (l : List α) (f : α → State → State) : State := l.foldl (fun s x => f x s) s

/-- Due writes and atomics of a stream are performed in order (11 R293). -/
def State.drainGq (s : State) : State :=
  let n := (s.str.gq.takeWhile fun o => decide (o.due ≤ s.pkg.clock)).length
  if n = 0 then s else s.performN n

/-- The first run of a copy lands when its clock has come; a copy without runs or iterations completes at once. -/
def Copy.due (c : Copy) (clock : Nat) : Bool :=
  match c.runs with
  | r :: _ => decide (r.due ≤ clock)
  | [] => c.todo.isEmpty

/-- What falls due in the engines and the memory system of one core. -/
def State.coreDue (s : State) : State :=
  let clock := s.pkg.clock
  let s := s.repeatOn (s.core.copies.filter (·.due clock)) fun c s =>
    match s.core.copies.find? (·.tag == c.tag) with | some c => s.landRun c | none => s
  let s := s.repeatOn (s.core.colls.filter fun c => !c.iters.isEmpty && decide (c.due ≤ clock)) fun c s =>
    nextOf (execWalkerChunkRead c.tag s) s
  let s := s.repeatOn s.core.colls fun c s => nextOf (execCollectiveCompletion c.tag s) s
  let s := s.repeatOn (s.core.probe.tab.zipIdx.filter fun w => match w.1.fill with | some f => decide (f.1 ≤ clock) | none => false)
    fun w s => nextOf (execProbeFillLanding w.2 s) s
  let s := match s.core.plan with
    | some p => s.actsRetry.repeatOn (p.acts.filter fun (a : HaulAct) => !a.done && decide (a.due ≤ clock)) fun (a : HaulAct) s =>
        nextOf (execHaulActionCompletion a.idx s) s
    | none => s
  let s := s.drainGq.swap.drainGq.swap.lateJournal
  let s := nextOf (execStreamCompletion s) s
  (nextOf (execStreamCompletion s.swap) s.swap).swap

/-- The clocks between two samples of a core (20 Table 1). -/
def Package.samples (pk : Package) (fn : Nat) : Bool :=
  let d := (pk.fnOf fn).dbg.toNat
  d.testBit 3 && decide (pk.clock % 2 ^ (bits d 7 4 + 8) = 0)

/-- The step of a migration that falls due (15 R408); one whose task has gone needs no core. -/
def State.migrationStep (s : State) (m : Migration) : State :=
  let go (s : State) : State := if m.step = 0 then s.migrationInvalidated m else if m.step = 1 then s.migrationCopied m
    else s.migrationDone m
  if m.tag.isSome then s.atCore m.core go else go s

/-- What falls due in the package: chunks and cursors, migrations, the device's own writes, barriers, seals, invalidations,
ends of stops, commits, copies of recovery points, aging and placement, and host accesses that waited. -/
def State.packageDue (s : State) : State :=
  let clock := s.pkg.clock
  let s := (List.range s.pkg.chunks.length).reverse.foldl (fun s k => match s.pkg.chunks[k]? with
    | some c => if c.due ≤ clock then nextOf (execChunkArrival (.own k) s) s else s
    | none => s) s
  let s := s.repeatOn ((s.ctxs.filter fun c => c.a.mode != .idle && s.pkg.cursors.any (·.seat == c.core.seat)).map (·.core.id))
    fun id s => s.atCore id State.freeCursors
  let s := s.repeatOn (s.pkg.migrations.filter fun m => decide (m.due ≤ clock)) fun m s => s.migrationStep m
  let s := if s.pkg.devWrites.isEmpty then s else s.onPkg Package.devRetry
  let s := s.repeatOn (s.pkg.bars.filter fun b => b.scope != 5) fun b s => nextOf (execBarrierGenerationComplete b.scope b.key s) s
  let quiet (s : State) (fn : Nat) : Bool := s.ctxs.all fun c => c.core.fn != fn || (c.a.gq ++ c.b.gq).all (·.place)
  let s := s.repeatOn (List.range 17) fun fn s => s.repeatOn (s.pkg.fnOf fn).seals fun r s => match r.st with
    | .taking => if quiet s fn then nextOf (execSealCompletion (BitVec.ofNat 5 fn) (BitVec.ofNat 64 r.base) s) s else s
    | .leaving => nextOf (execUnsealCompletion (BitVec.ofNat 5 fn) (BitVec.ofNat 64 r.base) s) s
    | .sealed => s
  let s := s.repeatOn s.pkg.invals fun v s =>
    nextOf (execInvalidationComplete (BitVec.ofNat 5 v.1) (BitVec.ofNat 64 v.2.1) (BitVec.ofNat 2 v.2.2) s) s
  let slot (f : BitVec 2 → BitVec 6 → State → Res) (i : Nat) (s : State) : State :=
    nextOf (f (BitVec.ofNat 2 (i / 64)) (BitVec.ofNat 6 i) s) s
  let used := (List.range 256).filter fun i => (s.pkg.slot i).st != .free
  let s := s.repeatOn used fun i s => if (s.pkg.slot i).st = .stopping then slot execDiscardDone i (slot execSaveDone i s) else s
  let s := s.repeatOn s.pkg.phases fun p s => nextOf (execPhaseCommit ⟨BitVec.ofNat 5 p.fn, p.lid⟩ p.num s) s
  let s := s.repeatOn ((List.range 64).filter fun q => (vget s.pkg.queues q Queue.reset).wait != .none) fun q s =>
    let q := BitVec.ofNat 6 q
    let s := nextOf (execCheckpointCopiesDone q 0 s) s
    nextOf (execDigestComplete q s) s
  let s := s.repeatOn ((List.range 17).filter fun fn => (s.pkg.fnOf fn).mbState == 1) fun fn s =>
    nextOf (execRecoveryCopiesDone (BitVec.ofNat 5 fn) s) s
  -- every slot is aged before any is placed (09 R254)
  let pending (f : BitVec 2 → BitVec 6 → State → Res) (s : State) : State :=
    s.repeatOn used fun i s => if (s.pkg.slot i).st = .pending then slot f i s else s
  let s := pending execPlacement (pending execAgingLevel s)
  s.onPkg fun pk => if pk.waiting.isEmpty then pk else pk.hostRetry

/-- The clock ends: what is due takes place, unless the package is frozen; time moves on; every core goes on. (DESIGN CHOICE, unsafe: notes/assumptions/69.md.) -/
def State.endClock (s : State) : State :=
  let s := if s.pkg.frozen then s else s.forCores State.coreDue
  let s := s.forCores fun s => if s.pkg.samples s.core.fn then nextOf (execTraceSample s) s else s
  let s := if s.pkg.frozen then s else s.packageDue
  let held (c : CoreCtx) (t : Stream) : Stream :=
    if c.core.run = .frozen ∨ t.held = true then { t with loops := t.loops.map fun l => { l with frozen := l.frozen + 1 } } else t
  let s := s.onAll fun c => { c with a := held c c.a, b := held c c.b, core := { c.core with run := .live } }
  let s := s.onPkg fun pk =>
    let pk := pk.bootNext
    let frac := pk.rtcFrac + 10 * rtcUnit / pk.freq
    { pk with clock := pk.clock + 1, rtc := pk.rtc + frac / rtcUnit, rtcFrac := frac % rtcUnit, asked := [] }
  { s with turn := .cores }

/-! ### One step -/

/-- An input that an agent outside the machine can give: an event, which has no words, for a core of the package. -/
def isInput (id : Nat) (i : Instr) : Bool := decide (id < 256) && (encode false i).isEmpty

/-- A command to the slot tables, which take the LAUNCH matches of the clock first (09 R253). -/
def slotCommandLike : Instr → Bool
  | .write _ _ _ _ | .arm _ _ _ _ | .disarm _ _ | .stop _ _ | .resume _ _ _ | .release _ _
  | .mailboxStop _ _ | .mailboxResume _ _ _ | .mailboxRelease _ _ => true
  | .registerWrite (.cmd _) v => decide (3 ≤ v.toNat % 256 ∧ v.toNat % 256 ≤ 5)
  | _ => false

/-- The next piece of the clock in hand. -/
noncomputable def State.piece (s : State) : State :=
  match s.turn with
  | .cores => match s.nextCore with
    | some id => stepCore (s.focus id)
    | none => { s with turn := .queues }
  | .queues => match s.pkg.nextQueue with
    | some q => s.queueStep q
    | none => { s with turn := .close }
  | .close => s.endClock

/-- The next input from outside, if there is one; else the next piece of the clock in hand. (DESIGN CHOICE, unsafe: notes/assumptions/1.md.)
A command to the slot tables waits for the end of the clock. -/
noncomputable def sched (s : State) : Res :=
  match s.inbox with
  | (id, i) :: rest =>
    if !isInput id i then .fault .badInput
    else if slotCommandLike i && s.turn != .close then .next s.piece
    else exec i (({ s with inbox := rest } : State).focus id)
  | [] => .next s.piece

end Sys2Proof.Machine
end

