-- ==== Sys2Proof/Machine/Step.lean ====
section
/-! DEFINITION. One step of the machine, and a word placed where the next step fetches it. -/
namespace Sys2Proof.Machine

/-- One step: the next input from outside, or the next piece of the clock in hand (Machine/Sched.lean). -/
noncomputable def step (s : State) : Host.Outcome State Fault Refusal := sched s

/-- `s` with a program loaded in the core in focus, as a bind loads one (01 R42; DESIGN CHOICE, safe: notes/assumptions/7.md): its primary
stream runs, the instruction buffer holds the syllable and, for a syllable with S = 0, a NOP that ends the bundle, at
the PC, and the next step issues that bundle. -/
def State.withFetchWord (s : State) (nbits w : Nat) : State :=
  if nbits = 32 then
    let s := if s.str.sec then s.swap else s
    { s with
      str := { s.str with mode := .running, gap := 0, skip := 0, svc := none, held := false }
      core := { s.core with
        images := [(s.str.pc, [BitVec.ofNat 32 w, 0x80000000#32])], lock := false, halt := none, engTrap := none
        lcPart := .issue, run := .live }
      others := s.others.map fun c => { c with core := { c.core with run := .ended } }
      pkg := { s.pkg with bootst := 1, bootStep := 5, hot := [], paused := false }
      inbox := [], turn := .cores }
  else s

end Sys2Proof.Machine
end

