-- ==== Sys2Proof/Safety.lean ====
section
/-! DEFINITION. What counts as a sound state of the machine, and the words in which its statements are written: an
instruction that completes, a result on its way, a flag setting on its way, and the canonical form of every memory
that the state holds. -/
namespace Sys2Proof.Machine

/-- The instruction has run to the next state `t`. -/
abbrev Completes (i : Instr) (s t : State) : Prop := exec i s = .next t

/-- `s` when the syllable in hand has issued and has changed nothing else: it is not held, and waits for no
translation. -/
def State.issued (s : State) : State := { s with str := { s.str with held := false, xlate := none } }

/-- `s` when the syllable in hand has issued and one result is on its way: `t` lands `n` lc later and sets the flags
`fl` at its landing (01 R21, R22; 02 R75). Nothing else changes. -/
def State.gives (s : State) (t : Target) (n : Nat) (fl : Flg := 0) : State :=
  { s with str := { s.str with
      pend := s.str.pend ++ [{ target := t, left := n, flags := fl, baddr := s.str.pc }], held := false, xlate := none } }

/-- The same without a result: the flags `fl`, if any, are set `n` lc later (03 R101). -/
def State.flagged (s : State) (n : Nat) (fl : Flg) : State := if fl = 0 then s.issued else s.gives .none n fl

/-- Element `i` of width `w` is active under the top of the mask stack (01 R26). -/
def State.active (s : State) (w i : Nat) : Bool := s.top.getLsbD (i * w / 4)

/-- The flags that the active elements raise (02 R75), with `mf`. -/
def State.activeFlags (s : State) (w : Nat) (f : Nat → Nat × Flg) (mf : Flg) : Flg :=
  orFlags ((List.range (4096 / w)).map fun i => if s.active w i then (f i).2 else 0) ||| mf

/-- `t` is `s` with a masked result on its way to vector register `d`: it covers exactly the active elements of width `w`
(01 R26, R27), each with the value that `f` gives it, and brings the flags of the active elements alone, and `mf`. -/
def State.GivesElements (s : State) (d : BitVec 6) (w lat : Nat) (f : Nat → Nat × Flg) (t : State) (mf : Flg := 0) : Prop :=
  ∃ en val : VReg, t = s.gives (.v d en val) lat (s.activeFlags w f mf) ∧
    (∀ i k : Nat, i < 4096 / w → k < w → en.getLsbD (w * i + k) = s.active w i) ∧
    (∀ i : Nat, i < 4096 / w → s.active w i = true → el val.toNat w i = (f i).1 % 2 ^ w)

/-- The same for a group of `r` registers from `d` on: element `i` of the narrow width `w` stands in register `d + i mod r`, at
place `i div r`, with width `r w` (05 R144, R145). -/
def State.GivesGroup (s : State) (d : BitVec 6) (r w lat : Nat) (f : Nat → Nat × Flg) (t : State) (mf : Flg := 0) : Prop :=
  ∃ en val : Nat → VReg, t = (List.range r).foldl (fun u g =>
      u.gives (.v (d + BitVec.ofNat 6 g) (en g) (val g)) lat (if g = 0 then s.activeFlags w f mf else 0)) s ∧
    (∀ i k : Nat, i < 4096 / w → k < r * w → (en (i % r)).getLsbD (r * w * (i / r) + k) = s.active w i) ∧
    (∀ i : Nat, i < 4096 / w → s.active w i = true → el (val (i % r)).toNat (r * w) (i / r) = (f i).1 % 2 ^ (r * w))

/-- `t` is `s` with a compare's entry on its way to the mask stack: the `w / 4` bits of an element hold its truth, 0 for an
inactive one (05 R150). -/
def State.GivesMask (s : State) (w lat : Nat) (f : Nat → Bool × Flg) (t : State) : Prop :=
  ∃ e : MaskEntry, t = s.gives (.mask (.push e)) lat (s.activeFlags w (fun i => (0, (f i).2)) 0) ∧
    ∀ i k : Nat, i < 4096 / w → k < w / 4 → e.getLsbD (w / 4 * i + k) = (s.active w i && (f i).1)

/-- Nothing stands in the way of an access of the bundle in hand to the pool ranges `rs`: no engine or fill keeps them
(14 R376; 10 R288), no acquire that has not been performed covers them (11 R297), no byte is poisoned (18 R430), no copy
is still to read or write them (14 R371), no watch range holds them (20 R455), and no row is marked by the secondary
stream (08 R218). -/
structure State.Free (s : State) (rs : List (Nat × Nat)) : Prop where
  idle : s.lheld rs = false
  clean : ∀ r ∈ rs, ∀ q ∈ s.core.poison, overlap r.1 r.2 q 32 = false
  unread : ∀ r ∈ rs, ∀ w ∈ s.core.watch, ∀ b ∈ w.src ++ w.dst, overlap r.1 r.2 b.1 1 = false
  unwatched : ∀ r ∈ rs, s.watched false (r.1 - s.str.spb.toNat % 128 * Config.bankBytes) r.2 = none
  unmarked : ∀ r ∈ rs, ∀ q ∈ rowsOf r.1 r.2, q ∉ s.core.marks

/-- `s` with one access of the banks of `rs` counted in the lc in hand (01 R39, R40). -/
def State.sampled (s : State) (rs : List (Nat × Nat)) : State :=
  s.onCore fun k => { k with touched := k.touched ++ [(s.accessor, (rs.flatMap fun r => banksOf r.1 r.2).eraseDups)] }

/-- `s` with a store effect of the bundle in hand on its way, by the syllable in `slot`. Effects of one lc take effect in
the order of their bundles' issue, the primary's first, and of the slots of a bundle (01 R38; 08 R214). -/
def State.storing (s : State) (n : Nat) (cells : List Host.Cell) (slot : Nat) : State :=
  s.onCore fun k => { k with stores := k.stores ++
    [{ cells := cells, left := n, seq := 16 * k.issue + (if s.str.sec then 8 else 0) + slot, sec := s.str.sec }] }

/-- The translations and keys of the pages of `rs` are at hand: none is to be fetched, or those that the bundle waited for
have arrived (10 R270, R271, R278). -/
def State.Ready (s : State) (need : Need) (rs : List (Word × Nat)) : Prop :=
  (s.str.xlate = none ∧ ∀ p ∈ pagesOf rs, s.pkg.lookup s.core.fn need p.1 = false) ∨
  ∃ c, s.str.xlate = some c ∧ c ≤ s.pkg.clock

/-- A global access of the bundle in hand to the ranges `rs` goes through: its translations are cached and its keys at hand
(10 R271, R278), no check of 10 R270 fails, no page is write-blocked (10 R272), no page counts accesses (10 R274),
no watch range holds it (20 R455), no acquire that has not been performed covers it (11 R297), no atomic of the stream on
its bytes is on its way, no bound object lies there (11 R304), and every byte can be reached (21 R467). -/
structure State.Reaches (s : State) (need : Need) (rs : List (Word × Nat)) : Prop where
  cached : ∀ p ∈ pagesOf rs, (s.pkg.cached s.core.fn (bits p.1.toNat 56 0)).isSome = true
  ready : s.Ready need rs
  acquired : s.acquiring true (rs.map fun r => (bits r.1.toNat 56 0, r.2)) = false
  settled : ∀ o ∈ s.str.gq, o.combines (rs.flatMap fun r => s.pkg.physOf s.core.fn r.1 r.2) = false
  allowed : s.pkg.rangesFault s.core.fn need rs = none
  pages : ∀ p ∈ pagesOf rs, ∀ e, s.pkg.translate s.core.fn p.1 = .ok e → leafBit e.leaf 7 = false ∧ leafBit e.leaf 6 = false
  unwatched : ∀ r ∈ rs, s.watched true (bits r.1.toNat 56 0) r.2 = none
  unbound : ∀ r ∈ rs, s.touchesObject true (bits r.1.toNat 56 0) r.2 = false
  reachable : ∀ r ∈ rs, ∀ p ∈ s.pkg.physOf s.core.fn r.1 r.2, s.pkg.unreachable p = false

/-- The focus is one of the two streams of its core, which stands nowhere else among the cores. -/
def State.Seated (s : State) : Prop := s.alt.sec ≠ s.str.sec ∧ ∀ c ∈ s.others, c.core.id ≠ s.core.id

/-- The registers of the stream in hand, its position and the core's own registers are those of `s`. -/
def State.SameRegisters (s t : State) : Prop :=
  t.str.x = s.str.x ∧ t.str.p = s.str.p ∧ t.str.v = s.str.v ∧ t.str.masks = s.str.masks ∧ t.str.spb = s.str.spb ∧
  t.str.flags = s.str.flags ∧ t.str.rmode = s.str.rmode ∧ t.str.pc = s.str.pc ∧ t.str.lcc = s.str.lcc ∧
  t.core.mp = s.core.mp ∧ t.core.g = s.core.g ∧ t.core.acc = s.core.acc

/-- `t` is `s` with the branch to `a` taken: the loop entries that do not hold `a` are gone, from the innermost up to the
first that does (04 R132), and nothing else of the core has changed. -/
def State.Branched (s : State) (a : Word) (t : State) : Prop :=
  t.str.next = some a ∧ t.str.loops = s.str.loops.dropWhile (fun l => !decide (l.body ≤ a ∧ a ≤ l.last)) ∧
  s.SameRegisters t ∧ t.str.pend = s.str.pend ∧ t.str.mode = s.str.mode ∧ t.str.held = false ∧ t.core = s.core ∧
  t.alt = s.alt ∧ t.others = s.others

/-- `t` is `s` with the reply of a global read on its way (10 R282): the stream's nominal latency class `cls` in the primary
stream, one lc in the secondary, and the outside world's delay. Registers, other results, scratchpad and stores on their way
are as they were. -/
def State.Awaits (s : State) (tg : Target) (cls : Nat) (fault : Option Trap) (fl : Flg) (t : State) : Prop :=
  (∃ p : Pending, t.str.pend = s.str.pend ++ [p] ∧ p.target = tg ∧ p.fault = fault ∧ p.flags = fl ∧ p.baddr = s.str.pc ∧
    p.left = (if s.str.sec then 1 else (vget s.core.nomlat cls 0).toNat % 2 ^ 20) ∧
    p.arrive = s.pkg.clock + s.pkg.delays.headD 0) ∧
  s.SameRegisters t ∧ t.str.gq = s.str.gq ∧ t.str.held = false ∧ t.str.mode = s.str.mode ∧ t.core.spad = s.core.spad ∧
  t.core.stores = s.core.stores

/-- The same of a read that touches no byte: it waits for no reply (01 R27; 05 R167). -/
def State.AwaitsNothing (s : State) (tg : Target) (cls : Nat) (t : State) : Prop :=
  (∃ p : Pending, t.str.pend = s.str.pend ++ [p] ∧ p.target = tg ∧ p.fault = none ∧ p.flags = 0 ∧ p.baddr = s.str.pc ∧
    p.left = (if s.str.sec then 1 else (vget s.core.nomlat cls 0).toNat % 2 ^ 20) ∧ p.arrive = s.pkg.clock) ∧
  s.SameRegisters t ∧ t.str.held = false ∧ t.str.mode = s.str.mode ∧ t.core = s.core ∧ t.pkg = s.pkg

/-- `t` is `s` with a global effect of the bundle in hand issued (11 R293): performed at once where the outside world's delay
is 0 and the stream has none waiting, else the last that waits, a release or an acquire that has departed as `rel` and `acq`
say, the latter with the regions bound to its object at its issue (11 R296, R297). Registers, results and scratchpad are as they were. -/
def State.Issues (s : State) (e : GEffect) (t : State) (rel : Bool := false) (acq : Option Word := none) : Prop :=
  (s.pkg.delays.headD 0 = 0 → s.str.gq = [] → t.str.gq = [] ∧ t.pkg.dev = (s.pkg.perform s.core.fn e).dev ∧
    t.pkg.host = (s.pkg.perform s.core.fn e).host ∧ t.pkg.peer = (s.pkg.perform s.core.fn e).peer) ∧
  (s.pkg.delays.headD 0 ≠ 0 ∨ s.str.gq ≠ [] →
    t.str.gq = s.str.gq ++ [{ eff := e, due := s.pkg.clock + s.pkg.delays.headD 0, lc := s.core.issue, rel := rel, acq := acq,
                              bound := match acq with | some va => s.boundTo va | none => [] }] ∧
    t.pkg.dev = s.pkg.dev ∧ t.pkg.host = s.pkg.host ∧ t.pkg.peer = s.pkg.peer) ∧
  s.SameRegisters t ∧ t.str.held = false ∧ t.str.mode = s.str.mode ∧ t.core.spad = s.core.spad ∧ t.core.stores = s.core.stores

/-- `s` with SRCNT, RMODE[63:32], one higher modulo 2^32 (02 R72). -/
def State.srCounted (s : State) : State :=
  let n := s.str.rmode.toNat
  let m : Word := BitVec.ofNat 64 (n % 2 ^ 32 + (n / 2 ^ 32 + 1) % 2 ^ 32 * 2 ^ 32)
  { s with str := { s.str with rmode := m } }

/-- `s` when the stream in hand has stopped with `t` before its bundle (01 R44, R48): the record is kept with the
stream, and posted to the Puppeteer. -/
def State.StoppedBy (s t : State) (r : Trap) : Prop :=
  t.str.mode = .stopped ∧ (t.str.stopRec.map (·.trap)) = some r ∧ t.str.pc = s.str.pc ∧ t.str.lcc = s.str.lcc ∧
  t.str.x = s.str.x ∧ t.str.p = s.str.p ∧ t.str.v = s.str.v ∧ t.str.masks = s.str.masks ∧ t.str.pend = s.str.pend ∧
  t.str.flags = s.str.flags ∧ t.core = s.core ∧ t.alt = s.alt ∧ t.others = s.others

/-- The primary stream of the core in focus is about to issue a bundle, and nothing else of the core has work in this part
of the lc: no engine runs, no store effect is due, no stop or breakpoint is asked for, no result brings a fault, no byte of
the core is poisoned. -/
structure State.AtIssue (s : State) : Prop where
  inbox : s.inbox = []
  turn : s.turn = .cores
  core : s.nextCore = some s.core.id
  primary : s.str.sec = false
  lock : s.core.lock = false
  part : s.core.lcPart = .issue
  mode : s.str.mode = .running
  gap : s.str.gap = 0
  skip : s.str.skip = 0
  frozen : s.pkg.frozen = false
  stop : s.stopCause = none
  beats : s.core.beats = []
  stores : s.core.stores = []
  chain : s.core.chain = []
  cmdq : s.core.cmdq = []
  seq : s.core.seq = none
  engTrap : s.core.engTrap = none
  dbgen : s.dbgen = false
  replay : s.core.replay = false
  land : s.str.landFault s.pkg.clock = none
  poison : s.core.poison = []

/-- `s` with a bundle of one syllable in hand. -/
def State.inHand (s : State) : State :=
  { s with str := { s.str with held := false, len := 1, next := none, squash := 0 }, core := { s.core with events := [] } }

/-- The same when the syllable takes effect: the loops have counted the lc and the slots in use (20 R452), a GUARD has named
the slots it squashes, and the flags of a copy that the syllable observes are set (14 R378). -/
def State.counted (s : State) (ps : List Placed) : State :=
  let mask := guardMask s.inHand ps
  s.inHand.onStr fun t => { (t.countLoops (slotsTaken ps)) with
    flags := t.flags ||| observed s.inHand mask (issueOrder ps), squash := mask }

/-- The part of the lc that issues the primary bundle is over for the core in focus. -/
def State.partDone (s : State) (ps : List Placed) : State :=
  (s.onCore fun k => { k with slots := slotsTaken ps }).onAll fun c =>
    if [s.core.id].contains c.core.id then { c with core := c.core.nextPart } else c

/-- The memories of a core in canonical form. -/
def Core.canonical (k : Core) : Bool := k.spad.wf

/-- Every memory of the package in canonical form: device memory, host memory, the peers' memory, the key stores of granules
and regions, and the pool of every core, bound or saved (DESIGN CHOICE, unsafe: notes/assumptions/2.md). -/
def State.canonical (s : State) : Bool :=
  s.pkg.dev.wf && s.pkg.host.wf && s.pkg.peer.wf && swf (0 : BitVec 4) 0 s.pkg.keys && swf 0 0 s.pkg.enc && s.core.canonical &&
  s.others.all (fun c => c.core.canonical) &&
  s.pkg.slots.toList.all (fun sl => sl.ctxs.all fun c => c.core.canonical)

end Sys2Proof.Machine
end

