-- ==== Sys2Proof/Certificates/Slice0/Obligations.lean ====
section
/-! DEFINITION. The statements about the machine, from the numbered rules of spec/. `s.gives t n` says that a result is on
its way and that nothing else has changed; ZeroRegisters and its neighbours say what a landing does. -/
open Sys2Proof Sys2Proof.Machine
/-! ### Registers and landings -/

/-- 01 Table 6; 04 R113: X0 reads 0 and P0 reads 1, and what lands in them is discarded; a result that lands in another
register is read there afterwards, and in no other register. -/
def Sys2Proof.Rules.ZeroRegisters : Prop := ∀ (s : State) (v : Word) (b : Bool),
  s.rx 0 = 0 ∧ s.rp 0 = true ∧ s.landTarget (.x 0 v) = s ∧ s.landTarget (.p 0 b) = s ∧
  (∀ r q : BitVec 5, r ≠ 0 → (s.landTarget (.x r v)).rx q = if q = r then v else s.rx q) ∧
  (∀ r q : BitVec 4, r ≠ 0 → (s.landTarget (.p r b)).rp q = if q = r then b else s.rp q)

/-- 01 R27: a vector result changes the bits that its active elements have, and leaves every other bit of its register
and every other register. Of the core it changes nothing but the poison of granules it covers (18 R430). -/
def Sys2Proof.Rules.VectorLandsUnderMask : Prop := ∀ (s : State) (r : BitVec 6) (en val : VReg),
  (∀ k : Nat, ((s.landTarget (.v r en val)).rv r).getLsbD k =
    if en.getLsbD k then val.getLsbD k else (s.rv r).getLsbD k) ∧
  (∀ q : BitVec 6, q ≠ r → (s.landTarget (.v r en val)).rv q = s.rv q) ∧
  (s.landTarget (.v r en val)).str.x = s.str.x ∧ (s.landTarget (.v r en val)).str.p = s.str.p ∧
  (s.landTarget (.v r en val)).str.masks = s.str.masks ∧ (s.landTarget (.v r en val)).str.flags = s.str.flags ∧
  (∃ ps : List Nat, (∀ p ∈ ps, p ∈ s.core.poison) ∧ (s.landTarget (.v r en val)).core = { s.core with poison := ps }) ∧
  (s.core.poison = [] → (s.landTarget (.v r en val)).core = s.core) ∧ (s.landTarget (.v r en val)).pkg = s.pkg

/-- 04 R135: every change of the mask stack keeps 1 to 16 entries on it, and its depth after is the one that the check at
issue foresaw. -/
def Sys2Proof.Rules.MaskStackDepth : Prop := ∀ (op : MaskOp) (m : List MaskEntry), 1 ≤ m.length → m.length ≤ 16 →
  (1 ≤ (op.apply m).length ∧ (op.apply m).length ≤ 16) ∧
  (∀ d, op.depth m.length = .ok d → (op.apply m).length = d) ∧
  (∀ e, op.depth m.length = .error e → op.apply m = m)

/-- 02 R76; 04 R141: at a landing the flags of the landing results are ORed to FLAGS as a write of FLAGS that lands with
them leaves it. -/
def Sys2Proof.Rules.FlagsAfterWrite : Prop := ∀ (s : State) (ps : List Pending),
  (s.landAll ps).str.flags =
    ps.foldl (fun f p => f ||| p.flags) (ps.foldl (fun s p => s.landTarget p.target) s).str.flags

/-- What a landing does to the registers: the hard-wired ones, the vector registers under their enables, and FLAGS (01 R21, R27, Table 6; 02 R76). -/
def Obligations.RegistersAtLanding : Prop := Rules.ZeroRegisters ∧ Rules.VectorLandsUnderMask ∧ Rules.FlagsAfterWrite

/-! ### Integer forms -/

/-- 04 R116, Table 2; R117, Table 3: the results of the logic and arithmetic forms of majors 1 and 2, all on their way for
one lc, without a flag but SA of the clamped forms. -/
def Sys2Proof.Rules.IntegerResults : Prop := ∀ (s : State) (d a b : BitVec 5) (im : BitVec 12) (n : BitVec 6),
  Completes (.add d a b) s (s.gives (.x d (s.rx a + s.rx b)) 1) ∧
  Completes (.sub d a b) s (s.gives (.x d (s.rx a - s.rx b)) 1) ∧
  Completes (.and d a b) s (s.gives (.x d (s.rx a &&& s.rx b)) 1) ∧
  Completes (.or d a b) s (s.gives (.x d (s.rx a ||| s.rx b)) 1) ∧
  Completes (.xor d a b) s (s.gives (.x d (s.rx a ^^^ s.rx b)) 1) ∧
  Completes (.andn d a b) s (s.gives (.x d (s.rx a &&& ~~~(s.rx b))) 1) ∧
  Completes (.min d a b) s (s.gives (.x d (BitVec.ofInt 64 (min (s.rx a).toInt (s.rx b).toInt))) 1) ∧
  Completes (.max d a b) s (s.gives (.x d (BitVec.ofInt 64 (max (s.rx a).toInt (s.rx b).toInt))) 1) ∧
  Completes (.minu d a b) s (s.gives (.x d (BitVec.ofNat 64 (min (s.rx a).toNat (s.rx b).toNat))) 1) ∧
  Completes (.maxu d a b) s (s.gives (.x d (BitVec.ofNat 64 (max (s.rx a).toNat (s.rx b).toNat))) 1) ∧
  Completes (.addi d a im) s (s.gives (.x d (s.rx a + im.signExtend 64)) 1) ∧
  Completes (.andi d a im) s (s.gives (.x d (s.rx a &&& im.signExtend 64)) 1) ∧
  Completes (.ori d a im) s (s.gives (.x d (s.rx a ||| im.setWidth 64)) 1) ∧
  Completes (.xori d a im) s (s.gives (.x d (s.rx a ^^^ im.signExtend 64)) 1) ∧
  Completes (.shlor d a im) s (s.gives (.x d (s.rx a * 4096 + im.setWidth 64)) 1) ∧
  Completes (.movi d im) s (s.gives (.x d (im.signExtend 64)) 1) ∧
  Completes (.slli d a n) s (s.gives (.x d (BitVec.ofNat 64 ((s.rx a).toNat * 2 ^ n.toNat))) 1) ∧
  Completes (.srli d a n) s (s.gives (.x d (BitVec.ofNat 64 ((s.rx a).toNat / 2 ^ n.toNat))) 1) ∧
  Completes (.srai d a n) s (s.gives (.x d (BitVec.ofInt 64 ((s.rx a).toInt / 2 ^ n.toNat))) 1)

/-- 04 Table 2, ops 6 to 8: a shift reads all 64 bits of its amount, so that one of 64 or more leaves 0 or the sign. -/
def Sys2Proof.Rules.ShiftsReadAllBits : Prop := ∀ (s : State) (d a b : BitVec 5),
  Completes (.sll d a b) s (s.gives (.x d (BitVec.ofNat 64
    (if 64 ≤ (s.rx b).toNat then 0 else (s.rx a).toNat * 2 ^ (s.rx b).toNat))) 1) ∧
  Completes (.srl d a b) s (s.gives (.x d (BitVec.ofNat 64
    (if 64 ≤ (s.rx b).toNat then 0 else (s.rx a).toNat / 2 ^ (s.rx b).toNat))) 1) ∧
  Completes (.sra d a b) s (s.gives (.x d (BitVec.ofInt 64 ((s.rx a).toInt / 2 ^ min (s.rx b).toNat 63))) 1)

/-- 04 Table 2, ops 13 and 14: the saturating forms give the exact sum or difference when it lies in range, with no
flag, else the nearer bound with SA. -/
def Sys2Proof.Rules.SaturatingResults : Prop := ∀ (s : State) (d a b : BitVec 5),
  (∀ i : Int, i = (s.rx a).toInt + (s.rx b).toInt →
    Completes (.adds d a b) s (s.gives (.x d (BitVec.ofInt 64 (max (-2 ^ 63) (min (2 ^ 63 - 1) i)))) 1
      (if -2 ^ 63 ≤ i ∧ i ≤ 2 ^ 63 - 1 then 0 else flSA))) ∧
  (∀ i : Int, i = (s.rx a).toInt - (s.rx b).toInt →
    Completes (.subs d a b) s (s.gives (.x d (BitVec.ofInt 64 (max (-2 ^ 63) (min (2 ^ 63 - 1) i)))) 1
      (if -2 ^ 63 ≤ i ∧ i ≤ 2 ^ 63 - 1 then 0 else flSA)))

/-- The logic, arithmetic and shift forms of majors 1 and 2 (04 R116, R117, Tables 2 and 3). -/
def Obligations.IntegerForms : Prop := Rules.IntegerResults ∧ Rules.ShiftsReadAllBits ∧ Rules.SaturatingResults

/-- 04 Tables 2, 3 and 11: compares, selections and predicate forms, on their way for one lc. -/
def Obligations.PredicateResults : Prop := ∀ (s : State) (d a b : BitVec 5) (p q k : BitVec 4) (im : BitVec 12)
    (v : BitVec 1),
  Completes (.sel d a b k) s (s.gives (.x d (if s.rp k then s.rx a else s.rx b)) 1) ∧
  Completes (.cmpeq p a b) s (s.gives (.p p (decide (s.rx a = s.rx b))) 1) ∧
  Completes (.cmpne p a b) s (s.gives (.p p (decide (s.rx a ≠ s.rx b))) 1) ∧
  Completes (.cmplt p a b) s (s.gives (.p p (decide ((s.rx a).toInt < (s.rx b).toInt))) 1) ∧
  Completes (.cmpltu p a b) s (s.gives (.p p (decide ((s.rx a).toNat < (s.rx b).toNat))) 1) ∧
  Completes (.cmple p a b) s (s.gives (.p p (decide ((s.rx a).toInt ≤ (s.rx b).toInt))) 1) ∧
  Completes (.cmpleu p a b) s (s.gives (.p p (decide ((s.rx a).toNat ≤ (s.rx b).toNat))) 1) ∧
  Completes (.cmpeqi p a im) s (s.gives (.p p (decide (s.rx a = im.signExtend 64))) 1) ∧
  Completes (.cmplti p a im) s (s.gives (.p p (decide ((s.rx a).toInt < im.toInt))) 1) ∧
  Completes (.cmpltui p a im) s (s.gives (.p p (decide ((s.rx a).toNat < (im.signExtend 64).toNat))) 1) ∧
  Completes (.pand p q k v) s (s.gives (.p p ((s.rp q && s.rp k) != (v == 1))) 1) ∧
  Completes (.por p q k v) s (s.gives (.p p ((s.rp q || s.rp k) != (v == 1))) 1) ∧
  Completes (.pxor p q k v) s (s.gives (.p p ((s.rp q != s.rp k) != (v == 1))) 1) ∧
  Completes (.pandn p q k v) s (s.gives (.p p ((s.rp q && !s.rp k) != (v == 1))) 1) ∧
  Completes (.pnz p a) s (s.gives (.p p (decide (s.rx a ≠ 0))) 1) ∧
  Completes (.many p) s (s.gives (.p p (decide (s.top ≠ 0))) 1) ∧
  Completes (.prd d) s (s.gives (.x d ((s.str.p ||| 1).setWidth 64)) 1)

/-- 04 R118, Table 4: products, counts, and the permutations of bits and bytes. -/
def Obligations.MultiplyAndBitResults : Prop := ∀ (s : State) (d a b : BitVec 5),
  Completes (.mul d a b) s (s.gives (.x d (s.rx a * s.rx b)) 3) ∧
  Completes (.mulh d a b) s (s.gives (.x d (BitVec.ofInt 64 ((s.rx a).toInt * (s.rx b).toInt / 2 ^ 64))) 3) ∧
  Completes (.mulhu d a b) s (s.gives (.x d (BitVec.ofNat 64 ((s.rx a).toNat * (s.rx b).toNat / 2 ^ 64))) 3) ∧
  (∀ n : Nat, n ≤ 64 → (∀ k, k < n → (s.rx a).getLsbD (63 - k) = false) → (n < 64 → (s.rx a).getLsbD (63 - n) = true) →
    Completes (.clz d a) s (s.gives (.x d (BitVec.ofNat 64 n)) 3)) ∧
  (∀ n : Nat, n ≤ 64 → (∀ k, k < n → (s.rx a).getLsbD k = false) → (n < 64 → (s.rx a).getLsbD n = true) →
    Completes (.ctz d a) s (s.gives (.x d (BitVec.ofNat 64 n)) 3)) ∧
  Completes (.popc d a) s (s.gives (.x d (BitVec.ofNat 64 ((List.range 64).countP fun k => (s.rx a).getLsbD k))) 3) ∧
  (∃ v : Word, Completes (.brev d a) s (s.gives (.x d v) 3) ∧ ∀ k : Nat, k < 64 → v.getLsbD k = (s.rx a).getLsbD (63 - k)) ∧
  (∃ v : Word, Completes (.bswap d a) s (s.gives (.x d v) 3) ∧
    ∀ k j : Nat, k < 8 → j < 8 → v.getLsbD (8 * k + j) = (s.rx a).getLsbD (8 * (7 - k) + j)) ∧
  (∃ v : Word, Completes (.rol d a b) s (s.gives (.x d v) 3) ∧
    ∀ k : Nat, k < 64 → v.getLsbD ((k + (s.rx b).toNat) % 64) = (s.rx a).getLsbD k) ∧
  (∃ v : Word, Completes (.ror d a b) s (s.gives (.x d v) 3) ∧
    ∀ k : Nat, k < 64 → v.getLsbD k = (s.rx a).getLsbD ((k + (s.rx b).toNat) % 64))

/-- 04 R118, R119, Table 4: quotients and remainders, with the corners of division by zero. -/
def Obligations.DivisionResults : Prop := ∀ (s : State) (d a b : BitVec 5),
  (s.rx b ≠ 0 →
    Completes (.div d a b) s (s.gives (.x d (BitVec.ofInt 64 ((s.rx a).toInt.tdiv (s.rx b).toInt))) 12) ∧
    Completes (.divu d a b) s (s.gives (.x d (BitVec.ofNat 64 ((s.rx a).toNat / (s.rx b).toNat))) 12) ∧
    Completes (.rem d a b) s (s.gives (.x d (BitVec.ofInt 64
      ((s.rx a).toInt - (s.rx b).toInt * (s.rx a).toInt.tdiv (s.rx b).toInt))) 12) ∧
    Completes (.remu d a b) s (s.gives (.x d (BitVec.ofNat 64 ((s.rx a).toNat % (s.rx b).toNat))) 12)) ∧
  (s.rx b = 0 →
    Completes (.div d a b) s (s.gives (.x d (BitVec.allOnes 64)) 12 flNV) ∧
    Completes (.divu d a b) s (s.gives (.x d (BitVec.allOnes 64)) 12 flNV) ∧
    Completes (.rem d a b) s (s.gives (.x d (s.rx a)) 12 flNV) ∧
    Completes (.remu d a b) s (s.gives (.x d (s.rx a)) 12 flNV)) ∧
  (s.rx a = BitVec.intMin 64 → s.rx b = BitVec.allOnes 64 →
    Completes (.div d a b) s (s.gives (.x d (BitVec.intMin 64)) 12) ∧
    Completes (.rem d a b) s (s.gives (.x d 0) 12))

/-- 04 R120: the field that EXTU and EXTS extract: w' bits from lo, where lo is xb[5:0] and the width xb[13:8], 0 for 64,
is cut at bit 63. -/
def Obligations.BitFieldResults : Prop := ∀ (s : State) (d a b : BitVec 5) (lo w : Nat),
  lo = (s.rx b).toNat % 64 → w = min (if (s.rx b).toNat / 256 % 64 = 0 then 64 else (s.rx b).toNat / 256 % 64) (64 - lo) →
  (∃ v : Word, Completes (.extu d a b) s (s.gives (.x d v) 3) ∧
    ∀ k : Nat, k < 64 → v.getLsbD k = if k < w then (s.rx a).getLsbD (lo + k) else false) ∧
  (∃ v : Word, Completes (.exts d a b) s (s.gives (.x d v) 3) ∧
    ∀ k : Nat, k < 64 → v.getLsbD k = (s.rx a).getLsbD (lo + min k (w - 1)))

/-! ### Scalar floating point -/

/-- 04 R121, R122, Table 5; 03 Table 6: each rounding form of major 4 decodes the low bits of its operands by its type, rounds
once, and lands zero-extended: rm 0 to 3 give the mode, rm 4 rounds RNE with MF, rm 5 takes RMODE.MODE. An integer converted to
BF16 with rm 5 and RMODE.SR rounds by the coin of element 0 and counts in SRCNT (here without ENT; the model's reading:
notes/assumptions/74.md). -/
def Sys2Proof.Rules.ScalarFloatResults : Prop := ∀ (s : State) (d a b : BitVec 5) (r : BitVec 3) (t : BitVec 2) (m : Rnd) (mf : Flg),
  ((r.toNat ≤ 3 ∧ m = rndOf r.toNat ∧ mf = 0) ∨ (r = 4 ∧ m = .rne ∧ mf = flMF) ∨ (r = 5 ∧ m = s.rnd ∧ mf = 0)) →
  let f := fmtOfScalar t
  let x := fdecode f (s.rx a).toNat
  let y := fdecode f (s.rx b).toNat
  let z := fdecode f (s.rx d).toNat
  let out (v : Nat × Flg) (n : Nat) : State := s.gives (.x d (BitVec.ofNat 64 v.1)) n (v.2 ||| mf)
  Completes (.fadd d a b r t) s (out (faddV f m x y) 4) ∧
  Completes (.fsub d a b r t) s (out (faddV f m x y.neg) 4) ∧
  Completes (.fmul d a b r t) s (out (fmulR f m x y) 4) ∧
  Completes (.fma d a b r t) s (out (ffmaR f m x y z) 4) ∧
  Completes (.fdiv d a b r t) s (out (fdivR f m x y) 12) ∧
  Completes (.fsqrt d a r t) s (out (fsqrtR f m x) 12) ∧
  Completes (.fcvti d a b r t) s (out (ftoInt f m true 64 (s.rx a).toNat) 4) ∧
  Completes (.fcvtn d a b r t) s (out (ftoInt f m false 64 (s.rx a).toNat) 4) ∧
  (∀ o ∈ [(Instr.icvtf d a b r t, (s.rx a).toInt), (.ncvtf d a b r t, ((s.rx a).toNat : Int))],
    (¬ (t = 3 ∧ r = 5 ∧ s.str.sr = true) → Completes o.1 s (out (fofInt f m false o.2) 4)) ∧
    (t = 3 → r = 5 → s.str.sr = true → s.str.ent = false →
      let v := fofInt BF16 (.sr ((coin s.srSeed 0).toNat / 2 ^ 32)) false o.2
      Completes o.1 s (s.srCounted.gives (.x d (BitVec.ofNat 64 v.1)) 4 v.2)))

/-- 04 R122, Table 5, op 8; 02 R72: a conversion to a wider type is exact, and an rm other than 5 sets MF; one to BF16 with
rm 4, or with rm 5 and RMODE.SR, rounds by the coin of element 0 and counts in SRCNT (here without ENT); any other rounds
once in the mode of rm. -/
def Sys2Proof.Rules.ScalarConversions : Prop := ∀ (s : State) (d a : BitVec 5) (c t : BitVec 2) (r : BitVec 3),
  r.toNat ≤ 5 → c ≠ t →
  let x := (s.rx a).toNat
  ((fmtOfScalar c).width < (fmtOfScalar t).width →
    let v := fconvert (fmtOfScalar c) (fmtOfScalar t) .rne false x
    Completes (.fcvt d a c r t) s (s.gives (.x d (BitVec.ofNat 64 v.1)) 4 (v.2 ||| if r = 5 then 0 else flMF))) ∧
  ((fmtOfScalar t).width ≤ (fmtOfScalar c).width → t = 3 → r = 4 ∨ (r = 5 ∧ s.str.sr = true) → s.str.ent = false →
    let v := fconvert (fmtOfScalar c) BF16 (.sr ((coin s.srSeed 0).toNat / 2 ^ 32)) false x
    Completes (.fcvt d a c r t) s (s.srCounted.gives (.x d (BitVec.ofNat 64 v.1)) 4 v.2)) ∧
  ((fmtOfScalar t).width ≤ (fmtOfScalar c).width → ¬ (t = 3 ∧ (r = 4 ∨ (r = 5 ∧ s.str.sr = true))) →
    ∀ (m : Rnd) (mf : Flg),
    ((r.toNat ≤ 3 ∧ m = rndOf r.toNat ∧ mf = 0) ∨ (r = 4 ∧ m = .rne ∧ mf = flMF) ∨ (r = 5 ∧ m = s.rnd ∧ mf = 0)) →
    let v := fconvert (fmtOfScalar c) (fmtOfScalar t) m false x
    Completes (.fcvt d a c r t) s (s.gives (.x d (BitVec.ofNat 64 v.1)) 4 (v.2 ||| mf)))

/-- 04 R121 to R123, Table 5, ops 4, 5 and 13 to 17: minimum and maximum, compares (landing at issue + 4, 04 R114), and the
sign forms, which act on the pattern and set no flag. -/
def Sys2Proof.Rules.ScalarFloatCompares : Prop := ∀ (s : State) (d a b : BitVec 5) (p : BitVec 4) (t : BitVec 2),
  let f := fmtOfScalar t
  let x := (s.rx a).toNat
  let y := (s.rx b).toNat
  Completes (.fmin d a b t) s (s.gives (.x d (BitVec.ofNat 64 (fminmax f false x y).1)) 4 (fminmax f false x y).2) ∧
  Completes (.fmax d a b t) s (s.gives (.x d (BitVec.ofNat 64 (fminmax f true x y).1)) 4 (fminmax f true x y).2) ∧
  Completes (.fcmpeq p a b t) s (s.gives (.p p (fcompare f 0 x y).1) 4 (fcompare f 0 x y).2) ∧
  Completes (.fcmplt p a b t) s (s.gives (.p p (fcompare f 2 x y).1) 4 (fcompare f 2 x y).2) ∧
  Completes (.fcmple p a b t) s (s.gives (.p p (fcompare f 3 x y).1) 4 (fcompare f 3 x y).2) ∧
  (∃ v : Word, Completes (.fneg d a t) s (s.gives (.x d v) 4) ∧
    ∀ k : Nat, v.getLsbD k = if k + 1 = f.width then !(s.rx a).getLsbD k else k < f.width && (s.rx a).getLsbD k) ∧
  (∃ v : Word, Completes (.fabs d a t) s (s.gives (.x d v) 4) ∧
    ∀ k : Nat, v.getLsbD k = (decide (k + 1 < f.width) && (s.rx a).getLsbD k))

/-- Major 4 (04 R121 to R123, Table 5). -/
def Obligations.ScalarFloatForms : Prop := Rules.ScalarFloatResults ∧ Rules.ScalarConversions ∧ Rules.ScalarFloatCompares

/-- 02 R53, R56, R65: in every format a code that is no NaN stands for itself: what it denotes, rounded in any mode,
is that code, without a flag; so subnormals are kept exactly. -/
def Sys2Proof.Rules.RoundingKeepsCodes : Prop :=
  ∀ f ∈ [F64, F32, F16, BF16, E5M2, E4M3], ∀ (r : Rnd) (x : Nat), x < 2 ^ f.width → (fdecode f x).isNaN = false →
    fput f r (fdecode f x) = (x, 0)

/-- 02 R55, R57: a NaN that addition, multiplication, a fused multiply-add, division, the roots, exp2, log2, minimum, maximum or a
conversion produces is the canonical NaN of its destination format, whatever the NaNs among its operands. -/
def Sys2Proof.Rules.CanonicalNaN : Prop :=
  ([F64, F32, F16, BF16, E5M2, E4M3].map Fmt.nan = [0x7FF8000000000000, 0x7FC00000, 0x7E00, 0x7FC0, 0x7E, 0x7F]) ∧
  ∀ f ∈ [F64, F32, F16, BF16, E5M2, E4M3], ∀ g ∈ [F64, F32, F16, BF16, E5M2, E4M3],
    ∀ (r : Rnd) (a b c : FVal) (sat : Bool) (x y : Nat) (i : Int),
    ∀ v ∈ [faddV f r a b, fmulR f r a b, ffmaR f r a b c, fdivR f r a b, fsqrtR f r a, frsqrtR f r a, fexp2R f r a, flog2R f r a,
        fminmax f false x y, fminmax f true x y, fconvert g f r sat x, fofInt f r sat i],
      (fdecode f v.1).isNaN = true → v.1 = f.nan

/-- What the formats keep, and the NaN that they give (02 R53 to R57, R65). -/
def Obligations.FormatCodes : Prop := Rules.RoundingKeepsCodes ∧ Rules.CanonicalNaN

/-! ### Branches, jumps and loops -/

/-- 04 R125, R132, Table 7: a branch tests its operands as they stand at issue; taken, the stream goes on at A + 4 d and the
loops that do not hold the target are left; not taken, nothing changes. -/
def Sys2Proof.Rules.BranchesTaken : Prop := ∀ (s : State) (a b : BitVec 5) (p : BitVec 4) (d : BitVec 13),
  s.str.loops.length ≤ 4 →
  ∀ ic ∈ [(Instr.beq a b d, decide (s.rx a = s.rx b)), (.bne a b d, decide (s.rx a ≠ s.rx b)),
      (.blt a b d, decide ((s.rx a).toInt < (s.rx b).toInt)), (.bge a b d, decide ((s.rx b).toInt ≤ (s.rx a).toInt)),
      (.bltu a b d, decide ((s.rx a).toNat < (s.rx b).toNat)), (.bgeu a b d, decide ((s.rx b).toNat ≤ (s.rx a).toNat)),
      (.bp p d, s.rp p), (.bnp p d, !s.rp p)],
    (ic.2 = true → ∃ t, Completes ic.1 s t ∧ s.Branched (s.str.pc + d.signExtend 64 * 4) t) ∧
    (ic.2 = false → Completes ic.1 s s.issued)

/-- 04 R126, R127, R132, Table 8: jumps and calls. The return address, the bundle after the call's, lands in X31 at issue + 1;
a call leaves no loop; a register target that is no multiple of 4 is fault 0x05, and nothing else happens. -/
def Sys2Proof.Rules.JumpsAndCalls : Prop := ∀ (s : State) (a : BitVec 5) (d : BitVec 16),
  s.str.loops.length ≤ 4 →
  let near := s.str.pc + d.signExtend 64 * 4
  let far := s.rx a + d.signExtend 64 * 4
  let ret := s.str.pc + BitVec.ofNat 64 (4 * s.str.len)
  (∃ t, Completes (.j d) s t ∧ s.Branched near t) ∧
  Completes (.call d) s ((s.gives (.x 31 ret) 1).branchTo near) ∧
  (far.toNat % 4 = 0 → (∃ t, Completes (.jr a d) s t ∧ s.Branched far t) ∧
    Completes (.callr a d) s ((s.gives (.x 31 ret) 1).branchTo far)) ∧
  (far.toNat % 4 ≠ 0 → Completes (.jr a d) s (s.takeTrap { code := 0x05, va := far }) ∧
    Completes (.callr a d) s (s.takeTrap { code := 0x05, va := far }))

/-- Branches, jumps and calls (04 R125 to R127, R132). -/
def Obligations.BranchesAndJumps : Prop := Rules.BranchesTaken ∧ Rules.JumpsAndCalls

/-- The loop entry that a loop syllable pushes (04 R128, R129): body start, end address, T iterations, N, S and rotation. -/
def loopEntry (s : State) (e : Word) (total n stages : Nat) (rot : Bool) : Loop :=
  { body := s.str.pc + BitVec.ofNat 64 (4 * s.str.len), last := e, rem := total, n := n, s := stages, rot := rot }

/-- 04 R128 to R130, R133, Table 9: a loop syllable with iterations pushes its entry (a rotating one sets P8 and clears P9 to P15
at issue + 1); one without branches to the bundle after the one that holds E; a fifth entry and an end before the body are
fault 0x01, sub-codes 1 and 2, the lower of them first. -/
def Sys2Proof.Rules.LoopEntry : Prop := ∀ (s : State) (a : BitVec 5) (d : BitVec 16) (k : BitVec 2) (n : Nat) (e : Word),
  n = (s.rx a).toNat % 2 ^ 32 → e = s.str.pc + d.signExtend 64 * 4 →
  ∀ f ∈ [(Instr.loop a d, n, 1, false),
      (.loopRot a k d, if n = 0 then 0 else n + k.toNat, k.toNat + 1, true),
      (.loopRot58 a k d, if n = 0 then 0 else n + (k.toNat + 4), k.toNat + 5, true)],
    (1 ≤ f.2.1 → s.str.loops.length < 4 → s.str.pc + BitVec.ofNat 64 (4 * s.str.len) ≤ e →
      ∃ t, Completes f.1 s t ∧ t.str.loops = loopEntry s e f.2.1 n f.2.2.1 f.2.2.2 :: s.str.loops ∧
        t.str.next = s.str.next ∧ s.SameRegisters t ∧ t.core = s.core ∧ t.pkg = s.pkg ∧
        t.str.pend = s.str.pend ++ if f.2.2.2 = true then (List.range 8).map fun j =>
          { target := .p (BitVec.ofNat 4 (8 + j)) (j == 0), left := 1, baddr := s.str.pc } else []) ∧
    (f.2.1 = 0 → s.str.pc + BitVec.ofNat 64 (4 * s.str.len) ≤ e →
      ∀ m : Nat, m < 8 → (∀ j < m, ∃ w, s.core.word (e + BitVec.ofNat 64 (4 * j)) = some w ∧ w.getLsbD 31 = false) →
        (∃ w, s.core.word (e + BitVec.ofNat 64 (4 * m)) = some w ∧ w.getLsbD 31 = true) →
        Completes f.1 s (s.branchTo (e + BitVec.ofNat 64 (4 * m + 4))).issued) ∧
    (1 ≤ f.2.1 → 4 ≤ s.str.loops.length → Completes f.1 s (s.takeTrap { code := 0x01, sub := 1 })) ∧
    ((f.2.1 = 0 ∨ s.str.loops.length < 4) → e < s.str.pc + BitVec.ofNat 64 (4 * s.str.len) →
      Completes f.1 s (s.takeTrap { code := 0x01, sub := 2 }))

/-- 04 R131: when the bundle that holds the innermost entry's end issues without a taken branch, one iteration is over: with
more to come the body starts again with no empty lc, else the entry is popped and the next bundle follows. Any other bundle
goes on to the next one. (That an entry which the end bundle of an outer loop pushes is then the innermost is the model's
choice: notes/assumptions/95.md.) -/
def Sys2Proof.Rules.LoopControl : Prop := ∀ (s : State) (l : Loop) (rest : List Loop),
  s.str.loops = l :: rest →
  let after := s.str.pc + BitVec.ofNat 64 (4 * s.str.len)
  (s.str.pc ≤ l.last → l.last < after → 1 < l.rem →
    s.loopControl.str.pc = l.body ∧ s.loopControl.str.loops = { l with rem := l.rem - 1 } :: rest ∧
    s.loopControl.str.gap = s.str.gap ∧ s.loopControl.str.x = s.str.x ∧
    (l.rot = false → s.loopControl.str.v = s.str.v ∧ s.loopControl.str.p = s.str.p)) ∧
  (s.str.pc ≤ l.last → l.last < after → l.rem ≤ 1 →
    s.loopControl.str.pc = after ∧ s.loopControl.str.loops = rest ∧ s.loopControl.str.x = s.str.x ∧
    s.loopControl.str.v = s.str.v ∧ s.loopControl.str.p = s.str.p) ∧
  (¬(s.str.pc ≤ l.last ∧ l.last < after) → s.loopControl = s.onStr fun t => { t with pc := after })

/-- 04 R133: rotation gives V(32 + j) the name V(32 + (j + 1) mod 32), a pending write goes with its register, and the stage
predicates move up by one, with P8 for the iteration that begins. -/
def Sys2Proof.Rules.LoopRotation : Prop := ∀ (t : Stream) (begun n : Nat),
  (∀ i : Fin 64, i.val < 32 → (t.rotate begun n).v[i] = t.v[i]) ∧
  (∀ j : Fin 32, vget (t.rotate begun n).v (32 + (j.val + 1) % 32) 0 = vget t.v (32 + j.val) 0) ∧
  (∀ k : Nat, k < 8 → (t.rotate begun n).p.getLsbD k = t.p.getLsbD k) ∧
  (∀ k : Nat, 8 ≤ k → k < 15 → (t.rotate begun n).p.getLsbD (k + 1) = t.p.getLsbD k) ∧
  (t.rotate begun n).p.getLsbD 8 = decide (begun < n) ∧
  (t.rotate begun n).x = t.x ∧ (t.rotate begun n).pend.length = t.pend.length ∧
  (∀ (k : Nat) (r : BitVec 6) (en val : VReg), (t.pend[k]?.map Pending.target) = some (.v r en val) → ∃ q : BitVec 6,
    ((t.rotate begun n).pend[k]?.map Pending.target) = some (.v q en val) ∧
    q.toNat = if r.toNat < 32 then r.toNat else 32 + (r.toNat - 32 + 1) % 32)

/-- Hardware loops (04 R128 to R131, R133). -/
def Obligations.Loops : Prop := Rules.LoopEntry ∧ Rules.LoopControl ∧ Rules.LoopRotation

/-! ### The mask stack, guards and skips -/

/-- 04 R134, Table 11: what each change of the mask stack does where there is room for it; `a` is the top and `b` the entry
below. -/
def Sys2Proof.Rules.MaskStackEffects : Prop := ∀ (a b e : MaskEntry) (r : List MaskEntry),
  (r.length < 16 → (MaskOp.push e).apply r = e :: r) ∧
  (r.length < 15 → MaskOp.dup.apply (a :: r) = a :: a :: r) ∧
  MaskOp.pop.apply (a :: b :: r) = b :: r ∧
  MaskOp.and.apply (a :: b :: r) = (b &&& a) :: r ∧
  MaskOp.or.apply (a :: b :: r) = (b ||| a) :: r ∧
  MaskOp.xor.apply (a :: b :: r) = (b ^^^ a) :: r ∧
  MaskOp.andn.apply (a :: b :: r) = (b &&& ~~~a) :: r ∧
  MaskOp.not.apply (a :: r) = ~~~a :: r ∧
  MaskOp.els.apply (a :: b :: r) = (b &&& ~~~a) :: b :: r

/-- 04 R135; 05 R151: a mask-stack form issues where the depth that it will meet has room for it, and then lands at issue + 1;
else it is fault 0x01, sub-code 3 for a push and 4 for a pop, a combine or MELSE, and changes nothing. MNOT always issues. -/
def Sys2Proof.Rules.MaskStackForms : Prop := ∀ (s : State) (p : BitVec 4), let n := s.str.maskDepth 1
  (n < 16 → Completes .mpushAll s (s.gives (.mask (.push (BitVec.allOnes 1024))) 1) ∧
    Completes .mdup s (s.gives (.mask .dup) 1) ∧
    Completes (.mpushP p) s (s.gives (.mask (.push (if s.rp p then BitVec.allOnes 1024 else 0))) 1)) ∧
  (1 < n → Completes .mpop s (s.gives (.mask .pop) 1) ∧ Completes .mand s (s.gives (.mask .and) 1) ∧
    Completes .mor s (s.gives (.mask .or) 1) ∧ Completes .mxor s (s.gives (.mask .xor) 1) ∧
    Completes .mandn s (s.gives (.mask .andn) 1) ∧ Completes .melse s (s.gives (.mask .els) 1)) ∧
  Completes .mnot s (s.gives (.mask .not) 1) ∧
  (16 ≤ n → ∀ i ∈ [Instr.mpushAll, .mdup, .mpushP p], Completes i s (s.takeTrap { code := 0x01, sub := 3 })) ∧
  (n ≤ 1 → ∀ i ∈ [Instr.mpop, .mand, .mor, .mxor, .mandn, .melse],
    Completes i s (s.takeTrap { code := 0x01, sub := 4 })) ∧
  (s.str.pend = [] → n = s.str.masks.length)

/-- 04 R134, R136, R137: MCNT counts the top's ones at issue; GUARD with Pk = 0 squashes the other slots that its mask names,
and does nothing with Pk = 1; MSKIP notes its count for the test on the next bundle's top. -/
def Sys2Proof.Rules.GuardsAndCounts : Prop := ∀ (s : State) (d : BitVec 5) (p : BitVec 4) (m n : BitVec 8),
  Completes (.mcnt d) s (s.gives (.x d (BitVec.ofNat 64 ((List.range 1024).countP fun k => s.top.getLsbD k))) 1) ∧
  (s.rp p = true → Completes (.guard p m) s s.issued) ∧
  (s.rp p = false → ∃ t, Completes (.guard p m) s t ∧ t = { s.issued with str := { s.issued.str with squash := t.str.squash } } ∧
    ∀ k : Nat, 1 ≤ k → t.str.squash.getLsbD k = m.getLsbD k) ∧
  (n ≠ 0 → Completes (.mskip n) s { s.issued with str := { s.issued.str with skipTest := some n.toNat } }) ∧
  (s.str.skipTest = some n.toNat → s.skipTest.str.skip = if s.top = 0 then n.toNat else s.str.skip) ∧
  (∀ (ps : List Placed) (q : Placed) (i : Instr) (x : Option Nat) (ks : List (Nat × BitVec 4)), q.good = some i →
    q.squashed m = true → issueAll s m x ks (q :: ps) = issueAll s m x ks ps)

/-- The mask stack, GUARD and MSKIP (04 R134 to R137; 05 R151). -/
def Obligations.MasksAndGuards : Prop := Rules.MaskStackDepth ∧ Rules.MaskStackEffects ∧ Rules.MaskStackForms ∧ Rules.GuardsAndCounts

/-! ### System forms and CSRs -/

/-- 04 R141, Table 13; 01 Table 1a: a CSR read lands at issue + 1; one whose value can depend on timing is logged under
code 0x05. The secondary stream may read neither LCC nor VCC (08 R217). -/
def Sys2Proof.Rules.CsrReads : Prop := ∀ (s : State) (d : BitVec 5) (c : BitVec 8), csrListed c = true →
  (s.str.sec = true → c.toNat < 2 → Completes (.csrr d c) s (s.takeTrap { code := 0x03 })) ∧
  ((s.str.sec = true → 2 ≤ c.toNat) → s.csrTimed c = false → Completes (.csrr d c) s (s.gives (.x d (s.csr c)) 1)) ∧
  ((s.str.sec = true → 2 ≤ c.toNat) → s.csrTimed c = true →
    Completes (.csrr d c) s ((s.cause 0x05 (s.csr c)).gives (.x d (s.replayed (s.csr c))) 1)) ∧
  s.csr 0x00 = s.str.lcc.setWidth 64 ∧ s.csr 0x06 = s.core.lid ∧ s.csr 0x07 = BitVec.ofNat 64 s.str.masks.length ∧
  s.csr 0x08 = s.str.spb ∧ s.csr 0x09 = s.str.flags.setWidth 64 ∧ s.csr 0x0A = s.str.rmode ∧
  s.csr 0x0B = BitVec.ofNat 64 s.str.loops.length ∧ s.csr 0x15 = s.core.cntth ∧ s.csr 0x16 = s.core.hpb ∧
  s.csr 0x18 = BitVec.ofNat 64 s.pkg.rtc

/-- 04 R141: a write's new value is formed and checked at issue and effective at issue + 1; a value that breaks a range or a
must-be-0 field is fault 0x04 with the value in AUX0 (SPB, RMODE, NOMLAT, CNTTH and HPB have such limits); a write of a
read-only CSR does nothing. In the secondary stream a write of LCC or VCC is fault 0x03 (08 R217). That CSRS and CSRC of HPB
log nothing, whatever its MISSES, is the model's choice: notes/assumptions/76.md. -/
def Sys2Proof.Rules.CsrWrites : Prop := ∀ (s : State) (a : BitVec 5) (c : BitVec 8), csrListed c = true →
  (s.str.sec = true → c.toNat < 2 → ∀ i ∈ [Instr.csrw a c, .csrs a c, .csrc a c],
    Completes i s (s.takeTrap { code := 0x03 })) ∧
  ((s.str.sec = true → 2 ≤ c.toNat) →
  ∀ f ∈ [(Instr.csrw a c, s.rx a), (.csrs a c, s.csr c ||| s.rx a), (.csrc a c, s.csr c &&& ~~~(s.rx a))],
    let limit : Bool :=
      if c = 0x08 then decide (f.2.toNat < 128)
      else if c = 0x0A then decide (f.2.toNat % 2 ^ 32 < 16)
      else if 0x10 ≤ c.toNat ∧ c.toNat ≤ 0x13 then decide (64 ≤ f.2.toNat ∧ f.2.toNat < 2 ^ 20)
      else if c = 0x15 then decide (f.2.toNat < 2 ^ 16)
      else if c = 0x16 then decide (f.2.toNat % 2 ^ 32 < 2)
      else true
    (c.toNat ∈ [0x08, 0x09, 0x0A, 0x10, 0x11, 0x12, 0x13, 0x15, 0x16] →
      (limit = true → Completes f.1 s (s.gives (.csr c f.2) 1)) ∧
      (limit = false → Completes f.1 s (s.takeTrap { code := 0x04, aux0 := f.2 }))) ∧
    (c.toNat ∉ [0x08, 0x09, 0x0A, 0x10, 0x11, 0x12, 0x13, 0x15, 0x16] → Completes f.1 s s.issued))

/-- 04 R141: a CSR that has been written reads as written, FLAGS in its seven bits, and no other CSR changes. -/
def Sys2Proof.Rules.CsrWriteReads : Prop := ∀ (s : State) (v : Word),
  (∀ c ∈ [0x08#8, 0x0A, 0x10, 0x11, 0x12, 0x13, 0x15, 0x16], (s.landTarget (.csr c v)).csr c = v) ∧
  (s.landTarget (.csr 0x09 v)).csr 0x09 = BitVec.ofNat 64 (v.toNat % 128) ∧
  (∀ c ∈ [0x08#8, 0x09, 0x0A, 0x10, 0x11, 0x12, 0x13, 0x15, 0x16], ∀ e : BitVec 8, csrListed e = true → e ≠ c →
    (s.landTarget (.csr c v)).csr e = s.csr e)

/-- CSRs (04 R141, Table 13). -/
def Obligations.ControlRegisters : Prop := Rules.CsrReads ∧ Rules.CsrWrites ∧ Rules.CsrWriteReads

/-- 04 R138 to R140, Table 12; 18 Table 12: the system and stop forms. RJMARK in a free phase leaves an event that enters no
log but the journal, with code 0x80 and VALUE xa at its GSN, when its bundle has issued (18 R439, R441). -/
def Sys2Proof.Rules.SystemForms : Prop := ∀ (s : State) (d a : BitVec 5) (n : BitVec 10),
  Completes .nop s s.issued ∧
  Completes (.trap n) s (s.takeTrap { code := 0x12, sub := n.setWidth 16, aux0 := n.setWidth 64 }) ∧
  (∃ t, Completes (.svc d a) s t ∧ t.str.svc = some (s.pkg.svcNext, d) ∧
    t.pkg.puppet = s.pkg.puppet ++ [.service s.pkg.svcNext s.core.id s.str.sec s.str.pc s.str.lcc (s.rx a)] ∧
    t.pkg.svcNext = s.pkg.svcNext + 1 ∧ s.SameRegisters t ∧ t.str.pend = s.str.pend ∧ t.core = s.core) ∧
  (∃ t, Completes .yield s t ∧ t.pkg.puppet = s.pkg.puppet ++ [.yield s.core.id s.core.gang s.str.pc] ∧
    t.str = s.issued.str ∧ t.core = s.core) ∧
  (s.core.free = false → Completes (.rjmark a) s s.issued) ∧
  (s.core.free = true → Completes (.rjmark a) s (s.cause 0x80 (s.rx a)).issued ∧
    (s.core.events = [] → (s.cause 0x80 (s.rx a)).issued.recordEvents = s.issued.onPkg fun pk =>
      pk.journalAdd s.core 0x80 s.str.sec s.str.pc s.str.lcc (s.rx a))) ∧
  (∀ (pk : Package) (v : Word), s.core.fn < 17 → (pk.journalAdd s.core 0x80 s.str.sec s.str.pc s.str.lcc v).gsn = pk.gsn + 1 ∧
    ((pk.fnOf s.core.fn).journal ≠ 0 → s.core.replay = false → (pk.fnOf s.core.fn).dropped = false →
      (pk.fnOf s.core.fn).journalIdx < (pk.fnOf s.core.fn).journalCap →
      ((pk.journalAdd s.core 0x80 s.str.sec s.str.pc s.str.lcc v).fnOf s.core.fn).journalIdx =
        (pk.fnOf s.core.fn).journalIdx + 1)) ∧
  Completes (.rescnt d) s ((s.cause 0x05 (s.core.rescnt.setWidth 64)).gives (.x d (s.replayed (s.core.rescnt.setWidth 64))) 1) ∧
  (64 ≤ (s.rx a).toNat → Completes (.clogrd d a) s (s.takeTrap { code := 0x0E, sub := 0x80 })) ∧
  ((s.rx a).toNat < 64 → s.core.clog = [] → s.core.clogOvf = false → Completes (.clogrd d a) s (s.gives (.x d 0) 1)) ∧
  (∀ c, (s.rx a).toNat < 32 → s.core.clog[(s.rx a).toNat]? = some c →
    Completes (.clogrd d a) s ((s.cause 0x05 c.lo).gives (.x d (s.replayed c.lo)) 1))

/-- 04 R139; 18 R442: END ends a stream whose tagged commands have completed and been observed and that owns no plan: its loop
stack is discarded and nothing else changes. DRAIN goes on when everything the stream issued has been performed. -/
def Sys2Proof.Rules.EndAndDrain : Prop := ∀ (s : State),
  ((∀ t < 64, (s.core.tag t).sec = s.str.sec → (s.core.tag t).st ≠ .outstanding ∧ (s.core.tag t).fresh = false) →
    (∀ p, s.core.plan = some p → p.sec ≠ s.str.sec) →
    Completes .endTask s { s.issued with str := { s.issued.str with mode := .ended, loops := [] } }) ∧
  ((s.str.sec = false → s.core.seq = none ∧ s.core.cmdq = [] ∧ s.core.localEnd = 0) → s.unperformed = false →
    Completes .drain s s.issued) ∧
  (s.str.sec = false → s.core.localEnd ≠ 0 → Completes .drain s (s.takeTrap { code := 0x07, sub := 7 }))

/-- The system forms, END and DRAIN (04 R138 to R140; 18 R442). -/
def Obligations.SystemAndStops : Prop := Rules.SystemForms ∧ Rules.EndAndDrain

/-! ### Words and steps -/

/-- Words of the spec's own encoding tables decode to the instructions they stand for: 04 Table 14, 07 Table 3, 08, 11, 12, 13,
14, 16, 17 and 19. -/
def Obligations.DecodeWords : Prop :=
  decodeOp 0x08A00003 = some (.addi 5 0 3) ∧ decodeOp 0x18B00006 = some (.loop 5 6) ∧
  decodeOp 0xA0830C00 = some (.ld 8 6 0 6 0) ∧ decodeOp 0x84E74000 = some (.add 7 7 8) ∧
  decodeOp 0x80000001 = some .endTask ∧ decodeOp 0x50230040 = some (.vld 2 6 0 64) ∧
  decodeOp 0xE8600004 = some (.send 3 4) ∧ decodeOp 0xE8450209 = some (.recv 2 5 9) ∧
  decodeOp 0xA8091432 = some (.amswap 0 9 2 1 1 4 2) ∧ decodeOp 0x38304220 = some (.vfma 3 1 2 1 0) ∧
  decodeOp 0xB012C05F = some (.vcmp 1 11 0 2 1) ∧ decodeOp 0x55324008 = some (.vstg 19 4 8) ∧
  decodeOp 0xDC600100 = some (.mxparm 3 0) ∧ decodeOp 0xDC850010 = some (.mxcall 4 5 16) ∧
  decodeOp 0xE14B0220 = some (.cpyin 10 11 2 0) ∧ decodeOp 0xE1C0080D = some (.tcnt 14 13) ∧
  decodeOp 0xD8C40148 = some (.vgath 12 8 0 0 41) ∧ decodeOp 0xB445151C = some (.vfcmp 4 20 21 0 1) ∧
  decodeOp 0xA8F40531 = some (.amor 7 20 0 1 1 4 1) ∧ decodeOp 0xED35133F = some (.migrate 9 21 63) ∧
  decodeOp 0x5C030200 = some (.mxrcfg 0 3 0) ∧ decodeOp 0x89408018 = some (.movi 10 24)

/-- 03 R86 to R93: decoding the word of a legal syllable, whatever its bit 31, gives the syllable back with every operand. -/
def Obligations.SyllablesRoundTrip : Prop := ∀ (i : Instr) (w : Nat) (stop : Bool),
  encodeOp i = some w → legal i = true →
  w < 2 ^ 31 ∧ decodeOp (w + if stop then 2 ^ 31 else 0) = some i ∧
  decodeSyllable (BitVec.ofNat 32 (w + if stop then 2 ^ 31 else 0)) =
    { stop := stop, major := BitVec.ofNat 5 (w / 2 ^ 26), op := some i }

/-- 13 Table 5, Table 6: the same for the words of the microprogram store. -/
def Sys2Proof.Rules.MicroOpsRoundTrip : Prop := ∀ (i : Instr) (w : Nat),
  encodeMicro i = some w → w < 2 ^ 64 ∧ decodeMicro (BitVec.ofNat 64 w) = some i

/-- The queue of a command entry's instruction. -/
def entryQueue : Instr → Option (BitVec 6)
  | .queueNop q => some q
  | .launch q _ _ _ _ => some q
  | .phaseEnd q _ => some q
  | .condSkip q _ _ _ _ _ => some q
  | .jump q _ => some q
  | .queueCall q _ => some q
  | .queueReturn q => some q
  | .waitValue q _ _ _ _ => some q
  | .writeValue q _ _ _ _ _ => some q
  | .checkpoint q _ _ => some q
  | .digest q _ _ => some q
  | _ => none

/-- 09 Tables 2 and 4: the same for command entries, in the queue they stand in. -/
def Sys2Proof.Rules.EntriesRoundTrip : Prop := ∀ (i : Instr) (w : Nat) (q : BitVec 6),
  encodeEntry i = some w → entryQueue i = some q → w < 2 ^ 256 ∧ decodeEntry q (BitVec.ofNat 256 w) = some i

/-- Decoding gives back what is encoded, for the words of the microprogram store and for command entries (13 Tables 5 and 6; 09 Tables 2 and 4). -/
def Obligations.MicroOpsAndEntriesRoundTrip : Prop := Rules.MicroOpsRoundTrip ∧ Rules.EntriesRoundTrip

/-- 03 R93: a syllable that holds a reserved code or names a forbidden register stops its stream with fault 0x01, sub-code 0,
whatever else holds. -/
def Obligations.IllegalSyllablesTrap : Prop := ∀ (i : Instr) (w : Nat) (s : State),
  encodeOp i = some w → legal i = false → exec i s = .next (s.takeTrap { code := 0x01 })

/-- A step runs the decoded instruction: where the word at the PC ends its bundle and decodes to the legal instruction `i`, the
step is the run of `i`, after which its events enter the cause log (18 R437), the stream goes on (01 R17, R23; 04 R131) and the
part of the lc is over. The first
hypothesis on `exec` says that the syllable neither waits nor faults on the state that the bundle reads. -/
def Obligations.StepRunsInstruction : Prop := ∀ (s u t : State) (w : BitVec 32) (i : Instr) (ps : List Placed),
  s.AtIssue → s.core.word s.str.pc = some w → w.getLsbD 31 = true → decodeOp w.toNat = some i → legal i = true →
  place 0xFF [decodeSyllable w] = some ps →
  exec i s.inHand = .next u → u.str.mode ≠ .stopped → u.str.held = false →
  exec i (s.counted ps) = .next t → t.str.mode ≠ .stopped → t.str.held = false → t.overBounds = false →
  step s = .next ((t.recordEvents.goOn false).partDone ps)

/-- The same where the instruction raises an exception: the step takes it before the bundle (01 R44). The state it is taken in
keeps what the attempt itself left (a reported deferred fault, a cached translation). -/
def Obligations.StepTakesException : Prop := ∀ (s u : State) (w : BitVec 32) (i : Instr) (ps : List Placed) (r : StopRec),
  s.AtIssue → s.core.word s.str.pc = some w → w.getLsbD 31 = true → decodeOp w.toNat = some i → legal i = true → i ≠ .nop →
  place 0xFF [decodeSyllable w] = some ps →
  exec i s.inHand = .next u → u.str.mode = .stopped → u.str.stopRec = some r →
  step s = .next ((keep (s.onStr fun t => { t with held := false }) u).takeTrap r.trap)

/-- 01 R44, R48; 18 R419: taking an exception stops the stream before its bundle with the record of the cause, the bundle and
its lc, posts the record to the Puppeteer, and changes no register and no result on its way; every other stream of the core
stays as it is. -/
def Sys2Proof.Rules.ExceptionEntry : Prop := ∀ (s : State) (t : Trap),
  s.StoppedBy (s.takeTrap t) t ∧
  ((s.takeTrap t).str.stopRec.map StopRec.baddr) = some s.str.pc ∧
  (s.core.lock = false → ((s.takeTrap t).str.stopRec.map StopRec.lc) = some s.str.lcc) ∧
  (∃ r, (s.takeTrap t).str.stopRec = some r ∧
    (t.code ≠ 0x11 → (s.takeTrap t).pkg.puppet = s.pkg.puppet ++
      [.stop s.core.id s.str.sec r s.core.slot (BitVec.ofNat 2048 (recordBits s.core s.pkg.podn s.str.sec r))]))

/-- 18 R427: the return from an exception resumes the stream before the same bundle, with every register and result as it was;
the first bundle passes the breakpoints (20 R456). -/
def Sys2Proof.Rules.ExceptionReturn : Prop := ∀ (s : State),
  s.leaveTrap.str.mode = .running ∧ s.leaveTrap.str.stopRec = none ∧ s.leaveTrap.str.fresh = true ∧
  s.leaveTrap.str.pc = s.str.pc ∧ s.SameRegisters s.leaveTrap ∧ s.leaveTrap.str.pend = s.str.pend ∧
  s.leaveTrap.core = s.core ∧ s.leaveTrap.pkg = s.pkg

/-- Taking an exception and returning from it (01 R44, R48; 18 R419, R427). -/
def Obligations.ExceptionEntryAndReturn : Prop := Rules.ExceptionEntry ∧ Rules.ExceptionReturn

/-- Every instruction of the table answers a next state in every state of the machine: its effect, a wait, or the exception that
the spec gives; none is refused, and none ends the machine. -/
def Sys2Proof.Rules.EveryInstructionAnswers : Prop := ∀ (i : Instr) (s : State), ∃ t, exec i s = .next t

/-- A step answers a next state unless an input is at hand that no agent of the spec can give. -/
def Sys2Proof.Rules.StepAnswers : Prop := ∀ s : State,
  ((∀ p, s.inbox.head? = some p → isInput p.1 p.2 = true) → ∃ t, step s = .next t) ∧
  (∀ p, s.inbox.head? = some p → isInput p.1 p.2 = false → step s = .fault .badInput)

/-- No instruction of the table is refused, and only an input that no agent can give ends the machine. -/
def Obligations.MachineAnswers : Prop := Rules.EveryInstructionAnswers ∧ Rules.StepAnswers

/-- 01 R17, R21; 13 R330, R340: no syllable changes, when it issues, the scalar, predicate and vector registers of its stream,
its mask stack, SPB, PC or LCC, nor the matrix parameters, the shape records and the accumulators of its core: these change
only where results land, at the end of an lc, and by loop control. -/
def Obligations.SyllablesWriteAtLanding : Prop := ∀ (i : Instr) (w : Nat) (s t : State),
  encodeOp i = some w → exec i s = .next t →
  t.str.x = s.str.x ∧ t.str.p = s.str.p ∧ t.str.v = s.str.v ∧ t.str.masks = s.str.masks ∧ t.str.spb = s.str.spb ∧
  t.str.pc = s.str.pc ∧ t.str.lcc = s.str.lcc ∧ t.core.mp = s.core.mp ∧ t.core.g = s.core.g ∧ t.core.acc = s.core.acc

/-- Every memory of the machine keeps its canonical form over every step (notes/assumptions/2.md: the form is the model's). -/
def Obligations.StepKeepsCanonicalMemory : Prop := ∀ (s t : State),
  s.canonical = true → step s = .next t → t.canonical = true

/-- Two memories in canonical form that read alike are the same data. -/
def Sys2Proof.Rules.CanonicalMemoryIsUnique : Prop := ∀ (m n : Memory), m.wf = true → n.wf = true →
  (∀ a, m.read a = n.read a) → m = n

/-- A byte written is read back at its address and nowhere else; `n` bytes written are read back as written. -/
def Sys2Proof.Rules.MemoryReadsBack : Prop := ∀ (m : Memory), m.wf = true →
  (∀ (a b : Nat) (v : Byte), (m.write a v).read b = if b = a then v else m.read b) ∧
  (∀ (a b : Nat) (vs : List Byte), (m.writeN a vs).read b =
    if h : a ≤ b ∧ b < a + vs.length then vs[b - a]'(by omega) else m.read b) ∧
  (∀ (a : Nat) (vs : List Byte), (m.writeN a vs).readN a vs.length = vs)

/-- The memories of the model read back as written (notes/assumptions/2.md). -/
def Obligations.MemoriesAreData : Prop := Rules.CanonicalMemoryIsUnique ∧ Rules.MemoryReadsBack

/-- The machine after reset: no stream runs, X1 to X31, the predicates, the vector registers, FLAGS and SPB are 0, the mask stack
holds one entry of ones (01 R25), LCC is 0 (01 R11), NOMLAT0 to NOMLAT3 are 720, 1440, 2880 and 5760 (04 Table 13), every queue
is disabled with LOG2N = 4 (09 Table 1), every slot is FREE, no function but the physical one is enabled, and the boot has not
begun (22 R501). That the registers of other units are 0 at reset is the model's choice (notes/assumptions/3.md, 4.md). -/
def Obligations.ResetState : Prop :=
  let s := State.reset
  s.str.mode = .idle ∧ (∀ r, s.rx r = 0) ∧ (∀ r : BitVec 4, r ≠ 0 → s.rp r = false) ∧ (∀ r, s.rv r = 0) ∧ s.str.flags = 0 ∧
  s.str.rmode = 0 ∧ s.str.spb = 0 ∧ s.str.masks = [BitVec.allOnes 1024] ∧ s.str.loops = [] ∧ s.str.lcc = 0 ∧
  s.csr 0x10 = 720 ∧ s.csr 0x11 = 1440 ∧ s.csr 0x12 = 2880 ∧ s.csr 0x13 = 5760 ∧ s.csr 0x15 = 0 ∧ s.csr 0x16 = 0 ∧
  (∀ q, (s.pkg.queue q).en = false ∧ (s.pkg.queue q).log2n = 4 ∧ (s.pkg.queue q).fault = 0) ∧
  (∀ k, k < 256 → (s.pkg.slot k).st = .free) ∧ (∀ f, f < 17 → (s.pkg.fnOf f).enabled = decide (f = 0)) ∧
  s.pkg.bootst = 0 ∧ s.pkg.dev = [] ∧ s.others = [] ∧ s.inbox = [] ∧ s.canonical = true

/-! ### Scratchpad and global memory, scalar -/

/-- 04 R124, Table 6; 03 Table 6: a scratchpad load samples its bytes at issue and lands them, zero- or sign-extended, at
issue + 4; a store writes the low bytes of xs at issue + 1. A latency class sets MF. Alignment is checked before bounds
(03 R99): faults 0x05 and 0x06. -/
def Sys2Proof.Rules.ScratchpadAccess : Prop := ∀ (s : State) (d a : BitVec 5) (c : BitVec 2) (z : BitVec 3) (im : BitVec 9)
    (n p : Nat) (la : Word) (mf : Flg),
  n = 2 ^ (z.toNat / 2) → la = s.rx a + BitVec.ofInt 64 (im.toInt * n) → p = la.toNat + s.str.spb.toNat % 128 * 32768 →
  mf = (if c = 0 then 0 else flMF) →
  (z ≠ 7 → la.toNat % n ≠ 0 → Completes (.ld d a c z im) s (s.takeTrap { code := 0x05, va := la })) ∧
  (z ≠ 7 → la.toNat % n = 0 → s.core.inBounds s.str.spb la n = false →
    Completes (.ld d a c z im) s (s.takeTrap { code := 0x06, va := la })) ∧
  (z ≠ 7 → la.toNat % n = 0 → s.core.inBounds s.str.spb la n = true → s.Free [(p, n)] → s.touchesObject false la.toNat n = false →
    Completes (.ld d a c z im) s ((s.sampled [(p, n)]).gives (.x d (if z.toNat % 2 = 1
      then BitVec.ofInt 64 (toSigned (8 * n) (s.core.spad.num p n)) else BitVec.ofNat 64 (s.core.spad.num p n))) 4 mf)) ∧
  (z.toNat % 2 = 0 → la.toNat % n ≠ 0 → Completes (.st d a c z im) s (s.takeTrap { code := 0x05, va := la })) ∧
  (z.toNat % 2 = 0 → la.toNat % n = 0 → s.core.inBounds s.str.spb la n = false →
    Completes (.st d a c z im) s (s.takeTrap { code := 0x06, va := la })) ∧
  (z.toNat % 2 = 0 → la.toNat % n = 0 → s.core.inBounds s.str.spb la n = true → s.Free [(p, n)] →
    Completes (.st d a c z im) s ((s.storing 1 (cellsAt p (toBytes n (s.rx d).toNat)) 2).flagged 1 mf))

/-- 01 R38: a store effect that is applied changes the bytes it names and no other byte of the pool; where two of its cells name
one byte, the last stands. -/
def Sys2Proof.Rules.StoreEffectWrites : Prop := ∀ (k : Core) (e : StoreEff) (a : Nat), k.spad.wf = true → e.xor = false →
  (k.applyEff e).spad.read a = (match e.cells.reverse.find? (fun c => c.1 == a) with
    | some c => c.2
    | none => k.spad.read a) ∧
  (k.applyEff e).acc = k.acc ∧ (k.applyEff e).mp = k.mp ∧ (k.applyEff e).g = k.g

/-- Scalar loads and stores in L-space (04 R124, Table 6; 01 R38). -/
def Obligations.ScalarScratchpad : Prop := Rules.ScratchpadAccess ∧ Rules.StoreEffectWrites

/-- 10 R280 to R283; 11 R291: a global load that goes through lands the bytes that its stream sees; a store departs with the low
bytes of xs. A misaligned address is fault 0x05 before any other. -/
def Sys2Proof.Rules.GlobalAccess : Prop := ∀ (s : State) (d a : BitVec 5) (c : BitVec 2) (z : BitVec 3) (im : BitVec 9)
    (n : Nat) (va : Word), n = 2 ^ (z.toNat / 2) → va = s.rx a + BitVec.ofInt 64 (im.toInt * n) →
  (z ≠ 7 → va.toNat % n ≠ 0 → Completes (.ldg d a c z im) s (s.takeTrap { code := 0x05, va := va })) ∧
  (z.toNat % 2 = 0 → va.toNat % n ≠ 0 → Completes (.stg d a z im) s (s.takeTrap { code := 0x05, va := va })) ∧
  (z ≠ 7 → va.toNat % n = 0 → s.Reaches { r := true } [(va, n)] → ∃ t, Completes (.ldg d a c z im) s t ∧
    s.Awaits (.x d (if z.toNat % 2 = 1 then BitVec.ofInt 64 (toSigned (8 * n) (ofBytes (s.gbytes va n)))
      else BitVec.ofNat 64 (ofBytes (s.gbytes va n)))) c.toNat (s.readFault va (s.pkg.physOf s.core.fn va n)) 0 t) ∧
  (z.toNat % 2 = 0 → va.toNat % n = 0 → s.Reaches { w := true } [(va, n)] → ∃ t, Completes (.stg d a z im) s t ∧
    s.Issues (.bytes ((s.pkg.physOf s.core.fn va n).zip (toBytes n (s.rx d).toNat))) t ∧ t.str.pend = s.str.pend)

/-- 10 R270: a global access whose translations and keys are at hand and that fails a check stops its bundle with the lowest fault, and
nothing of it takes effect. -/
def Sys2Proof.Rules.GlobalAccessFaults : Prop := ∀ (s : State) (d a : BitVec 5) (c : BitVec 2) (z : BitVec 3) (im : BitVec 9)
    (n : Nat) (va : Word) (f : Trap), n = 2 ^ (z.toNat / 2) → va = s.rx a + BitVec.ofInt 64 (im.toInt * n) →
  va.toNat % n = 0 → s.acquiring true [(bits va.toNat 56 0, n)] = false →
  (z ≠ 7 → s.Ready { r := true } [(va, n)] →
    s.pkg.rangesFault s.core.fn { r := true } [(va, n)] = some f → Completes (.ldg d a c z im) s (s.takeTrap f)) ∧
  (z.toNat % 2 = 0 → s.Ready { w := true } [(va, n)] →
    s.pkg.rangesFault s.core.fn { w := true } [(va, n)] = some f →
    Completes (.stg d a z im) s (s.takeTrap f))

/-- 11 R293; 10 R266; 22 R497: a write that is performed changes the device bytes it names and no others, where their granules
stand under the keys of its pages; one under another key leaves every other byte as the key of the write reads it (the model's
reading of an encrypted granule: notes/assumptions/89.md). -/
def Sys2Proof.Rules.PerformedWrites : Prop := ∀ (pk : Package) (fn : Nat),
  (∀ cells : List (PAddr × Byte), (∀ c ∈ cells, c.1.tier = 0 ∧ sget 0 pk.enc (c.1.addr / 32) = c.1.kid) →
    (pk.perform fn (.bytes cells)).dev = pk.dev.writeCells (cells.map fun c => (c.1.addr, c.2)) ∧
    (pk.perform fn (.bytes cells)).enc = pk.enc ∧ (pk.perform fn (.bytes cells)).host = pk.host ∧
    (pk.perform fn (.bytes cells)).peer = pk.peer ∧ (pk.perform fn (.bytes cells)).keys = pk.keys) ∧
  (∀ (p q : PAddr) (b : Byte), p.tier = 0 → q.tier = 0 → q.kid = p.kid → pk.dev.wf = true → swf 0 0 pk.enc = true →
    (pk.perform fn (.bytes [(p, b)])).readPA q = if q.addr = p.addr then b else pk.readPA q)

/-- Scalar loads and stores in global space (10 R270, R280 to R283; 11 R291, R293). -/
def Obligations.ScalarGlobal : Prop := Rules.GlobalAccess ∧ Rules.GlobalAccessFaults ∧ Rules.PerformedWrites

/-! ### Atomics -/

/-- 11 Table 5, ops 0 to 9: what an atomic on `w` bits leaves at its target; that of AMCAS, op 1, where the old value is the one
it compares with. -/
def Sys2Proof.Rules.AtomicFunctions : Prop := ∀ (w old data : Nat), (w = 32 ∨ w = 64) → old < 2 ^ w → data < 2 ^ w →
  atomicNew 0 w old data = data ∧ atomicNew 1 w old data = data ∧ atomicNew 2 w old data = (old + data) % 2 ^ w ∧
  (∀ k, (atomicNew 3 w old data).testBit k = (old.testBit k && data.testBit k)) ∧
  (∀ k, (atomicNew 4 w old data).testBit k = (old.testBit k || data.testBit k)) ∧
  (∀ k, (atomicNew 5 w old data).testBit k = (old.testBit k != data.testBit k)) ∧
  toSigned w (atomicNew 6 w old data) = min (toSigned w old) (toSigned w data) ∧
  toSigned w (atomicNew 7 w old data) = max (toSigned w old) (toSigned w data) ∧
  atomicNew 8 w old data = min old data ∧ atomicNew 9 w old data = max old data

/-- The atomics that name a data register, with their operation codes (11 Table 5). -/
def wordAtomics (d a b : BitVec 5) (p w : BitVec 1) (c : BitVec 3) (o : BitVec 2) : List (Instr × Nat) :=
  [(.amswap d a b p w c o, 0), (.amcas d a b p w c o, 1), (.amadd d a b p w c o, 2), (.amand d a b p w c o, 3),
   (.amor d a b p w c o, 4), (.amxor d a b p w c o, 5), (.ammin d a b p w c o, 6), (.ammax d a b p w c o, 7),
   (.amminu d a b p w c o, 8), (.ammaxu d a b p w c o, 9)]

/-- 11 R309 to R313, Table 5, in L-space: the old value lands in xd at issue + 4, and the new one, unless AMCAS finds its
comparand missing, is a store effect of the next lc. A release first waits for the stream's earlier accesses, an acquire for
its earlier acquires (11 R297). (That MF of an ordered form lands at issue + 4 for X0 too is the model's choice:
notes/assumptions/83.md.) -/
def Sys2Proof.Rules.ScratchpadAtomics : Prop := ∀ (s : State) (d a b : BitVec 5) (w : BitVec 1) (c : BitVec 3) (o : BitVec 2)
    (n p old : Nat), n = (if w = 1 then 8 else 4) → p = (s.rx a).toNat + s.str.spb.toNat % 128 * 32768 →
  old = s.core.spad.num p n → c.toNat < 6 → (s.rx a).toNat % n = 0 → s.core.inBounds s.str.spb (s.rx a) n = true →
  s.Free [(p, n)] → (o.getLsbD 1 = true → s.unperformed = false) → (o.getLsbD 0 = true → s.unacquired = false) →
  ∀ f ∈ wordAtomics d a b 0 w c o, ∃ t, Completes f.1 s t ∧
    t.str.pend = s.str.pend ++ [{ target := .x d (BitVec.ofNat 64 old), left := 4, flags := atomMf false false o c, baddr := s.str.pc }] ∧
    t.core.stores = s.core.stores ++ (if f.2 = 1 ∧ old ≠ (s.rx d).toNat % 2 ^ (8 * n) then [] else
      [{ cells := cellsAt p (toBytes n (atomicNew f.2 (8 * n) old ((s.rx b).toNat % 2 ^ (8 * n)))), left := 1
         seq := 16 * s.core.issue + (if s.str.sec then 8 else 0) + 2, sec := s.str.sec }]) ∧
    s.SameRegisters t ∧ t.core.spad = s.core.spad ∧ t.pkg = s.pkg ∧ t.str.held = false ∧ t.str.mode = s.str.mode

/-- Word atomics in L-space, and what each leaves (11 R309 to R313, Table 5). -/
def Obligations.AtomicsInPool : Prop := Rules.AtomicFunctions ∧ Rules.ScratchpadAtomics

/-- 11 R309 to R312 in global space: an atomic whose old value nobody asks for departs and is performed in order; one with a
result is performed when it issues, after the stream's earlier writes, and its old value returns as a reply. (That a reply's
atomic is performed at issue is notes/assumptions/18.md.) -/
def Sys2Proof.Rules.GlobalAtomics : Prop := ∀ (s : State) (d a b : BitVec 5) (w : BitVec 1) (c : BitVec 3) (o : BitVec 2)
    (n : Nat) (loc : PAddr), n = (if w = 1 then 8 else 4) → c.toNat < 6 → (s.rx a).toNat % n = 0 →
  s.Reaches { r := true, w := true } [(s.rx a, n)] → (s.pkg.physOf s.core.fn (s.rx a) n).head? = some loc →
  (o.getLsbD 1 = true → s.unperformed = false) → (o.getLsbD 0 = true → s.unacquired = false) →
  ∀ f ∈ wordAtomics d a b 1 w c o, tierFault s.core.fn (s.rx a) f.2 s.pkg = none →
    (d = 0 → 2 ≤ f.2 → ∃ t, Completes f.1 s t ∧
      s.Issues (.atomic loc (BitVec.ofNat 4 f.2) n ((s.rx b).toNat % 2 ^ (8 * n))) t (o.getLsbD 1)
        (if o.getLsbD 0 = true then some (s.rx a) else none)) ∧
    (d ≠ 0 → ∃ (t : State) (p : Pending), Completes f.1 s t ∧ t.str.pend = s.str.pend ++ [p] ∧
      p.target = .x d (BitVec.ofNat 64 (s.view.numPA loc n)) ∧ t.str.gq = placesOf s.str.gq ∧ s.SameRegisters t ∧
      t.pkg.dev = (if f.2 = 1 ∧ s.view.numPA loc n ≠ (s.rx d).toNat % 2 ^ (8 * n) then s.view.dev else
        (s.view.perform s.core.fn (.atomic loc 0 n
          (atomicNew f.2 (8 * n) (s.view.numPA loc n) ((s.rx b).toNat % 2 ^ (8 * n))))).dev))

/-- 11 R309, Table 4: an operation that the target's tier does not list is fault 0x0C, sub-code 4, with the leaf in AUX0. -/
def Sys2Proof.Rules.AtomicTiers : Prop := ∀ (s : State) (va : Word) (e : TlbEnt) (op : Nat), op < 16 →
  s.pkg.translate s.core.fn va = .ok e →
  (leafTier e.leaf = 0 → tierFault s.core.fn va op s.pkg = none) ∧
  (leafTier e.leaf = 1 → tierFault s.core.fn va op s.pkg =
    if op < 3 then none else some { code := 0x0C, sub := 4, va := va, aux0 := e.leaf }) ∧
  (leafTier e.leaf = 2 → tierFault s.core.fn va op s.pkg =
    if op < 10 then none else some { code := 0x0C, sub := 4, va := va, aux0 := e.leaf })

/-- Word atomics in global space, and the tiers that list them (11 R309 to R312, Table 4). -/
def Obligations.AtomicsInGlobalSpace : Prop := Rules.AtomicTiers ∧ Rules.GlobalAtomics

/-- 02 R82 to R85; 11 Table 5, ops 10 to 15, in L-space: a wide add adds the exact addend, rounded to the region's exponent, to the
128-bit cell modulo 2^128 as a store effect of the next lc; WRD rounds the cell once in RMODE.MODE. In global space a wide add
departs, and WRD returns as a reply. (That the reply brings the cell's value at issue, and that WRD into X0 sets its flags when
the reply would land, is the model's reading, notes/assumptions/18.md; where MF lands, its choice, notes/assumptions/83.md.) -/
def Obligations.WideCells : Prop := ∀ (s : State) (d a b : BitVec 5) (w : BitVec 1) (c : BitVec 3) (o : BitVec 2),
  c.toNat < 6 → (s.rx a).toNat % 16 = 0 → (o.getLsbD 1 = true → s.unperformed = false) → (o.getLsbD 0 = true → s.unacquired = false) →
  let adds (p : BitVec 1) (e : Int) : List (Instr × Nat × Int × Flg) :=
    [(.waddF64 a b p c o, 10, wideAddend (fdecode F64 (s.rx b).toNat) e),
     (.waddF32 a b p c o, 11, wideAddend (fdecode F32 ((s.rx b).toNat % 2 ^ 32)) e),
     (.waddF16 a b p c o, 12, wideAddend (fdecode F16 ((s.rx b).toNat % 2 ^ 16)) e),
     (.waddBf16 a b p c o, 13, wideAddend (fdecode BF16 ((s.rx b).toNat % 2 ^ 16)) e),
     (.waddI64 a b p c o, 14, (s.rx b).toInt, 0)]
  let value (e : Int) (old : Nat) : Nat × Flg :=
    fround (if w = 1 then F64 else F32) s.rnd false (decide (toSigned 128 old < 0)) (toSigned 128 old).natAbs e
  (∀ (p old : Nat) (e : Int), p = (s.rx a).toNat + s.str.spb.toNat % 128 * 32768 → old = s.core.spad.num p 16 →
    e = s.wideExp false (s.rx a) → s.core.inBounds s.str.spb (s.rx a) 16 = true → s.Free [(p, 16)] →
    (∀ f ∈ adds 0 e, ∃ t, Completes f.1 s t ∧
      t.core.stores = s.core.stores ++ [{ cells := cellsAt p (toBytes 16 ((old + wrap 128 f.2.2.1) % 2 ^ 128)), left := 1
                                          seq := 16 * s.core.issue + (if s.str.sec then 8 else 0) + 2, sec := s.str.sec }] ∧
      t.str.pend = s.str.pend ++ (if f.2.2.2 ||| atomMf false false o c = 0 then [] else
        [{ target := .none, left := 1, flags := f.2.2.2 ||| atomMf false false o c, baddr := s.str.pc }]) ∧
      s.SameRegisters t ∧ t.core.spad = s.core.spad) ∧
    (∃ t, Completes (.wrd d a 0 w c o) s t ∧ s.SameRegisters t ∧ t.core.spad = s.core.spad ∧ t.core.stores = s.core.stores ∧
      t.str.pend = s.str.pend ++ [{ target := .x d (BitVec.ofNat 64 (value e old).1), left := 4
                                    flags := (value e old).2 ||| atomMf false true o c, baddr := s.str.pc }])) ∧
  (∀ (loc : PAddr) (e : Int), e = s.wideExp true (s.rx a) → s.Reaches { r := true, w := true } [(s.rx a, 16)] →
    (s.pkg.physOf s.core.fn (s.rx a) 16).head? = some loc →
    (∀ f ∈ adds 1 e, tierFault s.core.fn (s.rx a) f.2.1 s.pkg = none → ∃ t, Completes f.1 s t ∧
      s.Issues (.atomic loc (BitVec.ofNat 4 f.2.1) 16 (wrap 128 f.2.2.1)) t (o.getLsbD 1)
        (if o.getLsbD 0 = true then some (s.rx a) else none)) ∧
    (tierFault s.core.fn (s.rx a) 15 s.pkg = none → d ≠ 0 → ∃ (t : State) (p : Pending), Completes (.wrd d a 1 w c o) s t ∧
      s.SameRegisters t ∧ t.core.spad = s.core.spad ∧ t.str.pend = s.str.pend ++ [p] ∧
      p.target = .x d (BitVec.ofNat 64 (value e (s.view.numPA loc 16)).1)) ∧
    (tierFault s.core.fn (s.rx a) 15 s.pkg = none → ∃ t, Completes (.wrd 0 a 1 w c o) s t ∧ s.SameRegisters t ∧
      t.core.spad = s.core.spad ∧ t.str.pend = s.str.pend ++ [{
        target := .none, left := if s.str.sec = true then 1 else (vget s.core.nomlat 0 0).toNat % 2 ^ 20
        flags := (value e (s.view.numPA loc 16)).2 ||| atomMf true true o c, baddr := s.str.pc }]))

/-! ### Vectors -/

/-- 05 R143 to R149, Tables 1 and 3: the integer forms of major 12, with VMAC and VMACW. The b operand is a vector element or, in
the scalar form, the low w bits of xb; a shift by w or more leaves 0 or the sign. -/
def Obligations.VectorIntegerResults : Prop := ∀ (s : State) (d a b : BitVec 6) (t : BitVec 3) (k : BitVec 1) (w : Nat),
  vbLegal b k = true → w = intWidth t →
  let xn (i : Nat) : Nat := el (s.rv a).toNat w i
  let yn (i : Nat) : Nat := if k = 1 then (s.rx (b.setWidth 5)).toNat % 2 ^ w else el (s.rv b).toNat w i
  let x (i : Nat) : Int := readEl (intSigned t) w (xn i)
  let y (i : Nat) : Int := readEl (intSigned t) w (yn i)
  let n (i : Nat) : Nat := if k = 1 then (s.rx (b.setWidth 5)).toNat else el (s.rv b).toNat w i
  let lo := intMin (intSigned t) w
  let hi := intMax (intSigned t) w
  (∀ f ∈ [(Instr.vadd d a b t k, fun i => x i + y i), (.vsub d a b t k, fun i => x i - y i),
      (.vmin d a b t k, fun i => min (x i) (y i)), (.vmax d a b t k, fun i => max (x i) (y i)),
      (.vmul d a b t k, fun i => x i * y i), (.vmulh d a b t k, fun i => x i * y i / 2 ^ w),
      (.vmac d a b t k, fun i => (el (s.rv d).toNat w i : Int) + x i * y i),
      (.vand d a b t k, fun i => ((xn i &&& yn i : Nat) : Int)), (.vor d a b t k, fun i => ((xn i ||| yn i : Nat) : Int)),
      (.vxor d a b t k, fun i => ((xn i ^^^ yn i : Nat) : Int)),
      (.vandn d a b t k, fun i => ((xn i &&& (2 ^ w - 1 - yn i) : Nat) : Int)),
      (.vsll d a b t k, fun i => if n i < w then (xn i : Int) * 2 ^ n i else 0),
      (.vsrl d a b t k, fun i => if n i < w then (xn i : Int) / 2 ^ n i else 0),
      (.vsra d a b t k, fun i => toSigned w (xn i) / 2 ^ min (n i) (w - 1))],
    ∃ u, Completes f.1 s u ∧ s.GivesElements d w 2 (fun i => (wrap w (f.2 i), 0)) u) ∧
  (∀ f ∈ [(Instr.vadds d a b t k, fun i => x i + y i), (.vsubs d a b t k, fun i => x i - y i)],
    ∃ u, Completes f.1 s u ∧ s.GivesElements d w 2 (fun i =>
      (wrap w (max lo (min hi (f.2 i))), if lo ≤ f.2 i ∧ f.2 i ≤ hi then 0 else flSA)) u) ∧
  (legal (.vmacw d a b t k) = true → ∃ u, Completes (.vmacw d a b t k) s u ∧ s.GivesGroup d 4 w 2 (fun i =>
    (wrap (4 * w) ((el (s.rv (d + BitVec.ofNat 6 (i % 4))).toNat (4 * w) (i / 4) : Int) + x i * y i), 0)) u)

/-- 05 R150, R151, R153: a compare pushes its entry at issue + 2 or, in floating point, + 5, if the stack will have room then;
else it is fault 0x01, sub-code 3. -/
def Obligations.VectorCompares : Prop := ∀ (s : State) (c : BitVec 3) (a b : BitVec 6) (t : BitVec 3) (k : BitVec 1),
  vbLegal b k = true →
  let y (w i : Nat) : Nat := if k = 1 then (s.rx (b.setWidth 5)).toNat % 2 ^ w else el (s.rv b).toNat w i
  (c.toNat < 6 → let w := intWidth t
    let p (i : Nat) : Int := readEl (intSigned t) w (el (s.rv a).toNat w i)
    let q (i : Nat) : Int := readEl (intSigned t) w (y w i)
    (s.str.maskDepth 2 < 16 → ∃ u, Completes (.vcmp c a b t k) s u ∧ s.GivesMask w 2 (fun i =>
      ([decide (p i = q i), decide (p i ≠ q i), decide (p i < q i), decide (p i ≤ q i), decide (q i < p i),
        decide (q i ≤ p i)].getD c.toNat false, 0)) u) ∧
    (16 ≤ s.str.maskDepth 2 → Completes (.vcmp c a b t k) s (s.takeTrap { code := 0x01, sub := 3 }))) ∧
  (c ≠ 7 → vfpType t = true →
    (s.str.maskDepth 5 < 16 → ∃ u, Completes (.vfcmp c a b t k) s u ∧ s.GivesMask (fpWidth t) 5 (fun i =>
      fcompare (fmtOf t) c.toNat (el (s.rv a).toNat (fpWidth t) i) (y (fpWidth t) i)) u) ∧
    (16 ≤ s.str.maskDepth 5 → Completes (.vfcmp c a b t k) s (s.takeTrap { code := 0x01, sub := 3 })))

/-- 05 R147, R152 to R155, Tables 2 and 3: the floating forms of majors 13 and 14 round once, each element alone, in RMODE.MODE;
the sign forms act on the pattern and set no flag. -/
def Obligations.VectorFloatResults : Prop := ∀ (s : State) (d a b : BitVec 6) (t : BitVec 3) (k : BitVec 1) (w : Nat),
  vbLegal b k = true → vfpType t = true → w = fpWidth t →
  let f := fmtOf t
  let xn (i : Nat) : Nat := el (s.rv a).toNat w i
  let yn (i : Nat) : Nat := if k = 1 then (s.rx (b.setWidth 5)).toNat % 2 ^ w else el (s.rv b).toNat w i
  let x (i : Nat) : FVal := fdecode f (xn i)
  let y (i : Nat) : FVal := fdecode f (yn i)
  let z (i : Nat) : FVal := fdecode f (el (s.rv d).toNat w i)
  let m := s.rnd
  (∀ o ∈ [(Instr.vfadd d a b t k, 5, fun i => faddV f m (x i) (y i)), (.vfsub d a b t k, 5, fun i => faddV f m (x i) (y i).neg),
      (.vfmul d a b t k, 5, fun i => fmulR f m (x i) (y i)), (.vfmin d a b t k, 5, fun i => fminmax f false (xn i) (yn i)),
      (.vfmax d a b t k, 5, fun i => fminmax f true (xn i) (yn i)), (.vfdiv d a b t k, 14, fun i => fdivR f m (x i) (y i)),
      (.vfsqrt d a t, 14, fun i => fsqrtR f m (x i)), (.vfrsqrt d a t, 14, fun i => frsqrtR f m (x i)),
      (.vfexp2 d a t, 14, fun i => fexp2R f m (x i)), (.vflog2 d a t, 14, fun i => flog2R f m (x i)),
      (.vfneg d a t, 2, fun i => ((xn i + 2 ^ (w - 1)) % 2 ^ w, 0)), (.vfabs d a t, 2, fun i => (xn i % 2 ^ (w - 1), 0)),
      (.vfma d a b t k, 5, fun i => ffmaR f m (x i) (y i) (z i)), (.vfnma d a b t k, 5, fun i => ffmaR f m (x i).neg (y i) (z i)),
      (.vfmsub d a b t k, 5, fun i => ffmaR f m (x i) (y i) (z i).neg)],
    ∃ u, Completes o.1 s u ∧ s.GivesElements d w o.2.1 o.2.2 u) ∧
  (t.toNat < 3 → d.toNat % 2 = 0 → ∃ u, Completes (.vfmaw d a b t k) s u ∧
    let wide := if t = 0 then F64 else F32
    s.GivesGroup d 2 w 5 (fun i => ffmaR wide m (x i) (y i)
      (fdecode wide (el (s.rv (d + BitVec.ofNat 6 (i % 2))).toNat (2 * w) (i / 2)))) u)

/-- The masked conversion between elements of `ws` and of `wd` bits (05 R145, R157). -/
def ConvertsAs (s : State) (d a : BitVec 6) (ws wd : Nat) (f : Nat → Nat → Nat × Flg) (mf : Flg) (u : State) : Prop :=
  if ws < wd then s.GivesGroup d (wd / ws) ws 4 (fun i => f i (el (s.rv a).toNat ws i)) u mf
  else s.GivesElements d wd 4
    (fun i => f i (el (s.rv (a + BitVec.ofNat 6 (i % (ws / wd)))).toNat ws (i / (ws / wd)))) u mf

/-- 05 R156 to R160; 02 R64, R70 to R72; 03 Table 6: VCVT. An exact conversion takes no mode (another rm than 5 and SAT set MF);
one to E4M3, E5M2 or BF16 with rm 4, or rm 5 and RMODE.SR, rounds element i by coin i and counts in SRCNT (here without ENT);
any other rounds in the mode of rm; the block formats fill or read a whole register. -/
def Obligations.VectorConversions : Prop := ∀ (s : State) (d a : BitVec 6) (r : BitVec 3) (x : BitVec 1) (m : BitVec 2)
    (c e : BitVec 3) (l : BitVec 2) (md : Rnd) (mf : Flg),
  legal (.vcvt d a r x m c e l) = true →
  ((r.toNat ≤ 3 ∧ md = rndOf r.toNat ∧ mf = 0) ∨ (r = 4 ∧ md = .rne ∧ mf = flMF) ∨ (r = 5 ∧ md = s.rnd ∧ mf = 0)) →
  let w := cvtWidths l c e
  let block := l = 0 ∧ (c = 6 ∨ e = 6)
  let coins := (l = 0 ∨ l = 2) ∧ (e = 1 ∨ e = 3 ∨ e = 4) ∧ (r = 4 ∨ (r = 5 ∧ s.str.sr = true))
  let sat : Flg := if x = 1 ∧ ¬ ((l = 0 ∨ l = 2) ∧ (e = 3 ∨ e = 4)) then flMF else 0
  (block → let o := if e = 6 then quantiseReg (mxWidth m) md (s.rv a).toNat else decodeReg (mxWidth m) (s.rv a).toNat
    Completes (.vcvt d a r x m c e l) s (s.gives (.v d (BitVec.allOnes 4096) o.1) 4 (o.2 ||| mf))) ∧
  (¬ block → cvtExact l c e = true → ∃ u, Completes (.vcvt d a r x m c e l) s u ∧
    ConvertsAs s d a w.1 w.2 (fun _ v => cvtElem l c e .rne (x == 1) v)
      ((if r = 5 then 0 else flMF) ||| (if x = 1 then flMF else 0)) u) ∧
  (¬ block → cvtExact l c e = false → coins → s.str.ent = false → ∃ u, Completes (.vcvt d a r x m c e l) s u ∧
    ConvertsAs s.srCounted d a w.1 w.2 (fun i v =>
      cvtElem l c e (.sr ((coin s.srSeed (BitVec.ofNat 64 i)).toNat / 2 ^ 32)) (x == 1) v) sat u) ∧
  (¬ block → cvtExact l c e = false → ¬ coins → ∃ u, Completes (.vcvt d a r x m c e l) s u ∧
    ConvertsAs s d a w.1 w.2 (fun _ v => cvtElem l c e md (x == 1) v) (mf ||| sat) u)

/-- 05 R161, Table 5: the bit forms of major 16, bit by bit. -/
def Sys2Proof.Rules.VectorBitResults : Prop := ∀ (s : State) (d a b : BitVec 6),
  let x (i j : Nat) : Bool := (el (s.rv a).toNat 64 i).testBit j
  let y (i j : Nat) : Bool := (el (s.rv b).toNat 64 i).testBit j
  let below (i j : Nat) : Nat := (List.range j).countP (y i)
  (∀ o ∈ [(Instr.vgf2mm d a b, fun i j => (List.range 8).foldl (fun r q => r != (x i (j / 8 * 8 + q) && y i (8 * q + j % 8))) false),
      (.vpdep d a b, fun i j => y i j && x i (below i j)),
      (.vpext d a b, fun i j => (List.range 64).any fun q => y i q && x i q && below i q == j),
      (.vbperm d a b, fun i j => !((s.rv b).getLsbD (8 * j + 7)) && x i ((s.rv b).toNat / 2 ^ (8 * j) % 64))],
    ∃ (v : Nat → Nat) (u : State), Completes o.1 s u ∧ s.GivesElements d 64 4 (fun i => (v i, 0)) u ∧
      ∀ i j : Nat, i < 64 → j < 64 → (v i).testBit j = o.2 i j) ∧
  (∃ u, Completes (.vpopc d a) s u ∧ s.GivesElements d 64 4 (fun i => ((List.range 64).countP (x i), 0)) u)

/-- 05 R162, R163, Table 6: permutes and moves. An index beyond the last element gives 0; VILV and VDILV write two whole registers,
whatever the mask. -/
def Sys2Proof.Rules.PermuteResults : Prop := ∀ (s : State) (d a b : BitVec 6) (xa xb g : BitVec 5) (z : BitVec 3) (w n : Nat),
  z.toNat < 5 → w = permWidth z → n = 4096 / w →
  let x (q : Nat) : Nat := if q < n then el (s.rv a).toNat w q else 0
  let y (q : Nat) : Nat := if q < n then el (s.rv b).toNat w q else 0
  (∀ o ∈ [(Instr.vbcast d xb z, fun _ => (s.rx xb).toNat), (.vbcaste d a xb z, fun _ => x (s.rx xb).toNat),
      (.vslideup d a xb z, fun i => if (s.rx xb).toNat ≤ i then x (i - (s.rx xb).toNat) else 0),
      (.vslidedn d a xb z, fun i => x (i + (s.rx xb).toNat))],
    ∃ u, Completes o.1 s u ∧ s.GivesElements d w 3 (fun i => (o.2 i, 0)) u) ∧
  (0 < z.toNat → z.toNat < 4 → ∃ u, Completes (.vperm d a b z) s u ∧ s.GivesElements d w 3 (fun i => (x (y i), 0)) u) ∧
  (z = 0 → b.toNat % 2 = 0 → ∃ u, Completes (.vperm d a b z) s u ∧ s.GivesElements d w 3 (fun i =>
    (x (el (s.rv (b + BitVec.ofNat 6 (i % 2))).toNat 16 (i / 2)), 0)) u) ∧
  (∃ en val : VReg, Completes (.vins d xa xb z) s (s.gives (.v d en val) 3) ∧
    (∀ i k : Nat, i < n → k < w → en.getLsbD (w * i + k) = (s.active w i && decide (i = (s.rx xa).toNat))) ∧
    ∀ i : Nat, i < n → i = (s.rx xa).toNat → el val.toNat w i = (s.rx xb).toNat % 2 ^ w) ∧
  Completes (.vext g a xb z) s (s.gives (.x g (BitVec.ofNat 64 (x (s.rx xb).toNat))) 3) ∧
  (d.toNat % 2 = 0 → ∀ o ∈ [(Instr.vilv d a b z, fun k => if k % 2 = 0 then x (k / 2) else y (k / 2)),
      (.vdilv d a b z, fun k => if k % n * 2 + k / n < n then x (k % n * 2 + k / n) else y (k % n * 2 + k / n - n))],
    ∃ lo hi : VReg, Completes o.1 s ((s.gives (.v d (BitVec.allOnes 4096) lo) 3).gives (.v (d + 1) (BitVec.allOnes 4096) hi) 3) ∧
      ∀ k : Nat, k < 2 * n → (if k < n then el lo.toNat w k else el hi.toNat w (k - n)) = o.2 k)

/-- The bit and permute forms of the vector majors (05 Tables). -/
def Obligations.VectorBitsAndPermutes : Prop := Rules.VectorBitResults ∧ Rules.PermuteResults

/-- 05 R164, R165, Table 7: reductions of the active elements in ascending order, zero- or sign-extended to 64 bits, with their
start values where none is active. -/
def Obligations.ReductionResults : Prop := ∀ (s : State) (d : BitVec 5) (a : BitVec 6) (t : BitVec 3),
  let vals (w : Nat) : List Nat := ((List.range (4096 / w)).filter (s.active w)).map fun i => el (s.rv a).toNat w i
  let w := intWidth t
  let ints := (vals w).map (readEl (intSigned t) w)
  Completes (.vredsum d a t) s (s.gives (.x d (BitVec.ofInt 64 (ints.foldl (· + ·) 0))) 4) ∧
  Completes (.vredmin d a t) s (s.gives (.x d (BitVec.ofInt 64 (ints.foldl min (intMax (intSigned t) w)))) 4) ∧
  Completes (.vredmax d a t) s (s.gives (.x d (BitVec.ofInt 64 (ints.foldl max (intMin (intSigned t) w)))) 4) ∧
  Completes (.vredand d a t) s (s.gives (.x d (BitVec.ofNat 64 ((vals w).foldl (· &&& ·) (2 ^ w - 1)))) 4) ∧
  Completes (.vredor d a t) s (s.gives (.x d (BitVec.ofNat 64 ((vals w).foldl (· ||| ·) 0))) 4) ∧
  Completes (.vredxor d a t) s (s.gives (.x d (BitVec.ofNat 64 ((vals w).foldl (· ^^^ ·) 0))) 4) ∧
  (t.toNat < 6 → let f := fmtOf t
    let q := (vals (fpWidth t)).map (widen64 f)
    let qf := orFlags (q.map (·.2))
    let nums := (q.map (·.1)).filter fun x => !(fdecode F64 x).isNaN
    (∀ u ∈ [treeSum add64 (bitLen (4096 / fpWidth t) - 1) (
        (List.range (4096 / fpWidth t)).map fun i => if s.active (fpWidth t) i
          then (widen64 f (el (s.rv a).toNat (fpWidth t) i)).1 else 2 ^ 63, qf)],
      Completes (.vfredsum d a t) s (s.gives (.x d (BitVec.ofNat 64 u.1)) 8 u.2)) ∧
    (q = [] → Completes (.vfredmin d a t) s (s.gives (.x d 0x7FF0000000000000) 8) ∧
      Completes (.vfredmax d a t) s (s.gives (.x d 0xFFF0000000000000) 8) ∧ Completes (.vfredmaxa d a t) s (s.gives (.x d 0) 8)) ∧
    (∀ x xs, q = x :: xs → ∀ o ∈ [(Instr.vfredmin d a t, false), (.vfredmax d a t, true)],
      let v := xs.foldl (fun v y => ((fminmax F64 o.2 v.1 y.1).1, v.2 ||| (fminmax F64 o.2 v.1 y.1).2)) (x.1, (0 : Flg))
      Completes o.1 s (s.gives (.x d (BitVec.ofNat 64 v.1)) 8 (qf ||| v.2))) ∧
    (q ≠ [] → Completes (.vfredmaxa d a t) s (s.gives (.x d (BitVec.ofNat 64
      (if nums = [] then F64.nan else nums.foldl (fun m x => max m (x % 2 ^ 63)) 0))) 8 qf)))

/-! ### Summaries -/

/-- The summaries at `as` are placed as 06 R171 asks, and nothing stands in the way of reading and writing them. -/
def SummariesAt (s : State) (kind : Nat) (as : List Word) : Prop :=
  (∀ a ∈ as, a.toNat % 64 = 0 ∧ a.toNat % 32768 + sumSize kind ≤ 32768 ∧ s.core.inBounds s.str.spb a (sumSize kind) = true) ∧
  s.Free (as.map fun a => (a.toNat + s.str.spb.toNat % 128 * 32768, sumSize kind))

/-- `t` is `s` with a summary result on its way (06 R179, R180): `n` lc from now the bytes stand in the pool, unless nothing was
built, and the flags are set; registers, scratchpad and store effects are as they were. -/
def Chained (s : State) (kind : Nat) (a : Word) (n : Nat) (bs : List Byte) (fl : Flg) (write : Bool) (t : State) : Prop :=
  t.core.chain = s.core.chain ++ [{ kind := kind, addr := a.toNat + s.str.spb.toNat % 128 * 32768, bytes := bs, left := n, write := write
                                    seq := 16 * s.core.issue + (if s.str.sec then 8 else 0) + 5, sec := s.str.sec }] ∧
  t.str.pend = s.str.pend ++ (if fl = 0 then [] else [{ target := .none, left := n, flags := fl, baddr := s.str.pc }]) ∧
  s.SameRegisters t ∧ t.core.spad = s.core.spad ∧ t.core.stores = s.core.stores ∧ t.str.held = false ∧ t.str.mode = s.str.mode

/-- 06 R171 to R197, Table 6: the summary forms. A build inserts the active elements in ascending order and, with none active,
hands on the summary unchanged and writes nothing; a merge takes the source xa into the destination xb; a summary that is no
summary of its kind is fault 0x0E with the sub-code of 06 R172. (QSINIT here without ENT.) -/
def Sys2Proof.Rules.SummaryResults : Prop := ∀ (s : State) (d a b : BitVec 5) (v g : BitVec 6) (t : BitVec 3),
  let xb := s.rx b
  let vals (w : Nat) : List Nat := ((List.range (4096 / w)).filter (s.active w)).map fun i => el (s.rv v).toNat w i
  let wts : List Nat := ((List.range 128).filter (s.active 32)).map fun i => el (s.rv g).toNat 32 i
  (∀ (kind : Nat), SummariesAt s kind [xb] → let raw := ofBytes (s.sumRead kind xb)
    (kind = 1 → s.str.ent = false → ∃ u, Completes (.qsinit a b) s u ∧
      Chained s 1 xb 2 (Sketch.empty (sketchSeed s (s.rx a)).toNat).bytes 0 true u) ∧
    (kind = 2 → ∃ u, Completes (.hhinit b) s u ∧ Chained s 2 xb 2 (toBytes 1024 2) 0 true u) ∧
    (kind = 3 → ∃ u, Completes (.dcinit a b) s u ∧ Chained s 3 xb 2 (toBytes 1088 (3 + (s.rx a).toNat * 2 ^ 64)) 0 true u) ∧
    (kind = 1 → t.toNat < 3 → (∀ q, Sketch.parse raw = .ok q →
        let xs := (vals (fpWidth t)).map fun x => if t = 0 then x else (fconvert (fmtOf t) F32 .rne false x).1
        ∃ u, Completes (.qsadd v b t) s u ∧ Chained s 1 xb 24
          (if xs = [] then s.sumRead 1 xb else (xs.foldl Sketch.insert q).bytes)
          (if xs = [] then 0 else (xs.foldl Sketch.insert q).fl) (decide (xs ≠ [])) u) ∧
      (∀ e, Sketch.parse raw = .error e → ∃ u : State, u.str = s.str ∧
        Completes (.qsadd v b t) s (u.takeTrap { code := 0x0E, sub := e }))) ∧
    (kind = 2 → t = 3 ∨ t = 5 → ∀ h, Hitters.parse raw = .ok h →
      let r := (vals (intWidth t)).foldl (fun h k => h.insert k 1) h
      ∃ u, Completes (.hhadd v b t) s u ∧ Chained s 2 xb 16 (if vals (intWidth t) = [] then s.sumRead 2 xb else r.bytes)
        (if vals (intWidth t) = [] then 0 else r.fl) (decide (vals (intWidth t) ≠ [])) u) ∧
    (kind = 2 → ∀ h, Hitters.parse raw = .ok h →
      let r := (((vals 32).zip wts).filter (·.2 != 0)).foldl (fun h k => h.insert k.1 k.2) h
      ∃ u, Completes (.hhaddw g v b) s u ∧ Chained s 2 xb 16 (if vals 32 = [] then s.sumRead 2 xb else r.bytes)
        (if vals 32 = [] then 0 else r.fl) (decide (vals 32 ≠ [])) u) ∧
    (kind = 3 → t = 3 ∨ t = 5 → ∀ x, Distinct.parse raw = .ok x →
      ∃ u, Completes (.dcadd v b t) s u ∧ Chained s 3 xb 6
        (if vals (intWidth t) = [] then s.sumRead 3 xb else ((vals (intWidth t)).foldl Distinct.insert x).bytes) 0
        (decide (vals (intWidth t) ≠ [])) u) ∧
    let p := xb.toNat + s.str.spb.toNat % 128 * 32768
    (kind = 1 → ∀ q, Sketch.parse raw = .ok q → let r := q.quantile ((s.rx a).toNat % 2 ^ 32)
      Completes (.qsquant d a b) s ((s.sampled [(p, 2048)]).gives (.x d (BitVec.ofNat 64 r.1)) 16 r.2)) ∧
    (kind = 2 → ∀ h, Hitters.parse raw = .ok h → Completes (.hhtop g a b) s ((s.sampled [(p, 1024)]).gives
      (.v g (BitVec.allOnes 4096) (vreg 128 (((h.es.drop (s.rx a).toNat).take 32).map Hitter.bits))) 6)) ∧
    (kind = 3 → ∀ x, Distinct.parse raw = .ok x →
      Completes (.dcest d b) s ((s.sampled [(p, 1088)]).gives (.x d (BitVec.ofNat 64 x.estimate)) 12))) ∧
  (∀ o ∈ [(Instr.qsmrg a b, 1, 40), (.hhmrg a b, 2, 24), (.dcmrg a b, 3, 4)], SummariesAt s o.2.1 [xb, s.rx a] →
    ∀ r, sumMerge o.2.1 (s.sumRead o.2.1 xb) (s.sumRead o.2.1 (s.rx a)) = .ok r →
    ∃ u, Completes o.1 s u ∧ Chained s o.2.1 xb o.2.2 r.1 r.2 true u)

/-- 06 R171, R172; 03 R99: a summary that is not a multiple of 64 or leaves its bank is fault 0x05 at every form that names it,
one outside L-space 0x06, and a malformed one, or two sets of different SALT in a merge, 0x0E with the sub-code of 06 Table 1;
nothing of the form takes effect. -/
def Sys2Proof.Rules.SummaryFaults : Prop := ∀ (s : State) (d a b : BitVec 5) (v g : BitVec 6) (t u : BitVec 3),
  t.toNat < 3 → u = 3 ∨ u = 5 →
  let xa := s.rx a
  let xb := s.rx b
  let merges : List (Instr × Nat × List Word) := [(.qsmrg a b, 1, [xb, xa]), (.hhmrg a b, 2, [xb, xa]), (.dcmrg a b, 3, [xb, xa])]
  let readers : List (Instr × Nat × List Word) := [(.qsadd v b t, 1, [xb]), (.hhadd v b u, 2, [xb]), (.hhaddw g v b, 2, [xb]),
    (.dcadd v b u, 3, [xb]), (.qsquant d a b, 1, [xb]), (.hhtop g a b, 2, [xb]), (.dcest d b, 3, [xb])]
  let inits : List (Instr × Nat × List Word) := [(.qsinit a b, 1, [xb]), (.hhinit b, 2, [xb]), (.dcinit a b, 3, [xb])]
  let misplaced (kind : Nat) (x : Word) : Prop := x.toNat % 64 ≠ 0 ∨ 32768 < x.toNat % 32768 + sumSize kind
  let outside (kind : Nat) (x : Word) : Prop := s.core.inBounds s.str.spb x (sumSize kind) = false
  (∀ o ∈ inits ++ readers ++ merges, (∃ x ∈ o.2.2, misplaced o.2.1 x) →
    ∃ x ∈ o.2.2, misplaced o.2.1 x ∧ Completes o.1 s (s.takeTrap { code := 0x05, va := x })) ∧
  (∀ o ∈ inits ++ readers ++ merges, (∀ x ∈ o.2.2, ¬ misplaced o.2.1 x) → (∃ x ∈ o.2.2, outside o.2.1 x) →
    ∃ x ∈ o.2.2, outside o.2.1 x ∧ Completes o.1 s (s.takeTrap { code := 0x06, va := x })) ∧
  (∀ o ∈ readers, SummariesAt s o.2.1 o.2.2 → ∀ e, sumBad o.2.1 (s.sumRead o.2.1 xb) = some e →
    Completes o.1 s (s.takeTrap { code := 0x0E, sub := e })) ∧
  (∀ o ∈ merges, SummariesAt s o.2.1 o.2.2 → ∀ e, sumMerge o.2.1 (s.sumRead o.2.1 xb) (s.sumRead o.2.1 xa) = .error e →
    Completes o.1 s (s.takeTrap { code := 0x0E, sub := e })) ∧
  (∀ (kind : Nat) (x : Byte) (bs : List Byte), 1 ≤ kind → kind ≤ 3 → x.toNat ≠ kind → sumBad kind (x :: bs) = some 0x20)

/-- 06 R174, R184 to R187: the procedures on a sketch. A value is counted, bounds MIN and MAX and joins level 0 (always, while BASE
is 0), and a NaN is counted apart; a level of 56 items is halved by one coin into the next; a merge adds the counts and joins the
levels of sketches with one BASE; the quantile is the item at which the running weight reaches ceil(q W). -/
def Sys2Proof.Rules.SketchLaws : Prop := ∀ (q r : Sketch) (x : Nat),
  let at_ (q : Sketch) (l : Nat) : List Nat := q.lv.getD l []
  let rest (q : Sketch) : Prop := ∀ l ∈ q.lv, l.length < 56
  let items : List (Nat × Nat) := q.lv.zipIdx.flatMap fun l => l.1.map fun x => (x, 2 ^ (q.base + l.2))
  let total (p : Nat → Bool) : Nat := ((items.filter fun i => p (f32Key i.1)).map (·.2)).sum
  let c := coin (BitVec.ofNat 64 q.seed) (BitVec.ofNat 64 q.ccnt)
  (∀ xs : List Nat, (f32Sort xs).Perm xs ∧ (f32Sort xs).Pairwise (fun a b => f32Key a ≤ f32Key b) ∧
    ∀ i : Nat, (evens xs)[i]? = xs[2 * i]? ∧ (odds xs)[i]? = xs[2 * i + 1]?) ∧
  (f32NaN x = true → q.insert x = { q with nan := (q.nan + 1) % 2 ^ 32, fl := q.fl ||| flNV }) ∧
  (f32NaN x = false → (q.insert x).count = (q.count + 1) % 2 ^ 64 ∧ (q.insert x).nan = q.nan ∧ (q.insert x).seed = q.seed ∧
    (f32NaN q.mn = false → f32Key (q.insert x).mn = min (f32Key q.mn) (f32Key x)) ∧
    (f32NaN q.mx = false → f32Key (q.insert x).mx = max (f32Key q.mx) (f32Key x)) ∧
    (q.base = 0 → rest q → (at_ q 0).length < 55 → (q.insert x).lv = q.lv.set 0 (at_ q 0 ++ [x]) ∧ (q.insert x).base = 0 ∧
      (q.insert x).ccnt = q.ccnt)) ∧
  (rest q → q.settle = q) ∧
  (q.lv.length = 8 → (at_ q 0).length = 56 → (∀ l, 1 ≤ l → l < 8 → (at_ q l).length < 28) → q.settle.lv =
      (q.lv.set 1 (at_ q 1 ++ if c.getLsbD 63 = true then odds (f32Sort (at_ q 0)) else evens (f32Sort (at_ q 0)))).set 0 [] ∧
    q.settle.ccnt = (q.ccnt + 1) % 2 ^ 64 ∧ q.settle.base = q.base) ∧
  (at_ q 0 = [] → q.base < 63 → q.rebase = { q with lv := q.lv.tail ++ [[]], base := q.base + 1 }) ∧
  ((q.merge r).count = (q.count + r.count) % 2 ^ 64 ∧ (q.merge r).nan = (q.nan + r.nan) % 2 ^ 32 ∧ (q.merge r).seed = q.seed ∧
    (f32NaN q.mn = false → f32NaN r.mn = false → f32Key (q.merge r).mn = min (f32Key q.mn) (f32Key r.mn)) ∧
    (f32NaN q.mx = false → f32NaN r.mx = false → f32Key (q.merge r).mx = max (f32Key q.mx) (f32Key r.mx)) ∧
    (q.base = r.base → (∀ l ∈ List.zipWith (· ++ ·) q.lv r.lv, l.length < 56) → (q.merge r).lv = List.zipWith (· ++ ·) q.lv r.lv ∧
      (q.merge r).base = q.base ∧ (q.merge r).ccnt = q.ccnt)) ∧
  (q.count = 0 ∨ f32NaN x = true ∨ (∃ m e, fdecode F32 x = .fin true m e ∧ m ≠ 0) ∨ (∃ b, fdecode F32 x = .inf b) →
    q.quantile x = (F32.nan, flNV)) ∧
  (q.count ≠ 0 → (∀ b e, fdecode F32 x = .fin b 0 e → q.quantile x = (q.mn, 0)) ∧ q.quantile 0x3F800000 = (q.mx, 0) ∧
    ∀ m k : Nat, fdecode F32 x = .fin false m (-(k : Int)) → 0 < m → m < 2 ^ k →
      (items = [] → q.quantile x = (F32.nan, flNV)) ∧
      (items ≠ [] → (q.quantile x).2 = 0 ∧ (q.quantile x).1 ∈ items.map (·.1) ∧
        let t := (m * (items.map (·.2)).sum + 2 ^ k - 1) / 2 ^ k
        total (fun key => decide (key < f32Key (q.quantile x).1)) < t ∧ t ≤ total fun key => decide (key ≤ f32Key (q.quantile x).1)))

/-- 06 R189, R190: the procedures on a heavy-hitter list. A key that is listed gains its weight, clamped with SA; another takes a free
entry or the place of the one with the smallest COUNT and, among equals, the smallest KEY. A merge gives every kept key the sum of
its COUNTs, where a full list counts its smallest COUNT for a key it does not list, whichever operand is the source. -/
def Sys2Proof.Rules.HittersLaws : Prop := ∀ (h h' : Hitters) (k w : Nat),
  let sat (n : Nat) : Nat := min n (2 ^ 32 - 1)
  let fl (n : Nat) : Flg := if n < 2 ^ 32 then 0 else flSA
  let low (h : Hitters) : Nat := if h.es.length = 63 then (h.es.map Hitter.count).min?.getD 0 else 0
  let cnt (h : Hitters) (k : Nat) : Nat := match h.es.find? (·.key == k) with | some e => e.count | none => low h
  (h.insert k w).total = (h.total + w) % 2 ^ 64 ∧
  (∀ e ∈ h.es, e.key = k → (∀ x ∈ h.es, x.key = k → x = e) →
    (h.insert k w).es = h.es.map (fun x => if x.key = k then { x with count := sat (e.count + w) } else x) ∧
    (h.insert k w).fl = h.fl ||| fl (e.count + w)) ∧
  ((∀ x ∈ h.es, x.key ≠ k) → h.es.length < 63 → (h.insert k w).es = h.es ++ [{ key := k, count := w, err := 0 }] ∧
    (h.insert k w).fl = h.fl) ∧
  ((∀ x ∈ h.es, x.key ≠ k) → 63 ≤ h.es.length → ∃ e ∈ h.es, (∀ x ∈ h.es, e.count < x.count ∨ (e.count = x.count ∧ e.key ≤ x.key)) ∧
    (h.insert k w).es = h.es.map (fun x => if x.key = e.key then { key := k, count := sat (e.count + w), err := e.count } else x) ∧
    (h.insert k w).fl = h.fl ||| fl (e.count + w)) ∧
  (h.merge h').total = (h.total + h'.total) % 2 ^ 64 ∧ (h.merge h').es.length ≤ 63 ∧
  (∀ e ∈ (h.merge h').es, e.count = sat (cnt h e.key + cnt h' e.key) ∧ ∃ x ∈ h.es ++ h'.es, x.key = e.key) ∧
  (h.merge h').es = (h'.merge h).es

/-- 06 R193 to R195: the procedures on a distinct-count set. A key raises one register to the leading zeros of its hash, plus 1; a merge
takes the larger of each pair of registers where the SALTs agree; the estimate of an empty set is 0, and that of one without an
empty register is 755540 / Z, rounded. -/
def Sys2Proof.Rules.DistinctLaws : Prop := ∀ (d e : Distinct) (k : Nat), d.reg.length = 1024 → e.reg.length = 1024 →
  let h := (coin (BitVec.ofNat 64 d.salt ^^^ 0x5851F42D4C957F2D) (BitVec.ofNat 64 k)).toNat
  let j := h / 2 ^ 54
  let x := h % 2 ^ 54
  let at_ (d : Distinct) (i : Nat) : Nat := d.reg.getD i 0
  (d.insert k).adds = (d.adds + 1) % 2 ^ 64 ∧ (d.insert k).salt = d.salt ∧
  (∀ i, i ≠ j → at_ (d.insert k) i = at_ d i) ∧ (x = 0 → at_ (d.insert k) j = max (at_ d j) 55) ∧
  (∀ rho, 1 ≤ rho → rho ≤ 54 → 2 ^ (54 - rho) ≤ x → x < 2 ^ (55 - rho) → at_ (d.insert k) j = max (at_ d j) rho) ∧
  (d.salt ≠ e.salt → d.merge e = .error 0x23) ∧
  (d.salt = e.salt → ∃ r, d.merge e = .ok r ∧ r.salt = d.salt ∧ r.adds = (d.adds + e.adds) % 2 ^ 64 ∧
    ∀ i < 1024, at_ r i = max (at_ d i) (at_ e i)) ∧
  ((∀ i < 1024, at_ d i = 0) → d.estimate = 0) ∧
  ((∀ i < 1024, at_ d i ≠ 0) → d.estimate = (fdivR F32 .rne (.fin false 755540 0)
    (fdecode F32 (fround F32 .rne false false ((d.reg.map fun r => 2 ^ (55 - r)).sum) (-55)).1)).1)

/-- 06 R172, R186, R190, R194, R197: a merge of the bytes of two summaries of one kind gives those of their merged contents, and that of
two lists is the same whichever is the source. -/
def Sys2Proof.Rules.SummaryMerges : Prop := ∀ (x y : List Byte),
  (∀ p q, Sketch.parse (ofBytes x) = .ok p → Sketch.parse (ofBytes y) = .ok q →
    sumMerge 1 x y = .ok ((p.merge q).bytes, (p.merge q).fl)) ∧
  (∀ p q, Hitters.parse (ofBytes x) = .ok p → Hitters.parse (ofBytes y) = .ok q →
    sumMerge 2 x y = .ok ((p.merge q).bytes, (p.merge q).fl)) ∧
  (∀ p q, Distinct.parse (ofBytes x) = .ok p → Distinct.parse (ofBytes y) = .ok q →
    sumMerge 3 x y = (p.merge q).map fun r => (r.bytes, 0)) ∧
  sumMerge 2 x y = sumMerge 2 y x

/-- Summaries: their forms, placement and shapes, and the procedures of the three kinds (06 R171 to R197). -/
def Obligations.SummaryForms : Prop := Rules.SummaryResults ∧ Rules.SummaryFaults ∧ Rules.SketchLaws ∧ Rules.HittersLaws ∧ Rules.DistinctLaws ∧ Rules.SummaryMerges

/-! ### Vector memory -/

/-- 05 R166 to R170, Tables 8 and 9; 03 Table 6: vector loads sample the active elements at issue and land them at issue + 5;
vector stores write them at issue + 2, the higher element standing where two name one address. Bytes that are not active
(01 R27) meet no check but those of placement (05 R167), and a form with no active element touches and checks nothing. -/
def Obligations.VectorScratchpad : Prop := ∀ (s : State) (d : BitVec 6) (a : BitVec 5) (c : BitVec 2) (im : BitVec 9)
    (z : BitVec 3) (ix : BitVec 6) (mf : Flg), mf = (if c = 0 then 0 else flMF) →
  let off := s.str.spb.toNat % 128 * 32768
  let bytes := (List.range 512).filter (s.active 8)
  (∀ (la : Word) (p : Nat), la = s.rx a + BitVec.ofInt 64 (im.toInt * 512) → p = la.toNat + off →
    (bytes = [] → Completes (.vld d a c im) s (s.gives (.v d 0 0) 5 mf) ∧ Completes (.vst d a c im) s (s.flagged 1 mf)) ∧
    (bytes ≠ [] → la.toNat % 512 ≠ 0 → ∀ i ∈ [Instr.vld d a c im, .vst d a c im],
      Completes i s (s.takeTrap { code := 0x05, va := la })) ∧
    (bytes ≠ [] → la.toNat % 512 = 0 → s.core.inBounds s.str.spb la 512 = false → ∀ i ∈ [Instr.vld d a c im, .vst d a c im],
      Completes i s (s.takeTrap { code := 0x06, va := la })) ∧
    (bytes ≠ [] → la.toNat % 512 = 0 → s.core.inBounds s.str.spb la 512 = true → s.Free (s.activePool p) →
      ((∀ r ∈ activeRanges la (actives 8 s.top), s.touchesObject false r.1.toNat r.2 = false) → ∃ u,
        Completes (.vld d a c im) s u ∧ (s.sampled (s.activePool p)).GivesElements d 8 5 (fun i => ((s.core.spad.read (p + i)).toNat, 0)) u mf) ∧
      Completes (.vst d a c im) s ((s.storing 2
        (bytes.map fun i => (p + i, BitVec.ofNat 8 (el (s.rv d).toNat 8 i))) 6).flagged 1 mf))) ∧
  (∀ (n : Nat) (la : Word) (p : Nat), 1 ≤ z.toNat → z.toNat ≤ 4 → n = 2 ^ (z.toNat - 1) →
    la = s.rx a + BitVec.ofInt 64 (im.toInt * n) → p = la.toNat + off → (∃ i < 512 / n, s.active (8 * n) i = true) →
    la.toNat % n = 0 → s.core.inBounds s.str.spb la n = true → s.Free [(p, n)] → s.touchesObject false la.toNat n = false →
    ∃ u, Completes (.vldB d a c z im) s u ∧
      (s.sampled [(p, n)]).GivesElements d (8 * n) 5 (fun _ => (s.core.spad.num p n, 0)) u mf) ∧
  (∀ (n : Nat) (la : Word), 1 ≤ z.toNat → z.toNat ≤ 4 → n = 2 ^ (z.toNat - 1) → la = s.rx a + BitVec.ofInt 64 (im.toInt * n) →
    ((∀ i < 512 / n, s.active (8 * n) i = false) → Completes (.vldB d a c z im) s (s.gives (.v d 0 0) 5 mf)) ∧
    ((∃ i < 512 / n, s.active (8 * n) i = true) →
      (la.toNat % n ≠ 0 → Completes (.vldB d a c z im) s (s.takeTrap { code := 0x05, va := la })) ∧
      (la.toNat % n = 0 → s.core.inBounds s.str.spb la n = false →
        Completes (.vldB d a c z im) s (s.takeTrap { code := 0x06, va := la })))) ∧
  (∀ (n : Nat) (es : List Nat), n = [4, 2, 8].getD (z.toNat % 3) 0 → z.toNat < 6 →
    es = (List.range (512 / n)).filter (s.active (8 * n)) →
    let i : Instr := if z.toNat < 3 then .vgath d a c z ix else .vscat d a c z ix
    let la (i : Nat) : Word := s.rx a + BitVec.ofNat 64 (el (s.rv ix).toNat (8 * n) i * n)
    (es = [] → Completes i s (if z.toNat < 3 then s.gives (.v d 0 0) 5 mf else s.flagged 1 mf)) ∧
    (es ≠ [] → (s.rx a).toNat % n ≠ 0 → Completes i s (s.takeTrap { code := 0x05, va := s.rx a })) ∧
    ((s.rx a).toNat % n = 0 → ∀ e ∈ es, s.core.inBounds s.str.spb (la e) n = false →
      (∀ q ∈ es, q < e → s.core.inBounds s.str.spb (la q) n = true) → Completes i s (s.takeTrap { code := 0x06, va := la e }))) ∧
  (∀ (n : Nat) (es : List Nat), n = [4, 2, 8].getD (z.toNat % 3) 0 → z.toNat < 6 →
    es = (List.range (512 / n)).filter (s.active (8 * n)) → es ≠ [] → (s.rx a).toNat % n = 0 →
    let la (i : Nat) : Word := s.rx a + BitVec.ofNat 64 (el (s.rv ix).toNat (8 * n) i * n)
    let rs := es.map fun i => ((la i).toNat + off, n)
    (∀ i ∈ es, s.core.inBounds s.str.spb (la i) n = true) → s.Free rs →
    (z.toNat < 3 → (∀ i ∈ es, s.touchesObject false (la i).toNat n = false) → ∃ u, Completes (.vgath d a c z ix) s u ∧
      (s.sampled rs).GivesElements d (8 * n) 5 (fun i => (s.core.spad.num ((la i).toNat + off) n, 0)) u mf) ∧
    (3 ≤ z.toNat → Completes (.vscat d a c z ix) s ((s.storing 2 (es.flatMap fun i =>
      cellsAt ((la i).toNat + off) (toBytes n (el (s.rv d).toNat (8 * n) i))) 6).flagged 1 mf)))

/-- The elements of a load: exactly the active ones of width `w` are enabled, each with the value of `f`. -/
def LoadsElements (s : State) (w : Nat) (f : Nat → Nat) (en val : VReg) : Prop :=
  (∀ i k : Nat, i < 4096 / w → k < w → en.getLsbD (w * i + k) = s.active w i) ∧
  ∀ i : Nat, i < 4096 / w → s.active w i = true → el val.toNat w i = f i % 2 ^ w

/-- 10 R280 to R283: the global forms of majors 20 to 22. A load's bytes are those that its stream sees, and its reply lands as
10 R282 gives; the active bytes alone are checked and touched, in runs (`activeRanges`); a store departs. With no active element
a load lands nothing, without a reply to wait for, and a store does nothing. A misaligned address, and then a check of 10 R270
that fails on an active byte, stop the form with the lowest fault (03 R99). -/
def Obligations.VectorGlobal : Prop := ∀ (s : State) (d : BitVec 6) (a : BitVec 5) (c : BitVec 2) (im : BitVec 9)
    (z : BitVec 3) (ix : BitVec 6),
  let bytes := (List.range 512).filter (s.active 8)
  let at_ (va : Word) (n : Nat) : List PAddr := s.pkg.physOf s.core.fn va n
  let fails (need : Need) (rs : List (Word × Nat)) (i : Instr) : Prop := ∀ f : Trap,
    s.acquiring true (rs.map fun r => (bits r.1.toNat 56 0, r.2)) = false → s.Ready need rs →
    s.pkg.rangesFault s.core.fn need rs = some f → Completes i s (s.takeTrap f)
  (∀ va : Word, va = s.rx a + BitVec.ofInt 64 (im.toInt * 512) → let rs := activeRanges va (actives 8 s.top)
    (bytes = [] → (∃ u, Completes (.vldg d a c im) s u ∧ s.AwaitsNothing (.v d 0 0) c.toNat u) ∧
      Completes (.vstg d a im) s s.issued) ∧
    (bytes ≠ [] → va.toNat % 512 = 0 → fails { r := true } rs (.vldg d a c im) ∧ fails { w := true } rs (.vstg d a im)) ∧
    (bytes ≠ [] → va.toNat % 512 ≠ 0 → Completes (.vldg d a c im) s (s.takeTrap { code := 0x05, va := va }) ∧
      Completes (.vstg d a im) s (s.takeTrap { code := 0x05, va := va })) ∧
    (bytes ≠ [] → va.toNat % 512 = 0 → s.Reaches { r := true } rs → ∃ (u : State) (en val : VReg) (f : Option Trap),
      Completes (.vldg d a c im) s u ∧ s.Awaits (.v d en val) c.toNat f 0 u ∧
      LoadsElements s 8 (fun i => ((s.gbytes va 512).getD i 0).toNat) en val) ∧
    (bytes ≠ [] → va.toNat % 512 = 0 → s.Reaches { w := true } rs → ∃ u, Completes (.vstg d a im) s u ∧
      s.Issues (.bytes (rs.flatMap fun r => (at_ r.1 r.2).zip ((List.range r.2).map fun j =>
        BitVec.ofNat 8 (el (s.rv d).toNat 8 ((r.1 - va).toNat + j))))) u)) ∧
  (∀ (n : Nat) (va : Word), 1 ≤ z.toNat → z.toNat ≤ 4 → n = 2 ^ (z.toNat - 1) →
    va = s.rx a + BitVec.ofInt 64 (im.toInt * n) → (∃ i < 512 / n, s.active (8 * n) i = true) → va.toNat % n = 0 →
    s.Reaches { r := true } [(va, n)] → ∃ (u : State) (en val : VReg),
      Completes (.vldgB d a c z im) s u ∧ s.Awaits (.v d en val) c.toNat (s.readFault va (at_ va n)) 0 u ∧
      LoadsElements s (8 * n) (fun _ => ofBytes (s.gbytes va n)) en val) ∧
  (∀ (n : Nat) (va : Word), 1 ≤ z.toNat → z.toNat ≤ 4 → n = 2 ^ (z.toNat - 1) → va = s.rx a + BitVec.ofInt 64 (im.toInt * n) →
    ((∀ i < 512 / n, s.active (8 * n) i = false) →
      ∃ u, Completes (.vldgB d a c z im) s u ∧ s.AwaitsNothing (.v d 0 0) c.toNat u) ∧
    ((∃ i < 512 / n, s.active (8 * n) i = true) →
      (va.toNat % n ≠ 0 → Completes (.vldgB d a c z im) s (s.takeTrap { code := 0x05, va := va })) ∧
      (va.toNat % n = 0 → fails { r := true } [(va, n)] (.vldgB d a c z im)))) ∧
  (∀ (n : Nat) (es : List Nat), n = [4, 2, 8].getD (z.toNat % 3) 0 → z.toNat < 6 →
    es = (List.range (512 / n)).filter (s.active (8 * n)) →
    let i : Instr := if z.toNat < 3 then .vgathg d a c z ix else .vscatg d a z ix
    let va (i : Nat) : Word := s.rx a + BitVec.ofNat 64 (el (s.rv ix).toNat (8 * n) i * n)
    (es = [] → z.toNat < 3 → ∃ u, Completes i s u ∧ s.AwaitsNothing (.v d 0 0) c.toNat u) ∧
    (es = [] → 3 ≤ z.toNat → Completes i s s.issued) ∧
    (es ≠ [] → (s.rx a).toNat % n ≠ 0 → Completes i s (s.takeTrap { code := 0x05, va := s.rx a })) ∧
    (es ≠ [] → (s.rx a).toNat % n = 0 →
      fails (if z.toNat < 3 then { r := true } else { w := true }) (es.map fun e => (va e, n)) i)) ∧
  (∀ (n : Nat) (es : List Nat), n = [4, 2, 8].getD (z.toNat % 3) 0 → z.toNat < 6 →
    es = (List.range (512 / n)).filter (s.active (8 * n)) → es ≠ [] → (s.rx a).toNat % n = 0 →
    let va (i : Nat) : Word := s.rx a + BitVec.ofNat 64 (el (s.rv ix).toNat (8 * n) i * n)
    (z.toNat < 3 → s.Reaches { r := true } (es.map fun i => (va i, n)) →
      ∃ (u : State) (en val : VReg) (f : Option Trap), Completes (.vgathg d a c z ix) s u ∧ s.Awaits (.v d en val) c.toNat f 0 u ∧
      LoadsElements s (8 * n) (fun i => ofBytes (s.gbytes (va i) n)) en val) ∧
    (3 ≤ z.toNat → s.Reaches { w := true } (es.map fun i => (va i, n)) → ∃ u, Completes (.vscatg d a z ix) s u ∧
      s.Issues (.bytes (es.flatMap fun i => (at_ (va i) n).zip (toBytes n (el (s.rv d).toNat (8 * n) i)))) u))

/-! ### What lands and arrives -/

/-- 01 R21, R22, R38, R45; 06 R180; 10 R271, R282; 11 R293, R309: the events of a core that are no syllables. Results land in issue
order, so that the last one of an lc stands (a vector register keeps the bits that no active element covers, 01 R27), and their
flags are set after any write of FLAGS (02 R76); store effects and summary results that are due reach the pool; a reply, or a
translation, that arrives is there from now on; the oldest queued write or atomic of a stream is performed (but for the place
that a haul action keeps until it begins, 15 R399); an invalidation that was asked for completes when no cached translation of its
page is left and no update that a copy counts into an object on the page is outstanding, and is held off until then. Completes:
resultLanding, storeEffect, summaryResultLanding, globalLoadReply, translationReply, globalWritePerformed, atomicExecution,
invalidation, invalidationComplete. -/
def Obligations.LandingsAndReplies : Prop := ∀ (s : State),
  (∃ t, Completes .resultLanding s t ∧ let due (p : Pending) : Bool := decide (p.left = 0 ∧ p.arrive ≤ s.pkg.clock ∧ p.fault = none)
    let last {α : Type} (f : Target → Option α) (d : α) : α :=
      ((s.str.pend.filter due).reverse.findSome? fun p => f p.target).getD d
    t.str.pend = s.str.pend.filter (fun p => !due p) ∧ t.str.pc = s.str.pc ∧ t.core.spad = s.core.spad ∧
    (∀ r : BitVec 5, r ≠ 0 → t.rx r = last (fun g => match g with | .x q v => if q = r then some v else none | _ => none) (s.rx r)) ∧
    (∀ r : BitVec 4, r ≠ 0 → t.rp r = last (fun g => match g with | .p q v => if q = r then some v else none | _ => none) (s.rp r)) ∧
    (∀ r : BitVec 6, t.rv r = (s.str.pend.filter due).foldl (fun w p => match p.target with
      | .v q en val => if q = r then blend en val w else w
      | _ => w) (s.rv r)) ∧
    (∀ n : BitVec 3, t.core.mp[n.toNat]'n.isLt =
      last (fun g => match g with | .mp q v => if q = n then some v else none | _ => none) (s.core.mp[n.toNat]'n.isLt)) ∧
    t.str.spb = last (fun g => match g with | .csr c v => if c = 0x08 then some v else none | _ => none) s.str.spb ∧
    t.str.flags = (s.str.pend.filter due).foldl (fun f p => f ||| p.flags)
      (last (fun g => match g with | .csr c v => if c = 0x09 then some (v.setWidth 7) else none | _ => none) s.str.flags) ∧
    t.str.masks = (s.str.pend.filter due).foldl (fun m p => match p.target with | .mask op => op.apply m | _ => m) s.str.masks) ∧
  (s.core.spad.wf = true → ∃ t, Completes .storeEffect s t ∧ t.core.stores = s.core.stores.filter (·.left != 0) ∧ t.str = s.str ∧
    (∀ a : Nat, (∀ e ∈ s.core.stores, e.left = 0 → ∀ c ∈ e.cells, c.1 ≠ a) → t.core.spad.read a = s.core.spad.read a) ∧
    ∀ e : StoreEff, s.core.stores.filter (·.left == 0) = [e] → e.xor = false → ∀ a : Nat,
      t.core.spad.read a = ((e.cells.reverse.find? (fun c => c.1 == a)).map (·.2)).getD (s.core.spad.read a)) ∧
  (s.core.spad.wf = true → ∃ t, Completes .summaryResultLanding s t ∧ t.core.chain = s.core.chain.filter (·.left != 0) ∧
    t.str = s.str ∧ ∀ e : SumPend, s.core.chain.filter (·.left == 0) = [e] → ∀ a : Nat, t.core.spad.read a =
      if h : e.write = true ∧ e.addr ≤ a ∧ a < e.addr + e.bytes.length then e.bytes[a - e.addr]'(by omega)
      else s.core.spad.read a) ∧
  (∀ (k : Nat) (p : Pending), s.str.pend[k]? = some p → ∃ t, Completes (.globalLoadReply k) s t ∧
    t.str.pend[k]? = some { p with arrive := min p.arrive s.pkg.clock } ∧ (∀ j, j ≠ k → t.str.pend[j]? = s.str.pend[j]?) ∧
    s.SameRegisters t ∧ t.core = s.core ∧ t.pkg = s.pkg) ∧
  (∀ c : Nat, s.str.xlate = some c → ∃ t, Completes .translationReply s t ∧ t.str.xlate = some (min c s.pkg.clock) ∧
    s.SameRegisters t ∧ t.core = s.core ∧ t.pkg = s.pkg) ∧
  (∀ (o : GOp) (rest : List GOp), s.str.gq = o :: rest →
    ∀ i ∈ Instr.globalWritePerformed :: (match o.eff with | .atomic _ _ _ _ => [.atomicExecution] | _ => []),
      (o.place = true → Completes i s s) ∧
      (o.place = false → ∃ t, Completes i s t ∧ t.pkg = s.pkg.performOp s.core.fn o ∧ t.str = { s.str with gq := rest } ∧
        t.core.spad = s.core.spad ∧ t.core.stores = s.core.stores ∧ (o.rel = false → o.acq = none → t.core = s.core) ∧
        t.alt = s.alt ∧ t.others = s.others)) ∧
  (∀ (fn : BitVec 5) (va : BitVec 64) (psz : BitVec 2), let inv := (fn.toNat, va.toNat, psz.toNat)
    Completes (.invalidation fn va psz) s (s.onPkg fun pk => { pk with invals := pk.invals ++ [inv] }) ∧
    let size := if psz = 0 then 2 ^ 16 else if psz = 1 then 2 ^ 21 else 2 ^ 30
    let base := va.toNat % 2 ^ 57 / size * size
    (inv ∈ s.pkg.invals → s.objOutstanding fn.toNat base size = false → ∃ t, Completes (.invalidationComplete fn va psz) s t ∧
      t.pkg.invals = s.pkg.invals.erase inv ∧ ∀ e ∈ t.pkg.tlb, e.fn = fn.toNat → overlap e.base e.size base size = false) ∧
    (inv ∉ s.pkg.invals ∨ s.objOutstanding fn.toNat base size = true → Completes (.invalidationComplete fn va psz) s s))

/-! ### Synchronisation -/

/-- 11 R316, R317; 03 R99, Table 6: FENCE waits for what the stream has issued; BIND adds the records that it reads, in
L-space or in global space, where they are legal and overlap nothing, with objects in either space; a count of 0 or above 16
ranks after the faults of its first operand; UNBIND takes the entries of a mask out. Completes: fence, bind, unbind. -/
def Sys2Proof.Rules.FenceAndBind : Prop := ∀ (s : State) (a b : BitVec 5) (c : BitVec 3),
  (c.toNat < 6 → (s.unperformed = false → Completes (.fence c) s (s.flagged 1 (if c = 0 then flMF else 0))) ∧
    (s.unperformed = true → Completes (.fence c) s (s.onStr fun t => { t with held := true }))) ∧
  ((s.rx a).toNat < 2 ^ 16 → Completes (.unbind a) s (s.gives (.binds ((s.rx a).setWidth 16) []) 1)) ∧
  (2 ^ 16 ≤ (s.rx a).toNat → Completes (.unbind a) s (s.takeTrap { code := 0x0E, sub := 0x46 })) ∧
  (∀ p : BitVec 1, (s.rx a).toNat % 32 ≠ 0 → Completes (.bind a b p) s (s.takeTrap { code := 0x05, va := s.rx a })) ∧
  (∀ p : BitVec 1, (s.rx a).toNat % 32 = 0 → (s.rx b).toNat = 0 ∨
      (16 < (s.rx b).toNat ∧ ((p = 0 ∧ s.core.inBounds s.str.spb (s.rx a) 512 = true) ∨
        (p = 1 ∧ s.Reaches { r := true } [(s.rx a, 512)]))) →
    Completes (.bind a b p) s (s.takeTrap { code := 0x0E, sub := 0x45 })) ∧
  (∀ (n q : Nat) (bs : List Byte) (p : BitVec 1), n = (s.rx b).toNat → q = (s.rx a).toNat + s.str.spb.toNat % 128 * 32768 →
    1 ≤ n → n ≤ 16 → (s.rx a).toNat % 32 = 0 → s.str.xlate = none →
    ((p = 0 ∧ s.core.inBounds s.str.spb (s.rx a) (32 * n) = true ∧ s.Free [(q, 32 * n)] ∧ bs = s.core.spad.readN q (32 * n)) ∨
      (p = 1 ∧ s.Reaches { r := true } [(s.rx a, 32 * n)] ∧ bs = s.gbytes (s.rx a) (32 * n) ∧
        s.readFault (s.rx a) (s.pkg.physOf s.core.fn (s.rx a) (32 * n)) = none)) →
    let recs := els 256 n (ofBytes bs)
    let news := recs.map bindingOf
    let need : Need := { r := true, w := true, plain := true }
    let objs := (news.filter fun r => decide (r.kind.toNat < 2) && r.objGlobal).map fun r => (r.obj, r.objSize)
    recs.all bindingLegal = true → (∀ r ∈ news, s.objMisplaced s.pkg r = false) →
    (∀ o ∈ pagesOf objs, s.pkg.lookup s.core.fn need o.1 = false) → s.pkg.rangesFault s.core.fn need objs = none →
    distinct (news.map (·.slot)) = true → noOverlap news = true →
    (∀ r ∈ news, ∀ o ∈ s.str.binds, (∀ r' ∈ news, o.slot ≠ r'.slot) → r.overlaps o = false) →
    ∃ t, Completes (.bind a b p) s t ∧ s.SameRegisters t ∧ t.core.spad = s.core.spad ∧
      t.str.pend = s.str.pend ++ [{ target := .binds 0 news, left := 1, baddr := s.str.pc }] ∧ t.str.held = false ∧
      t.str.mode = s.str.mode)

/-- 11 R305, R307, R318: SEAL takes its range into the function's table and holds its stream until the seal completes, when every
queued write of the function has been performed (what stays in a queue is the place of a haul action that has not begun, 15 R399),
no migration writes the range and no cached translation reaches it; UNSEAL likewise takes it out.
Completes: sealRange, unsealRange, sealCompletion, unsealCompletion. -/
def Sys2Proof.Rules.SealAndUnseal : Prop := ∀ (s : State) (a b : BitVec 5) (fn n : Nat) (base : Nat),
  fn = s.core.fn → fn < 17 → base = bits (s.rx a).toNat 56 0 → n = (s.rx b).toNat →
  let held (i : Instr) (seals : List SealRange) : Prop := ∃ t, Completes i s t ∧ t.str.held = true ∧
    t.str.sealing = some (s.rx a) ∧ (t.pkg.fnOf fn).seals = seals ∧ s.SameRegisters t
  ((s.rx a).toNat % 65536 = 0 → n % 65536 = 0 → n ≠ 0 → s.Reaches { w := true, plain := true } [(s.rx a, n)] →
    (∀ p ∈ pageParts (s.rx a) n, s.pkg.tierOf fn p.1 = 0) → s.str.sealing = none →
    ((s.pkg.fnOf fn).seals.length < 256 → (∀ r ∈ (s.pkg.fnOf fn).seals, overlap base n r.base r.bytes = false) →
      s.unperformed = false → held (.sealRange a b) ((s.pkg.fnOf fn).seals ++ [⟨base, n, .taking⟩])) ∧
    (⟨base, n, .sealed⟩ ∈ (s.pkg.fnOf fn).seals → held (.unsealRange a b)
      ((s.pkg.fnOf fn).seals.map fun r => if r.base = base then { r with st := .leaving } else r))) ∧
  (∀ x r, s.str.sealing = some x → (s.pkg.fnOf fn).sealAt base = some r → r.st = .sealed →
    Completes (.sealRange a b) s { s.issued with str := { s.issued.str with sealing := none } }) ∧
  (∀ x, s.str.sealing = some x → (s.pkg.fnOf fn).sealAt base = none →
    Completes (.unsealRange a b) s { s.issued with str := { s.issued.str with sealing := none } }) ∧
  (∀ r, (s.pkg.fnOf fn).sealAt base = some r → r.st = .taking → s.pkg.migrating fn r.base r.bytes = false →
    ∃ t, Completes (.sealCompletion (BitVec.ofNat 5 fn) (s.rx a)) s t ∧
      (s.Seated → s.SameRegisters t) ∧
      (t.pkg.fnOf fn).sealAt base = some { r with st := .sealed } ∧
      (∀ e ∈ t.pkg.tlb, e.fn = fn → overlap e.base e.size r.base r.bytes = false) ∧
      ((s.ctxs.map fun c => c.core.id).Nodup →
        ∀ c ∈ t.ctxs, c.core.fn = fn → ∀ o ∈ c.a.gq ++ c.b.gq, o.place = true)) ∧
  (∀ r, (s.pkg.fnOf fn).sealAt base = some r → r.st ≠ .taking ∨ s.pkg.migrating fn r.base r.bytes = true →
    Completes (.sealCompletion (BitVec.ofNat 5 fn) (s.rx a)) s s) ∧
  (∃ t, Completes (.unsealCompletion (BitVec.ofNat 5 fn) (s.rx a)) s t ∧ s.SameRegisters t ∧
    (t.pkg.fnOf fn).seals = (s.pkg.fnOf fn).seals.filter fun r => !(r.base == base && r.st == .leaving))

/-- FENCE, BIND, UNBIND, SEAL and UNSEAL (11 R305 to R308, R314 to R319). -/
def Obligations.FencesBindsAndSeals : Prop := Rules.FenceAndBind ∧ Rules.SealAndUnseal

/-- 11 R319 to R321 in L-space and in global space: BINIT writes an object with its two counts; ARRB adds one arrival as a
release and lands the generation that it joined; WAITPH is held while its generation is open, returns after, and faults on OVF.
An acquire waits for the stream's earlier acquires (11 R297). In global space ARRB's arrival is performed at its issue (DEDUCED,
unsafe: notes/assumptions/18.md); its flags land with the generation, 4 lc after issue in L-space even into X0 (DESIGN CHOICE,
unsafe: notes/assumptions/83.md). Completes: binit, arrb, waitph. -/
def Obligations.BarrierObjects : Prop := ∀ (s : State) (d a b k : BitVec 5) (c : BitVec 3) (q o : Nat) (va : Word),
  va = s.rx a → va.toNat % 32 = 0 → q = va.toNat + s.str.spb.toNat % 128 * 32768 → c.toNat < 6 →
  let obj := toBytes 32 ((s.rx k).toNat + (s.rx b).toNat * 2 ^ 128)
  let place := s.pkg.physOf s.core.fn va 32
  let mf (l : Bool) : Flg := if c = 0 ∨ (l = true ∧ 3 ≤ c.toNat) then flMF else 0
  (s.core.inBounds s.str.spb va 32 = true → s.Free [(q, 32)] → o = s.core.spad.num q 32 →
    (1 ≤ (s.rx b).toNat → (s.rx b).toNat < 2 ^ 32 → Completes (.binit k a b 0) s (s.storing 1 (cellsAt q obj) 2).issued) ∧
    ((s.rx b).toNat = 0 ∨ 2 ^ 32 ≤ (s.rx b).toNat → Completes (.binit k a b 0) s (s.takeTrap { code := 0x0E, sub := 0x42 })) ∧
    (s.unperformed = false → ∃ t, Completes (.arrb d a 0 c) s t ∧ s.SameRegisters t ∧
      t.str.pend = s.str.pend ++ [{ target := .x d (BitVec.ofNat 64 (o / 2 ^ 224)), left := 4, flags := mf true, baddr := s.str.pc }] ∧
      t.core.stores = s.core.stores ++ [{ cells := cellsAt q (toBytes 32 (objUpdate o 0 1)), left := 1
                                          seq := 16 * s.core.issue + (if s.str.sec then 8 else 0) + 2, sec := s.str.sec }]) ∧
    (s.unacquired = false → o.testBit 193 = true → Completes (.waitph a b 0 c) s (s.takeTrap { code := 0x0E, sub := 0x40 })) ∧
    (s.unacquired = false → o.testBit 193 = false → let behind := (o / 2 ^ 224 + 2 ^ 32 - (s.rx b).toNat % 2 ^ 32) % 2 ^ 32
      (behind = 0 ∨ 2 ^ 31 ≤ behind → Completes (.waitph a b 0 c) s (s.onStr fun t => { t with held := true })) ∧
      (1 ≤ behind → behind < 2 ^ 31 → ∃ t, Completes (.waitph a b 0 c) s t ∧ t.str = (s.flagged 1 (mf true)).str ∧
        s.SameRegisters t ∧ t.core.spad = s.core.spad))) ∧
  (s.pkg.tierOf s.core.fn va = 0 → s.str.xlate = none → o = ofBytes (s.gbytes va 32) →
    (1 ≤ (s.rx b).toNat → (s.rx b).toNat < 2 ^ 32 → s.Reaches { r := true, w := true } [(va, 32)] →
      ∃ t, Completes (.binit k a b 1) s t ∧ s.Issues (.bytes (place.zip obj)) t) ∧
    (s.unperformed = false → s.Reaches { r := true, w := true } [(va, 32)] → ∃ t, Completes (.arrb d a 1 c) s t ∧
      s.SameRegisters t ∧ (∀ l, place.head? = some l →
        t.pkg.dev = (s.view.perform s.core.fn (.update l 0 1)).dev ∧ (d ≠ 0 → ∃ p : Pending, t.str.pend = s.str.pend ++ [p] ∧
          p.target = .x d (BitVec.ofNat 64 (s.view.numPA l 32 / 2 ^ 224))))) ∧
    (s.unacquired = true → Completes (.waitph a b 1 c) s (s.onStr fun t => { t with held := true })) ∧
    (s.unacquired = false → s.Reaches { r := true } [(va, 32)] → s.readFault va place = none →
      let behind := (o / 2 ^ 224 + 2 ^ 32 - (s.rx b).toNat % 2 ^ 32) % 2 ^ 32
      (o.testBit 193 = true → Completes (.waitph a b 1 c) s (s.takeTrap { code := 0x0E, sub := 0x40 })) ∧
      (o.testBit 193 = false → behind = 0 ∨ 2 ^ 31 ≤ behind →
        Completes (.waitph a b 1 c) s (s.onStr fun t => { t with held := true })) ∧
      (o.testBit 193 = false → 1 ≤ behind → behind < 2 ^ 31 → ∃ t, Completes (.waitph a b 1 c) s t ∧ s.SameRegisters t ∧
        t.str.pend = (s.flagged 1 (mf false)).str.pend ∧ t.str.held = false ∧ t.str.mode = s.str.mode)))

/-- 11 R302: an update adds its bytes and its arrival; one that passes an expected count sets OVF; one that completes both, with
OVF clear, zeroes the counts, flips PH and adds 1 to GEN. The event writes exactly the object's 32 bytes, which it takes as the
store effects on their way leave them (DEDUCED, unsafe: notes/assumptions/91.md). Completes: barrierObjectUpdate. -/
def Obligations.BarrierUpdate : Prop := ∀ (o nb na : Nat), o < 2 ^ 256 → na ≤ 1 →
  let f (x hi lo : Nat) : Nat := x / 2 ^ lo % 2 ^ (hi + 1 - lo)
  let r := objUpdate o nb na
  let A := f o 191 160 + na
  let B := f o 127 64 + nb
  let EA := f o 159 128
  let EB := f o 63 0
  r < 2 ^ 256 ∧ f r 159 128 = EA ∧ f r 63 0 = EB ∧ f r 223 194 = f o 223 194 ∧
  (f o 193 193 = 0 → A = EA → B = EB → f r 193 193 = 0 ∧ f r 191 160 = 0 ∧ f r 127 64 = 0 ∧ f r 192 192 = 1 - f o 192 192 ∧
    f r 255 224 = (f o 255 224 + 1) % 2 ^ 32) ∧
  (¬ (f o 193 193 = 0 ∧ A = EA ∧ B = EB) → f r 191 160 = A % 2 ^ 32 ∧ f r 127 64 = B % 2 ^ 64 ∧ f r 192 192 = f o 192 192 ∧
    f r 255 224 = f o 255 224 ∧ f r 193 193 = if EA < A ∨ EB < B then 1 else f o 193 193) ∧
  (∀ (s : State) (va : Word) (bytes : BitVec 64) (arr : BitVec 1), s.core.spad.wf = true →
    ∃ t, Completes (.barrierObjectUpdate 0 va bytes arr) s t ∧ t.str = s.str ∧ t.pkg = s.pkg ∧
      ofBytes ((List.range 32).map fun i => t.core.byteAfter (va.toNat + i)) =
        objUpdate (ofBytes ((List.range 32).map fun i => s.core.byteAfter (va.toNat + i))) bytes.toNat arr.toNat % 2 ^ 256 ∧
      (∀ x : Nat, x < va.toNat ∨ va.toNat + 32 ≤ x → t.core.byteAfter x = s.core.byteAfter x) ∧
      (s.core.stores = [] → t.core.stores = [] ∧
        t.core.spad.num va.toNat 32 = objUpdate (s.core.spad.num va.toNat 32) bytes.toNat arr.toNat % 2 ^ 256 ∧
        ∀ x : Nat, x < va.toNat ∨ va.toNat + 32 ≤ x → t.core.spad.read x = s.core.spad.read x))

/-! ### The matrix engine -/

/-- `s` with updates of the matrix engine on their way, when its syllable has issued. -/
def Scheduled (s : State) (ps : List MxPend) : State := (s.onCore fun k => { k with mxpend := k.mxpend ++ ps }).issued

/-- 08 R217; 13 R330, R333, R338, R355 to R360: the forms of major 23, which the secondary stream may not issue. Their updates take
effect at the end of the lc, in rank order; a ring's stages, the accumulators, the dependency slots and the store are read as
they stand at issue. Completes: mxcall (with MatrixCommands), mxparm, mxrcfg, mxrpush, mxrstat, mxrda, mxwra, mxdset, mxdclr,
mxdrd, mxuld. -/
def Obligations.MatrixForms : Prop := ∀ (s : State) (a b d : BitVec 5) (r : BitVec 4) (q : BitVec 2) (v : BitVec 6) (m : BitVec 8)
    (n : BitVec 3),
  (s.str.sec = true → ∀ i ∈ [Instr.mxcall a b m, .mxparm a n, .mxrcfg a b r, .mxrpush a r, .mxrstat d r, .mxrda a q v,
      .mxwra a q v, .mxdset m, .mxdclr m, .mxdrd d, .mxuld a b], Completes i s (s.takeTrap { code := 0x03 })) ∧
  (s.str.sec = false → let xa := s.rx a
    let xb := (s.rx b).toNat
    Completes (.mxparm a n) s (s.gives (.mp n xa) 1) ∧
    Completes (.mxdrd d) s (s.gives (.x d (s.core.dslots.setWidth 64)) 1) ∧
    Completes (.mxdset m) s (Scheduled s [{ eff := .slots m 0, left := 0, rank := 6 }]) ∧
    Completes (.mxdclr m) s (Scheduled s [{ eff := .slots 0 m, left := 0, rank := 6 }]) ∧
    (s.core.badAcc xa.toNat = true → Completes (.mxrda a q v) s (s.takeTrap { code := 0x06 }) ∧
      Completes (.mxwra a q v) s (s.takeTrap { code := 0x06 })) ∧
    (s.core.badAcc xa.toNat = false →
      (s.core.accFault 2 xa.toNat (512 * q.toNat) 512 = none → Completes (.mxrda a q v) s (s.gives (.v v (BitVec.allOnes 4096)
        ((vget s.core.acc xa.toNat 0).extractLsb' (4096 * q.toNat) 4096)) 3)) ∧
      Completes (.mxwra a q v) s (Scheduled s [{ eff := .quarter xa.toNat q.toNat (s.rv v), left := 0, rank := 2 }])) ∧
    (s.core.ring r = none → Completes (.mxrstat d r) s (s.gives (.x d 0) 2) ∧
      Completes (.mxrpush a r) s (s.takeTrap { code := 0x0E, sub := 0x53 })) ∧
    (∀ g, s.core.ring r = some g →
      (g.count .filling = 0 → Completes (.mxrstat d r) s (s.gives (.x d (BitVec.ofNat 64 (g.head + g.tail * 2 ^ 8 +
        g.count .full * 2 ^ 16 + (g.stage g.head).2 * 2 ^ 32 + 2 ^ 40))) 2)) ∧
      (xa.toNat = 0 ∨ g.nst < xa.toNat → Completes (.mxrpush a r) s (s.takeTrap { code := 0x0E, sub := 0x53 })) ∧
      (∀ g', (s.core.ringsAtClose s.pkg.clock s.pkg.delays).ring r = some g' → 1 ≤ xa.toNat → xa.toNat ≤ g.nst →
        (g'.emptyFrom xa.toNat = true → Completes (.mxrpush a r) s
          (Scheduled s [{ eff := .push r.toNat xa.toNat, left := 0, rank := 5 }])) ∧
        (g'.emptyFrom xa.toNat = false → Completes (.mxrpush a r) s
          (s.takeTrap { code := 0x0F, sub := 2, aux1 := r.setWidth 64 })))) ∧
    (∀ sb cc nst : Nat, sb = xb / 2 ^ 16 % 2 ^ 20 → cc = xb / 2 ^ 8 % 2 ^ 8 → nst = xb % 2 ^ 5 → xb < 2 ^ 36 → xb / 2 ^ 5 % 8 = 0 →
      s.core.mxBusy = false → xa.toNat % 32 = 0 → s.core.feeds r.toNat = false →
      (∀ g, s.core.ring r = some g → g.count .filling = 0) →
      (1 ≤ nst → sb % 32 = 0 → 96 ≤ sb → sb ≤ 1048544 → 1 ≤ cc → s.core.inBounds s.str.spb xa (nst * sb) = true →
        let g : Ring := { base := poolAddr s.str.spb xa, sb := sb, cc := cc, stages := List.replicate nst (.empty, cc), head := 0, tail := 0 }
        Completes (.mxrcfg a b r) s (Scheduled s [{ eff := .ring r.toNat (some g), left := 0, rank := 5 }])) ∧
      (nst = 0 → sb = 0 → cc = 0 → Completes (.mxrcfg a b r) s
        (Scheduled s [{ eff := .ring r.toNat none, left := 0, rank := 5 }]))) ∧
    (∀ w k p : Nat, w = xb % 2 ^ 12 → k = xb / 2 ^ 16 % 2 ^ 13 → xb < 2 ^ 29 → xb / 2 ^ 12 % 16 = 0 → 1 ≤ k → w + k ≤ 4096 →
      xa.toNat % 8 = 0 → s.core.inBounds s.str.spb xa (8 * k) = true → s.core.mxBusy = false → p = poolAddr s.str.spb xa →
      s.Free [(p, 8 * k)] → Completes (.mxuld a b) s (Scheduled (s.sampled [(p, 8 * k)])
        [{ eff := .words w ((List.range k).map fun i => BitVec.ofNat 64 (s.core.spad.num (p + 8 * i) 8))
           left := (k + 63) / 64 - 1, rank := 6 }])))

/-- 13 R337 to R341, R344; 18 R423: MXCALL captures its command, which starts at once when its cycle is the present lc and else
queues behind the last; a cycle that has passed, a start check that fails, a full queue and a cycle that is not past the last
command's are faults 0x07, sub-codes 1 to 5; an entry word that is not valid and fields that must be 0 are faults 0x0E, sub-codes
0x51 and 0x54, which rank after them. The command at the head of the queue starts when its slots and the sequencer allow it, and
stays there with the fault of its check when they do not. Completes: mxcall, routineStart. -/
def Sys2Proof.Rules.MatrixCommands : Prop := ∀ (s : State) (a b : BitVec 5) (m : BitVec 8), s.str.sec = false →
  let c := s.str.lcc.toNat
  let dep := s.rx b
  let e := s.core.uword m.toNat
  let start := if a = 0 then c else (s.rx a).toNat % 2 ^ 48
  let cmd : MxCmd := { start := start, mp := s.core.mp.toList, dep := dep, mode := s.str.rmode.extractLsb' 0 2, first := e % 2 ^ 12
                       spb := s.str.spb, baddr := s.str.pc }
  let begun (x : MxCmd) (k : Core) : Core := { k with
    dslots := k.dslots &&& ~~~(x.dep.extractLsb' 0 8)
    seq := some { cmd := x, upc := x.first, ix := [0, 0, 0, 0, 0, 0, 0, 0], stack := [], wait := 0 } }
  let ready (k : Core) (w : Word) : Prop := (∀ j < 8, w.getLsbD j = true → k.dslots.getLsbD j = true) ∧ k.seq = none ∧
    ∀ p ∈ k.mxpend, ∀ j ws, p.eff ≠ .words j ws
  (a = 0 ∨ (s.rx a).toNat < 2 ^ 48 → dep.toNat < 2 ^ 12 → e / 2 ^ 63 = 1 → e / 2 ^ 12 % 2 ^ 51 = 0 → 256 ≤ e % 2 ^ 12 →
    c ≤ start → (∀ l, s.core.lastStart = some l → l < start) →
    (start = c → s.core.cmdq = [] → ready s.core dep → Completes (.mxcall a b m) s (s.onCore (begun cmd)).issued) ∧
    (c < start → s.core.cmdq.length < 4 →
      Completes (.mxcall a b m) s (s.onCore fun k => { k with cmdq := k.cmdq ++ [cmd] }).issued)) ∧
  (let lacks (w : Word) : Prop := ∃ j < 8, w.getLsbD j = true ∧ s.core.dslots.getLsbD j = false
   let busy : Prop := s.core.seq ≠ none ∨ ∃ p ∈ s.core.mxpend, ∃ j ws, p.eff = .words j ws
   let late (sub : BitVec 16) : Trap := { code := 0x07, sub := sub, cmd := some s.str.pc, aux1 := BitVec.ofNat 64 start }
   let faults (t : Trap) : Prop := Completes (.mxcall a b m) s (s.takeTrap t)
   let inTime : Prop := c < start ∨ (start = c ∧ ready s.core dep)
   let last : Prop := ∃ l, s.core.lastStart = some l ∧ start ≤ l
   let valid : Prop := e / 2 ^ 63 = 1 ∧ e / 2 ^ 12 % 2 ^ 51 = 0 ∧ 256 ≤ e % 2 ^ 12
   (start < c → faults (late 1)) ∧
   (start = c → lacks dep → faults (late 2)) ∧
   (start = c → ¬ lacks dep → busy → faults (late 3)) ∧
   (inTime → 4 ≤ s.core.cmdq.length → faults (late 4)) ∧
   (inTime → s.core.cmdq.length < 4 → last → faults (late 5)) ∧
   (inTime → s.core.cmdq.length < 4 → ¬ last → ¬ valid → faults { code := 0x0E, sub := 0x51, cmd := some s.str.pc }) ∧
   (inTime → s.core.cmdq.length < 4 → ¬ last → valid → (a ≠ 0 ∧ 2 ^ 48 ≤ (s.rx a).toNat) ∨ 2 ^ 12 ≤ dep.toNat →
     faults { code := 0x0E, sub := 0x54, cmd := some s.str.pc }) ∧
   (∀ x rest, s.core.cmdq = x :: rest →
     let failed (sub : BitVec 16) : State := s.onCore fun k => { k with
       engTrap := some { code := 0x07, sub := sub, cmd := some x.baddr, aux1 := BitVec.ofNat 64 x.start } }
     (lacks x.dep → Completes .routineStart s (failed 2)) ∧ (¬ lacks x.dep → busy → Completes .routineStart s (failed 3)))) ∧
  (∀ x rest, s.core.cmdq = x :: rest → ready s.core x.dep →
    Completes .routineStart s (s.onCore fun k => begun x { k with cmdq := rest }))

/-- `t` is `s` when a micro-op of the routine `q` has been taken: its updates on their way and the sequencer at `q'`, `len` lc later. -/
def MicroRuns (s : State) (ps : List MxPend) (q' : Seqr) (len : Nat) (t : State) : Prop :=
  t.core.mxpend = s.core.mxpend ++ ps ∧ t.core.seq = some { q' with upc := q'.upc + 1, wait := len } ∧
  t.str = { s.str with held := false } ∧ t.core.acc = s.core.acc ∧ t.core.ck = s.core.ck ∧ t.core.rings = s.core.rings ∧
  t.core.spad = s.core.spad ∧ t.core.engTrap = s.core.engTrap

/-- 13 R345 to R350, Tables 5 to 7: the micro-ops. A pass reads a slice of the HEAD stage of two rings and commits its sums at its
end, MSCALE adds the scaled partials, outputs are written in the micro-op's last lc, loops run by MLOOP and MNEXT, and a micro-op
that breaks its limits stops the engine with fault 0x0E, sub-code 0x50, at its word; fault 0x06 of an accumulator that the
partition does not have names no command, as 18 Table 2 has it (DEDUCED, unsafe: notes/assumptions/93.md). Completes: mend, mpass, mscale, mzero, mckz,
macc, midle, mldi, maddi, mloop, mnext, mpopMicroOp, mout, mckout. -/
def Obligations.MatrixMicroOps : Prop := ∀ (s : State) (q : Seqr) (ra rb : BitVec 4) (xc xp xq mpr rm : BitVec 3) (fmt : BitVec 4)
    (ck za sat sel : BitVec 1) (mpf : BitVec 2) (imm : BitVec 16), s.core.seq = some q →
  let ix (x : BitVec 3) : Nat := (q.ix.getD x.toNat 0).toNat
  let setIx (n : Nat) : Seqr := { q with ix := q.ix.set xc.toNat (BitVec.ofNat 16 n) }
  let n := ix xc
  let runs (i : Instr) (ps : List MxPend) (q' : Seqr) (len : Nat) : Prop := ∃ t, Completes i s t ∧ MicroRuns s ps q' len t ∧
    t.core.stores = s.core.stores
  let broken (i : Instr) (r : Trap) : Prop := ∃ t, Completes i s t ∧ t.str = s.str ∧ t.core.seq = some q ∧
    t.core.mxpend = s.core.mxpend ∧ t.core.engTrap = some (if r.code = 0x06 then r else { r with cmd := some q.cmd.baddr, aux0 := BitVec.ofNat 64 q.upc })
  let pop (r : BitVec 4) (g : Ring) (l : Nat) : List MxPend := [{ eff := .pop r.toNat g.head, left := l, rank := 3 }]
  let pops (ga gb : Ring) (l : Nat) : List MxPend := pop ra ga l ++ if ra = rb then [] else pop rb gb l
  let full (r : BitVec 4) (g : Ring) (off len : Nat) : Prop := s.core.ring r = some g ∧ (g.stage g.head).1 = .full ∧
    off + len ≤ g.sb ∧ s.Free [(g.base + g.head * g.sb + off, len)]
  let bytes (g : Ring) (off len : Nat) : List Byte := s.core.spad.readN (g.base + g.head * g.sb + off) len
  ((∀ p ∈ s.core.mxpend, ∀ j x z, p.eff ≠ .scale j x z) → ∃ t, Completes .mend s t ∧
    t.core.seq = some { q with wait := 1, ending := true } ∧
    let slot : Option Nat := if q.cmd.dep.getLsbD 11 = true then some (q.cmd.dep.toNat / 2 ^ 8 % 8) else none
    t.core.mxpend = s.core.mxpend ++ [{ eff := .complete slot 0, left := 0, rank := 7 }]) ∧
  (s.core.badAcc n = false → runs (.mzero xc) [{ eff := .acc n 0, left := 0, rank := 1 }] q 1) ∧
  (s.core.badAcc n = true → broken (.mzero xc) { code := 0x06 }) ∧
  runs (.mckz xc) [{ eff := .zeroCheck (n % 16), left := 0, rank := 1 }] q 1 ∧
  (s.core.badAcc n = false → s.core.badAcc (ix xp) = false → s.core.accRead n = none → s.core.accRead (ix xp) = none →
    runs (.macc xc xp) [{ eff := .add n (ix xp), left := 0, rank := 1 }] q 1) ∧
  (imm ≠ 0 → runs (.midle imm) [] q imm.toNat) ∧
  (imm = 0 → broken (.midle imm) { code := 0x0E, sub := 0x50 }) ∧
  runs (.mldi xc sel mpr mpf imm) [] (setIx (if sel = 1 then el (q.cmd.mp.getD mpr.toNat 0).toNat 16 mpf.toNat else imm.toNat)) 0 ∧
  runs (.maddi xc imm) [] (setIx (n + imm.toNat)) 0 ∧
  (∀ w, matchNext s.core 4096 (q.upc + 1) 0 = some w → (n = 0 → runs (.mloop xc) [] { q with upc := w } 0) ∧
    (1 ≤ n → q.stack.length < 2 → runs (.mloop xc) [] { q with stack := (q.upc, n) :: q.stack } 0) ∧
    (1 ≤ n → 2 ≤ q.stack.length → broken (.mloop xc) { code := 0x0E, sub := 0x50 })) ∧
  (matchNext s.core 4096 (q.upc + 1) 0 = none → broken (.mloop xc) { code := 0x0E, sub := 0x50 }) ∧
  (q.stack = [] → broken .mnext { code := 0x0E, sub := 0x50 }) ∧
  (∀ w k rest, q.stack = (w, k) :: rest → (k ≤ 1 → runs .mnext [] { q with stack := rest } 0) ∧
    (1 < k → runs .mnext [] { q with upc := w, stack := (w, k - 1) :: rest } 0)) ∧
  (∀ g, s.core.ring ra = some g → (g.stage g.head).1 = .full → runs (.mpopMicroOp ra) (pop ra g 0) q 1) ∧
  (s.core.ring ra = none → broken (.mpopMicroOp ra) { code := 0x0F, sub := 5, aux1 := ra.setWidth 64 }) ∧
  (∀ ga gb, full ra ga (1536 * ix xp) 1536 → full rb gb (1536 * ix xq) 1536 → s.core.badAcc n = false →
    let A := bytes ga (1536 * ix xp) 1536
    let B := bytes gb (1536 * ix xq) 1536
    (fmtLegal fmt = true → fmtIsMx fmt = false → (za = 0 → s.core.accRead n = none) → let f := passFmt fmt
      let x := sliceRows f.fa f.k A
      let y := sliceRows f.fb f.k B
      ∃ t, Completes (.mpass ra rb xc xp xq fmt ck za) s t ∧ MicroRuns s
        ([⟨.pass n ((passSums x y).1.map (BitVec.ofNat 64)) (za == 1), f.len - 1, 1, (passSums x y).2⟩] ++
          (if ck = 1 then [⟨.check (n % 16) (passLanes f.k x y).1 (za == 1), f.len - 1, 1, (passLanes f.k x y).2⟩] else []) ++
          pops ga gb (f.len - 1)) q f.len t) ∧
    (fmtIsMx fmt = true → ck = 0 → za = 0 → s.core.partial_ = none → let w := mxFmt fmt
      ∃ t, Completes (.mpass ra rb xc xp xq fmt ck za) s t ∧ MicroRuns s
        ([⟨.partials fmt.toNat (mxPartials w.1 w.2.1 A B).1, w.2.2 - 1, 1, (mxPartials w.1 w.2.1 A B).2⟩] ++
          pops ga gb (w.2.2 - 1)) q w.2.2 t)) ∧
  (∀ ga gb ps, full ra ga (96 * ix xp) 96 → full rb gb (96 * ix xq) 96 → s.core.badAcc n = false → (za = 0 → s.core.accRead n = none) →
    fmtIsMx fmt = true → s.core.partial_ = some (fmt.toNat, ps) → ∃ t bs fl, Completes (.mscale ra rb xc xp xq fmt za) s t ∧
      MicroRuns s ([⟨.scale n bs (za == 1), 1, 0, fl⟩] ++ pops ga gb 1) q 0 t) ∧
  (∀ (i : Instr) (lat : Nat) (bs : List Byte) (fl : Flg) (la : Word),
    (i = .mckout xc xq mpr ∧ lat = 1 ∧ bs = toBytes 128 (vget s.core.ck (n % 16) 0).toNat ∧ fl = 0) ∨
    (i = .mout xc xq fmt sat rm mpr ∧ lat = 3 ∧ fmt.toNat < 6 ∧ rm.toNat < 6 ∧ s.core.badAcc n = false ∧ s.core.accRead n = none ∧
      let r := if rm = 5 then rndOf q.cmd.mode.toNat else if rm = 4 then .rne else rndOf rm.toNat
      let cs := (tileEls (vget s.core.acc n 0)).map fun x => fconvert F64 (outFmt fmt) r (sat == 1) x
      bs = cs.flatMap (fun c => toBytes ((outFmt fmt).width / 8) c.1) ∧
      fl = orFlags (cs.map (·.2)) ||| (if rm = 4 ∨ (sat = 1 ∧ fmt.toNat < 4) then flMF else 0)) →
    la = BitVec.ofNat 64 ((q.cmd.mp.getD mpr.toNat 0).toNat % 2 ^ 22 + 64 * ix xq) → la.toNat % 64 = 0 →
    s.core.inBounds q.cmd.spb la bs.length = true → s.Free [(poolAddr q.cmd.spb la, bs.length)] → ∃ t, Completes i s t ∧
      MicroRuns s [] { q with cmd := { q.cmd with flags := q.cmd.flags ||| fl } } (lat + 1) t ∧
      t.core.stores = s.core.stores ++ [{ cells := cellsAt (poolAddr q.cmd.spb la) bs, left := lat, seq := 2 ^ 65 }])

/-- 13 R330, R331, R335, R341, R348: what an update does at the end of its lc. A pass adds its sums to the accumulator, one rounded
add an element, or replaces it; a pop counts down the stage and empties it at its last consumer; a push fills stages from TAIL; a
completed routine sets its dependency slot and frees the sequencer. -/
def Sys2Proof.Rules.MatrixUpdates : Prop := ∀ (k : Core) (acc0 : Vector Tile 256) (n : Fin 256) (sums : List Word) (x : Fin 256),
  sums.length = 256 →
  let new (e : MxEffect) : Tile := vget (e.apply acc0 k).1.acc n 0
  el (new (.pass n sums true)).toNat 64 x = (sums.getD x 0).toNat ∧
  el (new (.pass n sums false)).toNat 64 x =
    (faddV F64 .rne (fdecode F64 (el (acc0[n]).toNat 64 x)) (fdecode F64 (sums.getD x 0).toNat)).1 % 2 ^ 64 ∧
  (∀ m : Fin 256, el (new (.add n m)).toNat 64 x =
    (faddV F64 .rne (fdecode F64 (el (acc0[n]).toNat 64 x)) (fdecode F64 (el (acc0[m]).toNat 64 x))).1 % 2 ^ 64) ∧
  (∀ (q : Fin 4) (v : VReg) (y : Fin 64) (p : Fin 4), el (new (.quarter n q v)).toNat 64 (64 * p + y) =
    if p = q then el v.toNat 64 y else el (vget k.acc n 0).toNat 64 (64 * p + y)) ∧
  (∀ (e : MxEffect) (m : Fin 256), m ≠ n → e ∈ [.pass n sums true, .pass n sums false, .acc n 0] →
    vget (e.apply acc0 k).1.acc m 0 = vget k.acc m 0) ∧
  (∀ (r : Fin 16) (g : Ring), k.rings[r] = some g → g.head < g.nst → (g.stage g.head).1 = .full →
    ∃ g', vget ((MxEffect.pop r g.head).apply acc0 k).1.rings r none = some g' ∧ g'.tail = g.tail ∧
      (1 < (g.stage g.head).2 → g'.head = g.head ∧ g'.stage g.head = (.full, (g.stage g.head).2 - 1)) ∧
      ((g.stage g.head).2 ≤ 1 → g'.head = (g.head + 1) % g.nst ∧ g'.stage g.head = (.empty, g.cc))) ∧
  (∀ (r : Fin 16) (g : Ring), k.rings[r] = some g → g.tail < g.nst →
    ∃ g', vget ((MxEffect.push r 1).apply acc0 k).1.rings r none = some g' ∧ g'.head = g.head ∧
      g'.tail = (g.tail + 1) % g.nst ∧ (g'.stage g.tail).1 = .full) ∧
  (∀ (slot : Fin 8) (fl : Flg), let r := (MxEffect.complete (some slot) fl).apply acc0 k
    r.2 = fl ∧ r.1.seq = none ∧ ∀ j : Fin 8, r.1.dslots.getLsbD j = (k.dslots.getLsbD j || decide (j = slot)))

/-- Matrix commands from MXCALL to their updates (13 R330, R337 to R345). -/
def Obligations.MatrixCommandsAndUpdates : Prop := Rules.MatrixCommands ∧ Rules.MatrixUpdates

/-! ### Shape records, tags and copies -/

/-- The tags `ts` bring no deferred error to the bundle that observes them (14 R378). -/
def Clean (s : State) (ts : List Nat) : Prop := ∀ t ∈ ts, (s.core.tag t).fresh = true → (s.core.tag t).err = none

/-- 14 R378, R386 to R388: LDGEOM and STGEOM move a record; WTAG.ALL, FFR and TCNT wait for their tags and observe them, so that
unobserved flags join FLAGS and a deferred error stops the bundle; WTAG.ANY observes nothing. An FFR takes the lowest tag of its
mask that is not IDLE, and keeps the one that it is held on. Completes: ldgeom, stgeom, wtagAll, wtagAny, ffr, tcnt. -/
def Obligations.ShapesAndTags : Prop := ∀ (s : State) (a d : BitVec 5) (n : BitVec 4),
  let la := s.rx a
  let p := la.toNat + s.str.spb.toNat % 128 * 32768
  let ts := (List.range 64).filter fun t => la.getLsbD t
  let busy (t : Nat) : Prop := (s.core.tag t).st = .outstanding
  let waits (i : Instr) : Prop := Completes i s (s.onStr fun t => { t with held := true })
  let fresh (l : List Nat) : Flg := orFlags ((l.filter fun t => (s.core.tag t).fresh).map fun t => (s.core.tag t).flags)
  (la.toNat % 128 = 0 → s.core.inBounds s.str.spb la 128 = true → s.Free [(p, 128)] →
    Completes (.ldgeom a n) s ((s.sampled [(p, 128)]).gives (.g n (BitVec.ofNat 1024 (s.core.spad.num p 128))) 1) ∧
    Completes (.stgeom a n) s (s.storing 1 (cellsAt p (toBytes 128 (vget s.core.g n.toNat 0).toNat)) 7).issued) ∧
  ((∃ t ∈ ts, busy t) → waits (.wtagAll a)) ∧
  ((∀ t ∈ ts, ¬ busy t) → Clean s ts → ∃ u, Completes (.wtagAll a) s u ∧
    u.str = { s.issued.str with flags := s.str.flags ||| fresh ts } ∧ u.core.spad = s.core.spad ∧
    ∀ t < 64, u.core.tag t = if t ∈ ts ∧ (s.core.tag t).fresh = true
      then { s.core.tag t with fresh := false, flags := 0 } else s.core.tag t) ∧
  (∀ t e, (∀ t ∈ ts, ¬ busy t) → t ∈ ts → (s.core.tag t).fresh = true → (s.core.tag t).err = some e →
    (∀ x ∈ ts, x ≠ t → (s.core.tag x).fresh = true → (s.core.tag x).err = none) → ∃ u, Completes (.wtagAll a) s u ∧
      u.str.mode = .stopped ∧ (u.str.stopRec.map (·.trap)) = some { e with defer := true } ∧ (u.core.tag t).err = none) ∧
  (ts ≠ [] → (∀ t ∈ ts, busy t) → waits (.wtagAny a)) ∧
  ((ts = [] ∨ ∃ t ∈ ts, ¬ busy t) → Completes (.wtagAny a) s s.issued) ∧
  let stops (i : Instr) (t : Nat) (e : Trap) : Prop := ∃ u, Completes i s u ∧ u.str.mode = .stopped ∧
    (u.str.stopRec.map (·.trap)) = some { e with defer := true } ∧ (u.core.tag t).err = none ∧ u.str.pend = s.str.pend
  (s.str.ffr = none → (∀ t ∈ ts, (s.core.tag t).st = .idle) → Completes (.ffr a d) s (s.gives (.x d 64) 1)) ∧
  (∀ t < 64, s.str.ffr = some (BitVec.ofNat 6 t) ∨
      (s.str.ffr = none ∧ t ∈ ts ∧ (∀ x ∈ ts, x < t → (s.core.tag x).st = .idle) ∧ (s.core.tag t).st ≠ .idle) →
    (busy t → Completes (.ffr a d) s (s.onStr fun r => { r with ffr := some (BitVec.ofNat 6 t), held := true })) ∧
    ((s.core.tag t).st = .done → Clean s [t] → ∃ u, Completes (.ffr a d) s u ∧ u.str = { s.issued.str with
      flags := s.str.flags ||| fresh [t], ffr := none
      pend := s.str.pend ++ [{ target := .x d (BitVec.ofNat 64 t), left := 1, baddr := s.str.pc },
        { target := .idleTag (BitVec.ofNat 6 t), left := 1, baddr := s.str.pc }] }) ∧
    (∀ e, (s.core.tag t).st = .done → (s.core.tag t).fresh = true → (s.core.tag t).err = some e → stops (.ffr a d) t e)) ∧
  (64 ≤ la.toNat → Completes (.tcnt a d) s (s.takeTrap { code := 0x0E, sub := 0x65 })) ∧
  (la.toNat < 64 → busy la.toNat → waits (.tcnt a d)) ∧
  (∀ e, la.toNat < 64 → ¬ busy la.toNat → (s.core.tag la.toNat).fresh = true → (s.core.tag la.toNat).err = some e →
    stops (.tcnt a d) la.toNat e) ∧
  (la.toNat < 64 → ¬ busy la.toNat → Clean s [la.toNat] → ∃ u, Completes (.tcnt a d) s u ∧ u.str = { s.issued.str with
    flags := s.str.flags ||| fresh [la.toNat]
    pend := s.str.pend ++ [{ target := .x d (BitVec.ofNat 64 (s.core.tag la.toNat).bytes), left := 1, baddr := s.str.pc }] })

/-- 14 R362 to R364: the elements that a copy visits, and their runs of bytes. In tile mode element (i0, i1, i2, i3) of the box
stands at coordinate c + j step + i in each dimension, for iteration j, and is visited where that lies inside the tensor; in
convolution mode stride, padding and dilation place tap (kr, ks) and channel i0 of pixel p. The runs hold the elements' bytes in
loop order, each as long as both sides go on without a gap (a global address modulo 2^64 is the model's choice,
notes/assumptions/82.md). -/
def Sys2Proof.Rules.ShapeElements : Prop := ∀ (g : Shape) (x j : Nat), g.esz ≠ 0 →
  let box (n0 n1 n2 n3 : Nat) (f : Nat → Nat → Nat → Nat → Option Elem) : List Elem :=
    (List.range n3).flatMap fun i3 => (List.range n2).flatMap fun i2 => (List.range n1).flatMap fun i1 =>
      (List.range n0).filterMap fun i0 => f i0 i1 i2 i3
  let signed (d : Nat) : Int := (BitVec.ofNat 16 (x / 2 ^ (16 * d))).toInt
  let step (d : Nat) : Int := j * g.step.getD d 0
  (g.noop = true → g.elems x j = []) ∧
  (g.noop = false → g.conv = false → g.elems x j = box (g.b 0) (g.b 1) (g.b 2) (g.b 3) fun i0 i1 i2 i3 =>
    let at_ (d i : Nat) : Int := signed d + step d + i
    if (0 ≤ at_ 0 i0 ∧ at_ 0 i0 < g.e 0) ∧ (0 ≤ at_ 1 i1 ∧ at_ 1 i1 < g.e 1) ∧ (0 ≤ at_ 2 i2 ∧ at_ 2 i2 < g.e 2) ∧
        (0 ≤ at_ 3 i3 ∧ at_ 3 i3 < g.e 3) then
      some ⟨(i3 * g.b 2 + i2) * g.b 1 + i1, i0 * g.esz,
        g.base + at_ 0 i0 * g.esz + at_ 1 i1 * g.s 1 + at_ 2 i2 * g.s 2 + at_ 3 i3 * g.s 3⟩
    else none) ∧
  (g.noop = false → g.conv = true → g.elems x j = box (g.b 0) g.kw g.kh (g.b 1) fun i0 ks kr p =>
    let px : Int := (x / 2 ^ 24 % 2 ^ 40 : Nat) + step 3 + p
    let n := px / (g.ow * g.oh : Nat)
    let w := px % g.ow * g.sw - g.pl + (((x / 2 ^ 16 % 16 : Nat) + step 1) % 16 + ks) * g.dw
    let h := px / g.ow % g.oh * g.sh - g.pt + (((x / 2 ^ 20 % 16 : Nat) + step 2) % 16 + kr) * g.dh
    let ch := signed 0 + step 0 + i0
    if (0 ≤ ch ∧ ch < g.e 0) ∧ (0 ≤ w ∧ w < g.e 1) ∧ (0 ≤ h ∧ h < g.e 2) ∧ n < g.e 3 then
      some ⟨p, ((kr * g.kw + ks) * g.b 0 + i0) * g.esz, g.base + ch * g.esz + w * g.s 1 + h * g.s 2 + n * g.s 3⟩
    else none) ∧
  (g.runs x j).flatMap (fun r => (List.range r.n).map fun i => (r.ga + BitVec.ofNat 64 i, r.off + i)) =
    (g.elems x j).flatMap (fun e => (List.range g.esz).map fun i =>
      (BitVec.ofInt 64 e.ga + BitVec.ofNat 64 i, e.row * g.pitch + e.off + i)) ∧
  (∀ (i : Nat) (r r' : Run), (g.runs x j)[i]? = some r → (g.runs x j)[i + 1]? = some r' →
    ¬ (r.ga + BitVec.ofNat 64 r.n = r'.ga ∧ r.off + r.n = r'.off))

/-- 14 R361 to R371: a local copy reads and writes the bytes that its record names, one beat an lc, and keeps the engine for as
many lc as it has beats, plus one; each pair of its beats is a source byte and its place in the dense block or in the tensor, and
beat b, a segment of 256 bytes of a row's dense span, reads b + 1 lc after issue.
(Here with no earlier local copy on its way that the early-read checker watches.) Completes: cpyin, cpyout on local shapes. -/
def Sys2Proof.Rules.LocalCopies : Prop := ∀ (s : State) (a b : BitVec 5) (n o : BitVec 4) (g : Shape),
  g = Shape.of (vget s.core.g n.toNat 0) → g.sp = false → s.str.sec = false → s.core.localEnd ≤ 1 → s.core.watch = [] →
  let ctl := (s.rx b).toNat
  let la := ctl % 2 ^ 22
  let es := g.elems (s.rx a).toNat 0
  let off := s.str.spb.toNat % 128 * 32768
  let dense (e : Elem) : Nat := la + e.row * g.pitch + e.off
  let inside (x : Int) : Prop := 0 ≤ x ∧ x < 2 ^ 64 ∧ s.core.inBounds s.str.spb (BitVec.ofInt 64 x) g.esz = true
  la % g.esz = 0 → ctlBad ctl false = false → (∀ e ∈ es, inside (dense e) ∧ inside e.ga) →
  s.acquiring false (es.flatMap fun e => [(dense e, g.esz), (e.ga.toNat, g.esz)]) = false →
  (∀ f ∈ [(Instr.cpyin a b n 0, false), (.cpyout a b n, true)], g.fates f.2 = [] → ∃ t bs, Completes f.1 s t ∧
    s.SameRegisters t ∧ t.core.spad = s.core.spad ∧ t.core.beats = s.core.beats ++ bs ∧
    t.core.localEnd = (if g.beats = 0 then s.core.localEnd else g.beats + 1) ∧
    (∀ x ∈ bs, 1 ≤ x.left ∧ x.left ≤ g.beats) ∧ (bs.map (·.left)).Nodup ∧
    ∀ (l : Nat) (q : Nat × Nat), (∃ x ∈ bs, x.left = l ∧ q ∈ x.pairs) ↔
      ∃ e ∈ es, l = e.row * ((g.span + 255) / 256) + e.off / 256 + 1 ∧ ∃ i < g.esz,
      q = if f.2 = true then (dense e + off + i, e.ga.toNat + off + i) else (e.ga.toNat + off + i, dense e + off + i)) ∧
  (1 ≤ o.toNat → o.toNat < 12 → g.fates false = [] → 
    Completes (.cpyin a b n o) s (s.takeTrap { code := 0x0E, sub := 0x65, cmd := some s.str.pc }))

/-- 14 R373 to R381: a tagged copy takes its tag, whose count is the bytes that it moves, and is on its way: into the pool with the
bytes that its stream sees, out of it as one queued effect, or as the iterations of a looping copy, which wait for stages. (Here
without an object, poison or a reduce code. That the source is read at issue is the model's reading, notes/assumptions/17.md.)
Completes: cpyin, cpyout, cpyloop. -/
def Sys2Proof.Rules.TaggedCopies : Prop := ∀ (s : State) (a b : BitVec 5) (n : BitVec 4) (g : Shape) (t : Nat),
  g = Shape.of (vget s.core.g n.toNat 0) → g.sp = true → g.cnten = false → s.pkg.poison = [] → s.core.poison = [] →
  let ctl := (s.rx b).toNat
  let x := (s.rx a).toNat
  let la := ctl % 2 ^ 22
  let rs := g.runs x 0
  let vr (l : List Run) : List (Word × Nat) := l.map fun r => (r.ga, r.n)
  let bytes (l : List Run) : Nat := (l.map Run.n).sum
  let place (k : Nat) : Nat := (BitVec.ofNat 64 (la + k)).toNat + s.str.spb.toNat % 128 * 32768
  let moved (l : List Run) (f : Nat → Nat) : List Host.Cell :=
    l.flatMap fun r => (s.gbytes r.ga r.n).zipIdx.map fun y => (f (r.off + y.2), y.1)
  let quiet (write : Bool) (l : List (Nat × Nat)) : Prop :=
    s.core.mustWait l = false ∧ s.early write 0 (BitVec.ofNat 64 la) l = none
  let fits : Prop := (∀ r ∈ rs, la + r.off < 2 ^ 22 ∧ s.core.inBounds s.str.spb (BitVec.ofNat 64 (la + r.off)) r.n = true) ∧
    s.acquiring false (rs.map fun r => (la + r.off, r.n)) = false
  t = ctl / 2 ^ 24 % 64 → (s.core.tag t).st ≠ .outstanding → (s.core.tag t).fresh = false → ctlBad ctl true = false →
  la % g.esz = 0 →
  let began (u : State) (l : List Run) : Prop := s.SameRegisters u ∧ u.core.spad = s.core.spad ∧ u.str.pend = s.str.pend ∧
    u.core.tag t = { st := .outstanding, bytes := bytes l, sec := s.str.sec }
  (g.fates false = [] → fits → quiet true (rs.map fun r => (place r.off, r.n)) → s.Reaches { r := true } (vr rs) →
    ∃ u c r, Completes (.cpyin a b n 0) s u ∧ began u rs ∧ u.core.copies = s.core.copies ++ [c] ∧ c.tag.toNat = t ∧
    c.ring = none ∧ c.todo = [] ∧ c.runs = [r] ∧ c.err = none ∧ r.bytes = bytes rs ∧ r.cells = moved rs place) ∧
  (g.fates true = [] → fits → quiet false (rs.map fun r => (place r.off, r.n)) → s.Reaches { w := true } (vr rs) →
    ∃ u c p, Completes (.cpyout a b n) s u ∧ began u rs ∧
    u.core.copies = s.core.copies ++ [c] ∧ c.tag.toNat = t ∧ c.err = none ∧ u.str.gq = s.str.gq ++ [p] ∧ p.tag = some c.tag ∧
    p.eff = .bytes (rs.flatMap fun r => ((s.pkg.physOf s.core.fn r.ga r.n).zipIdx.map fun y =>
      (y.1, s.core.spad.read (place r.off + y.2))))) ∧
  (let its := if g.noop then (List.range g.niter).map fun _ => [] else (List.range g.niter).map fun j => g.runs x j
    let span := if g.rows = 0 then 0 else g.pitch * (g.rows - 1) + g.span
    ∀ r, la = 0 → g.fates false = [] → s.core.feeds g.ring = false → vget s.core.rings g.ring none = some r →
    g.noop = true ∨ span ≤ r.sb → quiet true ((r.claimable g.niter).map fun i => (r.base + i * r.sb, r.sb)) →
    (∀ i < r.nst, s.acquiring false [(r.base + i * r.sb - s.str.spb.toNat % 128 * 32768, r.sb)] = false) →
    s.Reaches { r := true } (vr its.flatten) → ∃ u c, Completes (.cpyloop a b n) s u ∧ began u its.flatten ∧
      u.core.copies = s.core.copies ++ [c] ∧ c.tag.toNat = t ∧ c.ring = some g.ring ∧ c.runs = [] ∧ c.err = none ∧
      c.todo = its.map fun l => (bytes l, moved l id))

/-- 14 R368, R375, R381: the engine's own events. A beat reads its bytes and writes them one lc later; a tagged copy's bytes land
whole, and with the last of them its tag is DONE, unobserved; a copy out completes with its queued write performed, and with it
those that the stream queued before it; an iteration of a looping copy fills its stage. (Here for copies without a reduce code and
an object, into bytes that no fill is on its way to, and into the pool of streams with no queued write.) Completes: localCopyBeat,
taggedCopyCompletion, loopingIterationLanding. -/
def Sys2Proof.Rules.CopyEvents : Prop := ∀ (s : State) (t : BitVec 6), s.core.spad.wf = true → s.core.poison = [] → s.core.marks = [] →
  (∀ b, s.core.beats.filter (·.left == 0) = [b] → s.core.mustWait (b.pairs.map fun p => (p.1, 1)) = false →
    s.str.held = false → s.core.engTrap = none → ∃ u, Completes .localCopyBeat s u ∧ u.str = s.str ∧
    u.core.beats = s.core.beats.filter (·.left != 0) ∧ u.core.spad = s.core.spad ∧
    u.core.stores = s.core.stores ++ [{ cells := b.pairs.map fun p => (p.2, s.core.spad.read p.1), left := 1, seq := 2 ^ 64 }]) ∧
  (∀ c r l o rest, c ∈ s.core.copies → (∀ x ∈ s.core.copies, x.tag = t → x = c) → c.tag = t → c.ring = none → c.runs = [r] →
    r.cells = [] → r.stage = none → c.red = 0 → c.cnt = none → c.todo = [] → c.sec = s.str.sec → s.str.gq = l ++ o :: rest →
    (∀ x ∈ l, x.tag ≠ some t ∧ x.place = false) → o.tag = some t → o.place = false →
    ∃ u, Completes (.taggedCopyCompletion t) s u ∧ s.SameRegisters u ∧ u.core.spad = s.core.spad ∧ u.str.gq = rest ∧
      u.pkg = (l ++ [o]).foldl (fun pk x => pk.performOp s.core.fn x) s.pkg ∧
      u.core.copies = s.core.copies.filter (·.tag != t) ∧
      u.core.tag t.toNat = { s.core.tag t.toNat with st := .done, flags := 0, err := c.err, fresh := true }) ∧
  (∀ c r rest, c ∈ s.core.copies → (∀ x ∈ s.core.copies, x.tag = t → x = c) → c.tag = t → c.runs = r :: rest → c.red = 0 →
    c.cnt = none → s.str.gq = [] → s.alt.gq = [] → s.core.filling (r.cells.map fun x => (x.1, 1)) = false →
    let landed (u : State) : Prop := s.SameRegisters u ∧ u.pkg = s.pkg ∧ ∀ a : Nat, u.core.spad.read a =
      ((r.cells.reverse.find? (fun x => x.1 == a)).map (·.2)).getD (s.core.spad.read a)
    (c.ring = none → r.stage = none → rest = [] → c.todo = [] → ∃ u, Completes (.taggedCopyCompletion t) s u ∧ landed u ∧
      u.core.copies = s.core.copies.filter (·.tag != t) ∧
      u.core.tag t.toNat = { s.core.tag t.toNat with st := .done, flags := 0, err := c.err, fresh := true }) ∧
    (∀ (k j : Nat) (g : Ring), c.ring = some k → r.stage = some (k, j) → k < 16 → vget s.core.rings k none = some g → j < g.nst →
      ∃ u, Completes (.loopingIterationLanding t) s u ∧ landed u ∧ ∃ g', vget u.core.rings k none = some g' ∧
        g'.stage j = (.full, g.cc) ∧ (rest ≠ [] ∨ c.todo ≠ [] → (u.core.tag t.toNat) = s.core.tag t.toNat)))

/-- The block transfer engine (14 R361 to R381). -/
def Obligations.Copies : Prop := Rules.ShapeElements ∧ Rules.LocalCopies ∧ Rules.TaggedCopies ∧ Rules.CopyEvents

/-! ### Collectives -/

/-- 21 R476, R491, R492: CRANK and CRANKG land the lowest index of the issuer's own entry in the table, or all ones; a malformed
table is fault 0x14, sub-code 3; CPLAN lands the plan, the package and the pauses, logged under code
0x05 when any pause is counted. Completes: crank, crankg, cplan. -/
def Obligations.RanksAndPlans : Prop := ∀ (s : State) (d b : BitVec 5),
  let va := s.rx b
  let q := va.toNat + s.str.spb.toNat % 128 * 32768
  let me := s.pkg.podn % 1024 * 2 ^ 22 + s.core.gang.toNat * 2 ^ 6 + s.core.tile.toNat % 64
  let rank (g raw : Nat) : Word := match (List.range g).find? fun i => raw / 2 ^ (128 + 32 * i) % 2 ^ 32 == me with
    | some i => BitVec.ofNat 64 i
    | none => BitVec.allOnes 64
  (∀ g n : Nat, s.str.xlate = none → va.toNat % 16 = 0 → n = 16 + 4 * g → 1 ≤ g → g ≤ 1024 →
    (s.core.inBounds s.str.spb va n = true → s.core.spad.num q 16 = g → s.Free [(q, n)] →
      Completes (.crank d b) s ((s.sampled [(q, n)]).gives (.x d (rank g (s.core.spad.num q n))) 2)) ∧
    (ofBytes (s.gbytes va 16) = g → s.Reaches { r := true } [(va, 16)] → s.Reaches { r := true } [(va, n)] →
      s.readFault va (s.pkg.physOf s.core.fn va n) = none → ∃ u, Completes (.crankg d b) s u ∧ s.SameRegisters u ∧
        u.str.pend = s.str.pend ++ [{ target := .x d (rank g (ofBytes (s.gbytes va n))), left := 2, baddr := s.str.pc }])) ∧
  (∀ g : Nat, va.toNat % 16 = 0 → s.core.inBounds s.str.spb va 16 = true → s.core.spad.num q 16 = g → g = 0 ∨ 1024 < g →
    s.str.xlate = none → s.Free [(q, 16)] →
    Completes (.crank d b) s (s.takeTrap { code := 0x14, sub := 3, cmd := some s.str.pc })) ∧
  (∀ w : Word, w = BitVec.ofNat 64 ((match s.pkg.active with | some p => p.hdr.toNat / 2 ^ 64 % 2 ^ 16 | none => 0) +
      s.pkg.podn % 1024 * 2 ^ 16 + s.pkg.pauses.toNat * 2 ^ 32) →
    (s.pkg.pauses = 0 → Completes (.cplan d) s (s.gives (.x d w) 1)) ∧
    (s.pkg.pauses ≠ 0 → Completes (.cplan d) s ((s.cause 0x05 w).gives (.x d (s.replayed w)) 1)))

/-- 21 R477, R478, Tables 4 and 5: the fields of a loop-nest record, and its iterations: one for each vector of indices below the
levels' bounds, at its place in lexicographic order, with the local and the remote address, the peer and the step of that place. -/
def Sys2Proof.Rules.LoopNests : Prop :=
  (∀ (r : BitVec 2048) (l : Nat), let h := Nest.of r
    let f (hi lo : Nat) : Nat := r.toNat / 2 ^ lo % 2 ^ (hi + 1 - lo)
    let s (hi lo : Nat) : Int := if 2 ^ (hi - lo) ≤ f hi lo then (f hi lo : Int) - 2 ^ (hi + 1 - lo) else f hi lo
    h.lbase = f 511 448 ∧ h.rbase = f 447 384 ∧ h.flag.toNat = f 383 320 ∧ h.chunk = f 319 288 ∧ h.stepbase = f 287 272 ∧
    h.srank = f 271 256 ∧ h.pbase = s 255 240 ∧ h.red = f 15 12 ∧ (h.rel = true ↔ f 11 11 = 1) ∧ (h.gsp = true ↔ f 10 10 = 1) ∧
    (h.fsp = true ↔ f 9 9 = 1) ∧ (h.rsp = true ↔ f 8 8 = 1) ∧ (h.lsp = true ↔ f 7 7 = 1) ∧ h.lv.length = min (f 2 0) 6 ∧
    (l < min (f 2 0) 6 → let b := 512 + 256 * l
      h.lv[l]? = some { lstr := s (b + 255) (b + 192), rstr := s (b + 191) (b + 128), bound := f (b + 111) (b + 96)
                        pcoef := s (b + 95) (b + 64) })) ∧
  (∀ (h : Nest) (g rank : Nat) (is : List Nat), (h.iterations g rank).length = (h.lv.map Level21.bound).prod ∧
    (is.length = h.lv.length → (∀ x ∈ h.lv.zip is, x.2 < x.1.bound) →
      let j := (h.lv.zip is).foldl (fun n x => n * x.1.bound + x.2) 0
      let sum (f : Level21 → Int) : Int := ((h.lv.zip is).map fun x => f x.1 * x.2).sum
      (h.iterations g rank)[j]? = some (h.lbase + sum Level21.lstr,
        (((if h.rel = true then (rank : Int) else 0) + h.pbase + sum Level21.pcoef) % g).toNat,
        h.rbase + sum Level21.rstr, h.stepbase + h.srank * rank + j)))

/-- 21 R477 to R487, R490: a COLL over more than itself takes its tag and hands the walker one iteration per chunk, with the
source, the member, the remote address and the step of 21 R478; the walker sends each chunk on its way; a chunk for a member here
writes its bytes and updates its flag, and is reported to the package that sent it; the collective completes when every chunk has
settled. (Here with local sources and tables, no reduce code, no poison and no fill on its way; a chunk for another package
settles with that package's answer, the next of an input, DEDUCED, unsafe: notes/assumptions/39.md.) Completes: coll,
walkerChunkRead, chunkArrival, collectiveCompletion. -/
def Sys2Proof.Rules.CollectiveEvents : Prop := ∀ (s : State) (t : BitVec 6),
  (∀ (a b : BitVec 5) (h : Nest) (es : List (BitVec 32)) (q p r : Nat),
    q = (s.rx a).toNat + s.str.spb.toNat % 128 * 32768 → p = (s.rx b).toNat + s.str.spb.toNat % 128 * 32768 →
    h = Nest.of (BitVec.ofNat 2048 (s.core.spad.num q 256)) → es = (List.range (s.core.spad.num p 16)).map (fun i =>
      BitVec.ofNat 32 (s.core.spad.num (p + 16 + 4 * i) 4)) → s.core.spad.num p 16 = es.length → s.rankIn es = some r →
    (s.core.tag t.toNat).st ≠ .outstanding → (s.core.tag t.toNat).fresh = false → s.core.colls.length < 4 →
    (s.rx a).toNat % 256 = 0 → (s.rx b).toNat % 16 = 0 → s.core.inBounds s.str.spb (s.rx a) 256 = true →
    2 ≤ es.length → es.length ≤ 1024 → s.core.inBounds s.str.spb (s.rx b) (16 + 4 * es.length) = true →
    s.str.xlate = none → s.Free [(q, 256)] → s.Free [(p, 16 + 4 * es.length)] →
    h.ok = true → h.redBad = false → h.gsp = false → h.lsp = false → 0 < h.total → h.chunk ≠ 0 →
    h.stepbase + h.srank * r + (h.total - 1) < 2 ^ 32 → (∀ e ∈ es, e.toNat / 2 ^ 22 = s.pkg.podn) →
    let its := h.iterations es.length r
    let place (x : Int) : Nat := (BitVec.ofInt 64 x).toNat + s.str.spb.toNat % 128 * 32768
    (∀ i ∈ its, s.sourceFault h.chunk i.1 = none ∧ s.early false 0 (BitVec.ofInt 64 i.1) [(place i.1, h.chunk)] = none) →
    s.lheld (its.map fun i => (place i.1, h.chunk)) = false →
    ∃ u c, Completes (.coll a b t) s u ∧ s.SameRegisters u ∧ u.core.spad = s.core.spad ∧ u.core.colls = s.core.colls ++ [c] ∧
      c.tag = t ∧ c.total = h.total ∧ c.settled = 0 ∧ c.err = none ∧
      u.core.tag t.toNat = { st := .outstanding, bytes := h.total * h.chunk, sec := s.str.sec } ∧
      c.iters.map (fun i => (i.j, i.src, i.peer, i.ra, i.step)) =
        its.zipIdx.map fun i => (i.2, place i.1.1, i.1.2.1, i.1.2.2.1, i.1.2.2.2)) ∧
  (∀ g i rest, s.core.colls = [g] → g.tag = t → g.iters = i :: rest → g.sec = s.str.sec → s.str.mode ≠ .stopped →
    s.core.poison = [] → i.bad = none → s.core.filling [(i.src, (Nest.of g.rcd).chunk)] = false →
    ∃ u c, Completes (.walkerChunkRead t) s u ∧ u.str = s.str ∧ u.core.spad = s.core.spad ∧
      u.pkg.chunks = s.pkg.chunks ++ [c] ∧ c.bytes = i.data.getD (s.core.spad.readN i.src (Nest.of g.rcd).chunk) ∧
      c.ra = i.ra ∧ c.step = i.step ∧ c.last = decide (i.j + 1 = g.total) ∧ c.src = some s.core.seat ∧ c.tag = t ∧
      u.core.colls.map (·.iters) = [rest]) ∧
  (let takes (c : Chunk) : Prop := s.str.sec = false ∧ s.member c = some s.core.id ∧ c.red = 0 ∧ c.rsp = false ∧ c.fsp = false ∧
      s.core.spad.wf = true ∧ s.core.poison = [] ∧ s.core.stores = [] ∧ 0 ≤ c.ra ∧ c.ra < 2 ^ 64 ∧
      s.core.inBounds 0 (BitVec.ofInt 64 c.ra) c.bytes.length = true ∧ s.core.inBounds 0 c.flag 32 = true ∧
      (c.flag.toNat + 32 ≤ c.ra.toNat ∨ c.ra.toNat + c.bytes.length ≤ c.flag.toNat) ∧
      s.core.filling [(c.ra.toNat, c.bytes.length), (c.flag.toNat, 32)] = false
   let landed (c : Chunk) (u : State) : Prop := s.SameRegisters u ∧ u.core.spad.readN c.ra.toNat c.bytes.length = c.bytes ∧
      u.core.spad.num c.flag.toNat 32 =
        objUpdate (s.core.spad.num c.flag.toNat 32) c.bytes.length (if c.last then 1 else 0) % 2 ^ 256
   (∀ k c, s.pkg.chunks[k]? = some c → c.held = false →
    (c.pkg.toNat ≠ s.pkg.podn → ∃ u, Completes (.chunkArrival (.own k)) s u ∧ u.pkg.chunks = s.pkg.chunks.eraseIdx k ∧
      u.pkg.replies = s.pkg.replies.tail ∧ u.core.spad = s.core.spad) ∧
    (c.pkg.toNat = s.pkg.podn → takes c →
      ∃ u, Completes (.chunkArrival (.own k)) s u ∧ u.pkg.chunks = s.pkg.chunks.eraseIdx k ∧ landed c u)) ∧
   (∀ f : FarChunk, let c := Chunk.ofFar s.pkg.podn s.pkg.clock f
    takes c → ∃ u, Completes (.chunkArrival (.far f)) s u ∧ u.pkg.chunks = s.pkg.chunks ∧ landed c u ∧
      u.pkg.sent = s.pkg.sent ++ [.chunk f.pkg f.ref {}])) ∧
  (∀ g, s.core.colls = [g] → g.tag = t → g.iters = [] → g.settled = g.total → g.note = false → ∃ u,
    Completes (.collectiveCompletion t) s u ∧ u.str = s.str ∧ u.pkg = s.pkg ∧ u.core.colls = [] ∧
    u.core.tag t.toNat = { s.core.tag t.toNat with st := .done, flags := g.flags, err := g.err.map Prod.snd, fresh := true })

/-- Loop nests, COLL, the walker, chunks and the end of a collective (21 R477 to R490). -/
def Obligations.Collectives : Prop := Rules.LoopNests ∧ Rules.CollectiveEvents

/-! ### Messages, barriers and neighbour stores -/

/-- 08 R223 to R226, R234: a message takes a slot of its channel at the core it names, with the sender's coordinates and lc, or its
sender waits for one; a receive takes the oldest message of its sender, waits where there is none, and faults where the lc or the
kind differ or no tile of the gang has the coordinates. Completes: send, sendv, recv, recvv, messageArrival. -/
def Sys2Proof.Rules.Messages : Prop := ∀ (s : State) (a x b d : BitVec 5) (v : BitVec 6) (h : BitVec 4), s.str.sec = false →
  (∀ (w ch : Nat) (c : CoreCtx), w = (s.rx a).toNat → w < 2 ^ 20 → w % 256 < s.core.gw.toNat → w / 256 % 256 < s.core.gh.toNat →
    ch = w / 2 ^ 16 → s.mate (w % 256) (w / 256 % 256) = some c →
    ∀ f ∈ [(Instr.send a x, false, (s.rx x).setWidth 4096), (.sendv a v, true, s.rv v)],
      ((c.core.chan ch).length < 4 → ∃ u c' m, Completes f.1 s u ∧ s.SameRegisters u ∧ c' ∈ u.ctxs ∧ c'.core.id = c.core.id ∧
        c'.core.chan ch = c.core.chan ch ++ [m] ∧ m.fx = s.core.tx ∧ m.fy = s.core.ty ∧ m.ts = s.str.lcc ∧ m.vec = f.2.1 ∧
        m.data = f.2.2 ∧ s.pkg.clock + s.pkg.delays.headD 0 ≤ m.arrive ∧
        ∀ o ∈ c.core.chan ch, o.fx = m.fx → o.fy = m.fy → o.arrive ≤ m.arrive) ∧
      (4 ≤ (c.core.chan ch).length → Completes f.1 s (s.onStr fun t => { t with held := true }))) ∧
  (2 ^ 20 ≤ (s.rx a).toNat → ∀ i ∈ [Instr.send a x, .sendv a v], Completes i s (s.takeTrap { code := 0x01, sub := 5 })) ∧
  (∀ (w : Nat) (ts : BitVec 48) (m : Msg), w = (s.rx b).toNat → ts = BitVec.ofNat 48 w → w / 2 ^ 48 % 256 < s.core.gw.toNat →
    w / 2 ^ 56 < s.core.gh.toNat → (s.core.chan h.toNat).find? (fun m => decide (m.fx.toNat = w / 2 ^ 48 % 256 ∧
      m.fy.toNat = w / 2 ^ 56)) = some m → m.arrive ≤ s.pkg.clock →
    let taken := s.onCore fun k => { k with chans := vset k.chans h.toNat ((s.core.chan h.toNat).erase m) }
    (m.ts = ts → m.vec = false → Completes (.recv h b d) s (taken.gives (.x d (m.data.setWidth 64)) 3)) ∧
    (m.ts = ts → m.vec = true → Completes (.recvv h b v) s (taken.gives (.v v (BitVec.allOnes 4096) m.data) 3)) ∧
    (m.ts ≠ ts → ∀ i ∈ [Instr.recv h b d, .recvv h b v], Completes i s
      (s.takeTrap { code := 0x08, aux0 := ts.setWidth 64, aux1 := m.ts.setWidth 64 })) ∧
    (m.ts = ts → Completes (if m.vec = true then .recv h b d else .recvv h b v) s
      (s.takeTrap { code := 0x08, sub := 1, aux0 := ts.setWidth 64, aux1 := m.ts.setWidth 64 }))) ∧
  (∀ w : Nat, w = (s.rx b).toNat → ∀ i ∈ [Instr.recv h b d, .recvv h b v],
    (s.core.gw.toNat ≤ w / 2 ^ 48 % 256 ∨ s.core.gh.toNat ≤ w / 2 ^ 56 →
      Completes i s (s.takeTrap { code := 0x08, sub := 2, aux0 := BitVec.ofNat 64 (w % 2 ^ 48) })) ∧
    (w / 2 ^ 48 % 256 < s.core.gw.toNat → w / 2 ^ 56 < s.core.gh.toNat →
      (∀ m, (s.core.chan h.toNat).find? (fun m => decide (m.fx.toNat = w / 2 ^ 48 % 256 ∧ m.fy.toNat = w / 2 ^ 56)) = some m →
        s.pkg.clock < m.arrive) →
      Completes i s (s.onStr fun t => { t with held := true }))) ∧
  (∀ (k : Nat) (m : Msg), (s.core.chan h.toNat)[k]? = some m → ∃ u, Completes (.messageArrival h k) s u ∧ u.str = s.str ∧
    u.pkg = s.pkg ∧ (u.core.chan h.toNat)[k]? = some { m with arrive := min m.arrive s.pkg.clock } ∧
    (u.core.chan h.toNat).length = (s.core.chan h.toNat).length)

/-- 08 R217, R228 to R231, R235: ARRIVE notes its stream at the barrier of its scope, as a release; WAIT is held while the
generation that its stream arrived in is open, and as an acquire for the stream's earlier acquires (11 R297); a package scope without
a group, or the pod without an active plan, is fault 0x01, sub-code 7; the generation completes when every member has arrived. NSTV writes a vector to the
bank of a member of its quad, two lc later, in a quad that runs in lockstep. Completes: arrive, wait, barrierGenerationComplete,
nstv. -/
def Sys2Proof.Rules.BarriersAndNeighbours : Prop := ∀ (s : State) (c : BitVec 3) (a : BitVec 5) (m : BitVec 2) (v : BitVec 6),
  (1 ≤ c.toNat → c.toNat < 6 → c.toNat ≤ 3 ∨ (s.core.bcount ≠ 0 ∧ (c = 5 → s.pkg.active ≠ none)) → (s.str.sec = true → c = 1) → let k := s.barKey c
    (s.arrivalOpen c = false → s.unperformed = false → ∃ u, Completes (.arrive c) s u ∧ s.SameRegisters u ∧ u.core = s.core ∧
      u.str.held = false ∧ (u.pkg.bar c k).arrived = (s.pkg.bar c k).arrived ++ [s.me] ∧ (u.pkg.bar c k).gen = (s.pkg.bar c k).gen ∧
      u.arrival c = some (s.pkg.bar c k).gen) ∧
    (s.arrivalOpen c = true → ∀ i ∈ [Instr.arrive c, .wait c], Completes i s (s.onStr fun t => { t with held := true })) ∧
    (s.unperformed = true → Completes (.arrive c) s (s.onStr fun t => { t with held := true })) ∧
    (s.unacquired = true → Completes (.wait c) s (s.onStr fun t => { t with held := true })) ∧
    (s.arrivalOpen c = false → s.unacquired = false → ∃ u, Completes (.wait c) s u ∧ s.SameRegisters u ∧ u.str.held = false ∧
      u.arrival c = none ∧ u.pkg = s.pkg)) ∧
  (4 ≤ c.toNat → c.toNat < 6 → s.core.bcount = 0 ∨ (c = 5 ∧ s.pkg.active = none) → ∀ i ∈ [Instr.arrive c, .wait c],
    Completes i s (s.takeTrap { code := 0x01, sub := 7 })) ∧
  (∀ k : Nat, (s.pkg.bar c k).arrived ≠ [] → s.barFull (s.pkg.bar c k) = true → c.toNat < 6 →
    ∃ u, Completes (.barrierGenerationComplete c k) s u ∧ u.str = s.str ∧ u.core = s.core ∧
      (u.pkg.bar c k).gen = (s.pkg.bar c k).gen + 1 ∧ (u.pkg.bar c k).arrived = []) ∧
  (s.core.lock = false → Completes (.nstv a m v) s (s.takeTrap { code := 0x01, sub := 6 })) ∧
  (∀ (x : CoreCtx) (p : Nat), s.core.lock = true → s.str.sec = false → p = (s.rx a).toNat + s.str.spb.toNat % 128 * 32768 →
    (s.rx a).toNat % 512 = 0 → s.core.inBounds s.str.spb (s.rx a) 512 = true → x ∈ s.ctxs →
    x.core.id = s.core.id / 4 * 4 + m.toNat → (∀ y ∈ s.ctxs, y.core.id = x.core.id → y = x) →
    (x.core.id = s.core.id → s.Free [(p, 512)]) →
    (x.core.id ≠ s.core.id → x.core.mustWait [(p, 512)] = false ∧ s.watched false (s.rx a).toNat 512 = none) →
    ∃ u x', Completes (.nstv a m v) s u ∧ s.SameRegisters u ∧ u.core.spad = s.core.spad ∧ x' ∈ u.ctxs ∧ x'.core.id = x.core.id ∧
      x'.core.stores = x.core.stores ++ [{ cells := cellsAt p (toBytes 512 (s.rv v).toNat), left := 2
                                           seq := 2 ^ 66 + s.core.id }])

/-- Messages, barriers and neighbour stores (08 R220 to R234). -/
def Obligations.MessagesAndBarriers : Prop := Rules.Messages ∧ Rules.BarriersAndNeighbours

/-! ### Probes and keys -/

/-- 10 R285 to R290: PCFG lays the cache out empty; PROBE answers the slot of a block and, where it misses, takes the victim and
fetches the block's bytes, which land whole; PLOOK looks without fetching; PINV and PINVA invalidate; TAGSET, TAGSETZ and TAGGET set
and read the keys of granules, in the step of their issue (DEDUCED, unsafe: notes/assumptions/28.md; here without a retag journal,
and for granules that stand under the key of their page). A fill that cannot be made is a fault of its PROBE (DEDUCED, unsafe:
notes/assumptions/16.md). Completes: pcfg, probe, plook, pinv, pinva, probeFillLanding, tagset, tagsetz, tagget. -/
def Obligations.ProbesAndKeys : Prop := ∀ (s : State) (a b d : BitVec 5) (p : BitVec 4),
  let pr := s.core.probe
  let blk := (s.rx b).toNat / 256 % 2 ^ 49
  let slotAt (i : Nat) : Word := BitVec.ofNat 64 (pr.region + 256 * i)
  let answers (u : State) (v : Word) (miss : Bool) : Prop := u.str.pend = s.str.pend ++
    [{ target := .x d v, left := 2, baddr := s.str.pc }, { target := .p p miss, left := 2, baddr := s.str.pc }] ∧
    s.SameRegisters u ∧ u.core.spad = s.core.spad
  (∀ n w : Nat, n = (s.rx b).toNat % 2 ^ 13 → w = (s.rx b).toNat / 2 ^ 16 → w < 4 → (s.rx b).toNat / 2 ^ 13 % 8 = 0 → 1 ≤ n →
    n ≤ 4096 → n % 2 ^ w = 0 → (s.rx a).toNat % 256 = 0 → s.core.inBounds s.str.spb (s.rx a) (256 * n) = true →
    pr.filling = false → ∃ u, Completes (.pcfg a b) s u ∧ s.SameRegisters u ∧ u.core.probe.nslot = n ∧ u.core.probe.ways = 2 ^ w ∧
      u.core.probe.region = (s.rx a).toNat ∧ ∀ x, u.core.probe.find x = none) ∧
  (pr.nslot = 0 → (∀ i ∈ [Instr.probe d b p, .plook d b p], Completes i s (s.takeTrap { code := 0x0E, sub := 0x31 })) ∧
    Completes (.pinv b) s s.issued) ∧
  (pr.nslot ≠ 0 → ∀ i, pr.find blk = some i →
    (∃ u, Completes (.probe d b p) s u ∧ answers u (slotAt i) false ∧ u.core.probe.stamp = pr.stamp + 1) ∧
    (∃ u, Completes (.plook d b p) s u ∧ answers u (slotAt i) false ∧ u.core.probe = pr) ∧
    ((pr.way i).fill = none → i < pr.tab.length → ∃ u, Completes (.pinv b) s u ∧ s.SameRegisters u ∧
      (u.core.probe.way i).block = none ∧ ∀ j, j ≠ i → u.core.probe.way j = pr.way j)) ∧
  (pr.nslot ≠ 0 → pr.find blk = none → Completes (.pinv b) s s.issued ∧
    (∃ u, Completes (.plook d b p) s u ∧ answers u (BitVec.allOnes 64) true ∧ u.core.probe = pr) ∧
    (∀ (i : Nat) (va : Word), i = pr.victim blk → i < pr.tab.length → va = s.rx b >>> 8 <<< 8 → (pr.way i).fill = none →
      s.core.mustWait [(pr.pool + 256 * i, 256)] = false → s.Reaches { r := true } [(va, 256)] →
      s.readFault va (s.pkg.physOf s.core.fn va 256) = none → ∃ u, Completes (.probe d b p) s u ∧ answers u (slotAt i) true ∧
        (u.core.probe.way i).block = some blk ∧
        (u.core.probe.way i).fill = some (s.pkg.clock + s.pkg.delays.headD 0, s.gbytes va 256))) ∧
  (pr.filling = false → ∃ u, Completes .pinva s u ∧ s.SameRegisters u ∧ ∀ w ∈ u.core.probe.tab, w.block = none) ∧
  (∀ i f, i < pr.tab.length → (pr.way i).fill = some f → s.core.spad.wf = true → ∃ u, Completes (.probeFillLanding i) s u ∧
    u.str = s.str ∧ (u.core.probe.way i).fill = none ∧ u.core.spad.readN (pr.pool + 256 * i) f.2.length = f.2 ∧
    ∀ x : Nat, x < pr.pool + 256 * i ∨ pr.pool + 256 * i + f.2.length ≤ x → u.core.spad.read x = s.core.spad.read x) ∧
  (∀ (va : Word) (n : Nat) (loc : List PAddr), va = s.rx a → n = (s.rx b).toNat → loc = s.pkg.physOf s.core.fn va n →
    va.toNat % 32 = 0 → n % 32 = 0 → 1 ≤ n → n ≤ 2 ^ 20 → s.Reaches { w := true, tagOp := true } [(va, n)] → s.str.gq = [] →
    (s.pkg.fnOf s.core.fn).retag = 0 → swf (0 : BitVec 4) 0 s.pkg.keys = true → s.pkg.dev.wf = true →
    (∀ l ∈ loc, sget 0 s.pkg.enc (l.addr / 32) = l.kid) →
    ∀ f ∈ [(Instr.tagset a b, false), (.tagsetz a b, true)], ∃ u, Completes f.1 s u ∧ s.SameRegisters u ∧
      u.core.spad = s.core.spad ∧ (u.pkg.fnOf s.core.fn).retagSeq = (s.pkg.fnOf s.core.fn).retagSeq ∧
      (∀ x : Nat, u.pkg.keyAt x = if ∃ l ∈ loc, l.addr / 32 = x / 32 then va.extractLsb' 60 4 else s.pkg.keyAt x) ∧
      (f.2 = false → u.pkg.dev = s.pkg.dev) ∧ (f.2 = true → ∀ l ∈ loc, l.tier = 0 → u.pkg.dev.read l.addr = 0)) ∧
  (∀ l, s.Reaches { r := true, tagOp := true } [(s.rx a, 1)] → s.pkg.physOf s.core.fn (s.rx a) 1 = [l] → ∃ u,
    Completes (.tagget a d) s u ∧ s.SameRegisters u ∧ u.str.pend = s.str.pend ++
      [{ target := .x d ((s.view.keyAt l.addr).setWidth 64), left := 4, baddr := s.str.pc }])

/-! ### The haul plan, migration, debug and stream events -/

/-- 15 R393 to R404, R411: HAULSET takes the table in and starts the entries of START 0; BLAZE moves the newest blaze up, starts what
is due and waits for the entries that it needs; HAULEND lets go of a plan whose actions are done; HAULSTAT reads it. (The last three
here of a plan whose actions keep no fault.) Completes: haulset, haulend, blaze, haulstat. -/
def Sys2Proof.Rules.HaulPlan : Prop := ∀ (s : State) (a b c d : BitVec 5),
  let va := s.rx a
  let x := va.toNat
  let n := (s.rx b).toNat
  let w := (s.rx c).toNat
  let es := (els 256 n (ofBytes (s.gbytes va (32 * n)))).map (BitVec.ofNat 256)
  let starts (l : List (BitVec 256)) (lo : Int) (hi i : Nat) : Prop :=
    i < l.length ∧ lo < eStart (l.getD i 0) ∧ eStart (l.getD i 0) ≤ hi
  let has (p : Plan) (i : Nat) : Prop := ∃ y ∈ p.acts, y.idx = i
  let noPlan : Trap := { code := 0x0E, sub := 0x73 }
  (x % 32 = 0 → 1 ≤ n → n ≤ 2 ^ 20 → windowLegal w = true →
    s.core.inBounds s.str.spb (BitVec.ofNat 64 (w % 2 ^ 22)) (w / 2 ^ 32 % 2 ^ 23) = true →
    s.Reaches { r := true } [(va, 32 * n)] → s.readFault va (s.pkg.physOf s.core.fn va (32 * n)) = none →
    (∃ r ∈ (s.pkg.fnOf s.core.fn).seals, r.st = .sealed ∧ r.base ≤ x % 2 ^ 57 ∧ x % 2 ^ 57 + 32 * n ≤ r.base + r.bytes) →
    (s.core.plan.isSome = true → Completes (.haulset a b c) s (s.takeTrap { code := 0x0E, sub := 0x72 })) ∧
    (s.core.plan = none → (∀ e ∈ es, entryLegal (w % 2 ^ 22) (w / 2 ^ 32 % 2 ^ 23) e = true) → ∃ u p,
      Completes (.haulset a b c) s u ∧ s.SameRegisters u ∧ u.core.spad = s.core.spad ∧ u.core.plan = some p ∧ p.addr = va ∧
      p.count = n ∧ p.window = s.rx c ∧ p.spb = s.str.spb ∧ p.sec = s.str.sec ∧ p.last = 0 ∧ p.entries = es ∧
      ∀ i, has p i ↔ starts es (-1) 0 i)) ∧
  (s.core.plan = none → Completes .haulend s s.issued ∧ Completes (.haulstat d) s (s.gives (.x d 0) 2) ∧
    Completes (.blaze a) s (s.takeTrap noPlan)) ∧
  (∀ p, s.core.plan = some p →
    Completes (.haulstat d) s (s.gives (.x d (BitVec.ofNat 64 (p.last + 2 ^ 32 + if p.sec then 2 ^ 33 else 0))) 2) ∧
    (p.sec ≠ s.str.sec → ∀ i ∈ [Instr.haulend, .blaze a], Completes i s (s.takeTrap noPlan)) ∧
    (p.sec = s.str.sec → (∀ y ∈ p.acts, y.fault = none ∧ y.stuck = false) →
      let held := s.onStr fun t => { t with held := true }
      let due (i : Nat) : Prop := i < p.entries.length ∧ p.last < eNeed (p.entry i) ∧ eNeed (p.entry i) ≤ x
      let open_ (i : Nat) : Prop := ∀ y ∈ p.acts, y.idx = i → y.done = false
      ((∀ y ∈ p.acts, y.done = true) → Completes .haulend s { s.issued with core := { s.core with plan := none } }) ∧
      ((∃ y ∈ p.acts, y.done = false) → Completes .haulend s held) ∧
      (2 ^ 32 ≤ x → Completes (.blaze a) s (s.takeTrap noPlan)) ∧
      (x < 2 ^ 32 → x < p.last → Completes (.blaze a) s (s.takeTrap { code := 0x10, sub := 2, aux0 := va })) ∧
      (x < 2 ^ 32 → x = p.last → Completes (.blaze a) s s.issued) ∧
      (x < 2 ^ 32 → p.last < x →
        ((∀ i, due i → ¬ open_ i) → ∃ u q, Completes (.blaze a) s u ∧ s.SameRegisters u ∧ u.core.plan = some q ∧ q.last = x ∧
          q.entries = p.entries ∧ ∀ i, has q i ↔ has p i ∨ starts p.entries p.last x i) ∧
        (∀ i, due i → open_ i → (∀ j, due j → open_ j → i ≤ j) → p.waiting ≠ some x → s.core.hpb.getLsbD 0 = true →
          Completes (.blaze a) s (s.takeTrap { code := 0x10, sub := 1, cmd := some (BitVec.ofNat 64 i), aux0 := va })) ∧
        ((∃ i, due i ∧ open_ i) → s.core.hpb.getLsbD 0 = false → (∀ i, ¬ starts p.entries p.last x i) →
          ∃ u, Completes (.blaze a) s u ∧ u.str = held.str))))

/-- 15 R396 to R399, R407 to R409: an action completes as a whole, in the pool or in global space, once no earlier one that shares a
byte goes on (that its bytes, captured as it began, land then is the model's reading, DEDUCED, unsafe: notes/assumptions/31.md); a
migration blocks both pages and drops their translations, those that the caches hold at its issue too, copies the frame, read under
the key of the one and written under that of the other (22 R497), exchanges the leaves' frame, key and tier,
and at last clears the block as it drops them again, and ends on its tag. It waits where an update that a copy counts into an
object on one of the pages is outstanding (10 R271). (Here with no further work for the actions that wait.)
Completes: haulActionCompletion, migrate, migrationInvalidated, migrationCopyDone, migrationComplete. -/
def Sys2Proof.Rules.ActionsAndMigrations : Prop := ∀ (s : State) (a b : BitVec 5) (t : BitVec 6) (m : Migration),
  (∀ p x idx, s.core.plan = some p → p.acts.find? (·.idx == idx) = some x → (∀ y ∈ p.acts, y.done = false → y.begun = true) →
    x.done = false → p.before idx = [] → x.err = none → s.core.spad.wf = true →
    let after (u : State) : Prop := s.SameRegisters u ∧ u.core.plan = some (p.onAct idx fun y =>
      { y with done := true, fault := y.err, cells := [], stuck := false }) ∧
      ∀ z : Nat, u.core.spad.read z = ((x.cells.reverse.find? (fun c => c.1 == z)).map (·.2)).getD (s.core.spad.read z)
    (s.str.gq = [] → s.alt.gq = [] → ∃ u, Completes (.haulActionCompletion idx) s u ∧ after u ∧ u.pkg = s.pkg) ∧
    (∀ o, p.sec = s.str.sec → s.str.gq = [o] → o.act = some idx → o.place = false → ∃ u, Completes (.haulActionCompletion idx) s u ∧ after u ∧
      u.str.gq = [] ∧ u.pkg = s.pkg.performOp s.core.fn o)) ∧
  (∀ ea eb, s.pkg.translate s.core.fn (s.rx a) = .ok ea → s.pkg.translate s.core.fn (s.rx b) = .ok eb →
    (s.core.tag t.toNat).st ≠ .outstanding → (s.core.tag t.toNat).fresh = false →
    s.Reaches { r := true, w := true, plain := true } [(s.rx a, 1), (s.rx b, 1)] →
    (∀ r ∈ (s.pkg.fnOf s.core.fn).seals, overlap r.base r.bytes ea.base ea.size = false ∧
      overlap r.base r.bytes eb.base eb.size = false) → leafBit ea.leaf 5 = false → leafBit eb.leaf 5 = false →
    leafBit (s.pkg.leafNow ea) 7 = false → leafBit (s.pkg.leafNow eb) 7 = false →
    (ea.base = eb.base ∨ ea.size ≠ eb.size → Completes (.migrate a b t) s (s.takeTrap { code := 0x0E, sub := 0x74 })) ∧
    (ea.base ≠ eb.base → ea.size = eb.size → ea.leafAt + 8 ≤ eb.leafAt ∨ eb.leafAt + 8 ≤ ea.leafAt → s.pkg.dev.wf = true →
      swf 0 0 s.pkg.enc = true → ∃ u g, Completes (.migrate a b t) s u ∧ s.SameRegisters u ∧
        (∀ e ∈ u.pkg.tlb, e.fn = s.core.fn → overlap e.base e.size ea.base ea.size = false ∧
          overlap e.base e.size eb.base eb.size = false) ∧
        u.core.tag t.toNat = { st := .outstanding, bytes := ea.size, sec := s.str.sec } ∧
        u.pkg.migrations = s.pkg.migrations ++ [g] ∧ g.tag = some t ∧ g.core = s.core.id ∧ g.step = 0 ∧ g.a = ea ∧ g.b = eb ∧
        u.pkg.leafNow ea = setWb (s.pkg.leafNow ea) true ∧ u.pkg.leafNow eb = setWb (s.pkg.leafNow eb) true)) ∧
  (let dropped (u : State) : Prop := ∀ e ∈ u.pkg.tlb, e.fn = m.fn → overlap e.base e.size m.a.base m.a.size = false ∧
      overlap e.base e.size m.b.base m.b.size = false
    let moved (u : State) (g : Migration) : Prop := u.pkg.migrations = s.pkg.migrations.map fun x => if x = m then g else x
    let due := s.pkg.clock + s.pkg.delays.headD 0
    let la := s.pkg.leafNow m.a
    let lb := s.pkg.leafNow m.b
    let waits : Prop := s.objOutstanding m.fn m.a.base m.a.size = true ∨ s.objOutstanding m.fn m.b.base m.b.size = true
    let fa := s.pkg.leafFrame la
    let fb := s.pkg.leafFrame lb
    (s.migration t 0 = some m → waits → Completes (.migrationInvalidated t) s s) ∧
    (s.migration t 2 = some m → waits → Completes (.migrationComplete t) s s) ∧
    (s.migration t 0 = some m → ¬ waits → ∃ u, Completes (.migrationInvalidated t) s u ∧ (s.Seated → s.SameRegisters u) ∧
      dropped u ∧ moved u { m with step := 1, due := due }) ∧
    (s.migration t 1 = some m → s.pkg.dev.wf = true → swf 0 0 s.pkg.enc = true → s.pkg.poison = [] → leafTier la = 0 →
      leafTier lb = 0 → m.a.size ∈ [2 ^ 16, 2 ^ 21, 2 ^ 30] → s.pkg.keyOk m.fn { m.a with leaf := la } = true →
      s.pkg.keyOk m.fn { m.b with leaf := lb } = true →
      m.a.leafAt + 8 ≤ m.b.leafAt ∨ m.b.leafAt + 8 ≤ m.a.leafAt → overlap (leafPfn lb * 65536) m.a.size m.a.leafAt 8 = false →
      overlap (leafPfn lb * 65536) m.a.size m.b.leafAt 8 = false →
      ∃ u, Completes (.migrationCopyDone t) s u ∧ s.SameRegisters u ∧ moved u { m with step := 2, due := due, err := none } ∧
        u.pkg.leafNow m.a = setWb ((la &&& ~~~frameMask) ||| (lb &&& frameMask)) true ∧
        u.pkg.leafNow m.b = setWb ((lb &&& ~~~frameMask) ||| (la &&& frameMask)) true ∧
        ∀ i < m.a.size, u.pkg.readPA (fb.plus i) = s.pkg.readPA (fa.plus i)) ∧
    (s.migration t 2 = some m → ¬ waits → (∀ c ∈ s.ctxs, c.core.plan = none) → ∃ u, Completes (.migrationComplete t) s u ∧
      dropped u ∧ u.pkg.migrations = s.pkg.migrations.filter (· != m) ∧ (s.Seated → s.SameRegisters u ∧
      u.core.tag t.toNat = { s.core.tag t.toNat with st := .done, flags := 0, err := m.err, fresh := true })))

/-- The haul plan and page migration (15 R389 to R411). -/
def Obligations.HaulAndMigration : Prop := Rules.HaulPlan ∧ Rules.ActionsAndMigrations

/-- 20 R448 to R462: DTRACE writes a record at its function's ring; LPCRD reads a loop's counters; the injections need DBGEN and
flip one bit, or poison one granule; DBRK stops its stream; a sample records where the stream is, and the lc at which the bundle
there is to issue. (Where the counters saturate is the model's reading, DEDUCED, unsafe: notes/assumptions/21.md; that the flip in
L-space is made on the byte as it stands when it lands, DEDUCED, unsafe: notes/assumptions/41.md.) Completes: dtrace, lpcrd, dinjA,
dinjM, dinjgM, traceSample; dbrk, whose effect is its stop. -/
def Sys2Proof.Rules.DebugForms : Prop := ∀ (s : State) (a b d : BitVec 5) (m : BitVec 2),
  let va := s.rx a
  let x := va.toNat
  let y := (s.rx b).toNat
  let bad : Trap := { code := 0x0E, sub := 0x90 }
  let p := x + s.str.spb.toNat % 128 * 32768
  Completes (.dtrace a) s { s.issued with pkg := s.pkg.trace s.core 1 s.str.sec 3 0 0 s.str.pc s.str.lcc x } ∧
  Completes .dbrk s (s.takeTrap { code := 0x17, sub := 4 }) ∧
  (64 ≤ x ∨ 9 < x / 4 % 16 → Completes (.lpcrd a d) s (s.takeTrap bad)) ∧
  (x < 64 → x / 4 ≤ 9 →
    let v : Word := match s.str.loops[x % 4]? with
      | none => 0
      | some l => BitVec.ofNat 64 (if x / 4 = 0 then min l.lc (2 ^ 32 - 1) else if x / 4 = 9 then min l.frozen (2 ^ 48 - 1)
          else min (l.used.getD (x / 4 - 1) 0) (2 ^ 32 - 1))
    let timed : Prop := (x / 4 = 9 ∧ v ≠ 0) ∨ (x / 4 = 0 ∧ s.str.sec = true)
    (¬ timed → Completes (.lpcrd a d) s (s.gives (.x d v) 1)) ∧
    (timed → Completes (.lpcrd a d) s ((s.cause 0x05 v).gives (.x d (s.replayed v)) 1))) ∧
  (s.str.sec = true → Completes (.dinjA a b) s (s.takeTrap { code := 0x03 })) ∧
  (s.dbgen = false → (s.str.sec = false → Completes (.dinjA a b) s (s.takeTrap { code := 0x04, sub := 1 })) ∧
    (m.toNat < 2 → Completes (.dinjM a b m) s (s.takeTrap { code := 0x04, sub := 1 }) ∧
      Completes (.dinjgM a b m) s (s.takeTrap { code := 0x04, sub := 1 }))) ∧
  (2 ≤ m.toNat → ∀ i ∈ [Instr.dinjM a b m, .dinjgM a b m], Completes i s (s.takeTrap { code := 0x01 })) ∧
  (s.dbgen = true →
    (s.str.sec = false → s.core.badAcc (x % 256) = false → x < 256 → y < 2 ^ 14 →
      Completes (.dinjA a b) s (Scheduled s [{ eff := .flip x y, left := 0, rank := 4 }])) ∧
    (m = 0 → s.core.inBounds s.str.spb va 1 = true → y < 8 → s.Free [(p, 1)] → ∃ u,
      Completes (.dinjM a b m) s u ∧ u.str = s.issued.str ∧ u.core.spad = s.core.spad ∧ u.core.stores = s.core.stores ++
        [{ cells := [(p, 1#8 <<< y)], left := 1, seq := 16 * s.core.issue + (if s.str.sec then 8 else 0) + 3, sec := s.str.sec, xor := true }]) ∧
    (m = 1 → y < 8 → s.Reaches { r := true, w := true } [(va, 1)] → tierFault s.core.fn va 15 s.pkg = none →
      Completes (.dinjgM a b m) s { s.issued with pkg := { s.pkg with
        poison := (s.pkg.poison ++ (s.pkg.physOf s.core.fn va 1).map fun (l : PAddr) => l.addr / 32).eraseDups } }) ∧
    (∀ loc, m = 0 → y < 8 → s.Reaches { r := true, w := true } [(va, 1)] → tierFault s.core.fn va 5 s.pkg = none →
      s.Reaches { r := true, w := true } [(va >>> 3 <<< 3, 8)] → tierFault s.core.fn (va >>> 3 <<< 3) 5 s.pkg = none →
      (s.pkg.physOf s.core.fn (va >>> 3 <<< 3) 8).head? = some loc →
      ∃ u, Completes (.dinjgM a b m) s u ∧ s.Issues (.atomic loc 5 8 (2 ^ (8 * (x % 8) + y))) u)) ∧
  (s.str.mode ≠ .idle → s.alt.mode = .idle →
    let stuck : Nat := if s.core.run = .frozen ∨ s.str.held = true then 1 else 0
    let late : Nat := if s.str.sec = false ∧ s.core.run = .frozen ∧ s.core.lcPart = .after then 1 else 0
    let issue := s.str.lcc + BitVec.ofNat 48 (s.str.gap + late)
    Completes .traceSample s { s with pkg := s.pkg.trace s.core 3 s.str.sec 1 0 0 s.str.pc issue stuck })

/-- 01 R44; 04 R139; 08 R207, R210; 18 R437: a precise stop of a running stream is the taking of its exception; a stream that has
ended completes, with its core's log, once nothing that it issued is on its way; the last of its gang frees the slot and the
cores, whose scratchpads stay, but for a slot that is STOPPING (09 Table 6); a phase of a function without gangs commits, and the
write tracking of a deterministic one is cleared. Completes: preciseStop, streamCompletion, phaseCommit. -/
def Sys2Proof.Rules.StreamEvents : Prop := ∀ (s : State) (code : BitVec 8) (sub : BitVec 16) (fn : BitVec 5) (lid : Word)
    (num : BitVec 16),
  (s.str.mode = .running → Completes (.preciseStop code sub) s (s.takeTrap { code := code, sub := sub })) ∧
  (s.str.mode = .ended → s.drained = true → s.ctx.a.mode ≠ .idle → s.core.slot < 256 →
    let log := s.pkg.puppet ++ [PMsg.completion s.core.id s.str.sec s.core.clog s.core.clogOvf]
    let t := { s with str := { s.str with mode := .done }, pkg := { s.pkg with puppet := log } }
    ((∃ c ∈ t.gangOf s.core.slot, c.over = false) ∨ (s.pkg.slot s.core.slot).st = .stopping →
      Completes .streamCompletion s t) ∧
    ((∀ c ∈ t.gangOf s.core.slot, c.over = true) → (s.pkg.slot s.core.slot).st ≠ .stopping →
      ∃ u, Completes .streamCompletion s u ∧ u.str.mode = .idle ∧
      u.alt.mode = .idle ∧ u.core.spad = s.core.spad ∧ (u.pkg.slot s.core.slot).st = .free ∧ u.pkg.puppet = log)) ∧
  (∀ p, s.pkg.phases.find? (fun x => x.fn == fn.toNat && x.lid == lid && x.num == num) = some p →
    (p.wanted ≠ [] ∨ p.live ≠ [] → Completes (.phaseCommit ⟨fn, lid⟩ num) s s) ∧
    (p.wanted = [] → p.live = [] →
    let phases := s.pkg.phases.erase p
    let key := (fn.toNat, lid, num)
    Completes (.phaseCommit ⟨fn, lid⟩ num) s { s with pkg := if p.free = true then { s.pkg with phases := phases }
      else { s.pkg with
        phases := phases, tracking := s.pkg.tracking.filter fun t => (t.fn, t.lid, t.num) != key
        trackFull := s.pkg.trackFull.filter (·.2 != key), trackTold := s.pkg.trackTold.filter (·.2 != key) } }))

/-- Debug and trace forms; the precise stop, the completion of a stream and the commit of a phase (20 R448 to R462; 04 R139; 08 R207). -/
def Obligations.DebugAndStreamEvents : Prop := Rules.DebugForms ∧ Rules.StreamEvents

/-! ### Command queues -/

/-- Queue `q` stops before its entry with fault `c`, its function is told, and nothing else of the machine changes but that
function's notification block (09 R241). -/
def QueueStops (s : State) (q : BitVec 6) (c : BitVec 8) (t : State) : Prop :=
  let u := s.pkg.queue q
  t.pkg.queue q = u.halted c ∧ (∀ r, r ≠ q → t.pkg.queue r = s.pkg.queue r) ∧ t.str = s.str ∧ t.core = s.core ∧
  t.others = s.others ∧ t.pkg.dev = s.pkg.dev ∧
  (u.fn < 17 → ((s.pkg.fnOf u.fn).widx + 2 ^ 64 - (s.pkg.fnOf u.fn).ridx) % 2 ^ 64 < 1024 →
    ∃ n ∈ (t.pkg.fnOf u.fn).notes, n.type = 1 ∧ n.arg = q.setWidth 32 ∧ n.tag = c.setWidth 32)

/-- 09 R243 to R246: the entries that steer a queue. A held entry stays in hand; a done one leaves it. Completes: queueNop,
phaseEnd, condSkip, waitValue, waitValueReread, jump, queueCall, queueReturn, writeValue. -/
def Sys2Proof.Rules.QueueControl : Prop := ∀ (s : State) (q : BitVec 6) (last commit notify : BitVec 1) (cond : BitVec 3) (n tag : BitVec 32)
    (word val mask off : Word),
  let u := s.pkg.queue q
  let fn := u.fn
  let done (f : Queue → Queue) : State := s.onQueue q fun x => { f x with entry := none, wait := .none }
  let stops (i : Instr) (c : BitVec 8) : Prop := ∃ t, Completes i s t ∧ QueueStops s q c t
  Completes (.queueNop q) s (done id) ∧
  (s.pkg.uncommitted q = true → Completes (.phaseEnd q last) s s) ∧
  (s.pkg.uncommitted q = false → Completes (.phaseEnd q last) s
    (done fun x => if last = 1 then { x with lid := none, last := none } else x)) ∧
  (∀ waits tests, waits = (if u.entry = (encodeEntry (.waitValue q cond word val mask)).map (BitVec.ofNat 256)
      then [Instr.waitValue q cond word val mask, .waitValueReread q] else [.waitValue q cond word val mask]) →
    tests = Instr.condSkip q cond n word val mask :: waits →
    (6 ≤ cond.toNat → ∀ i ∈ tests, stops i 1) ∧
    (cond.toNat < 6 → word.toNat % 8 ≠ 0 → ∀ i ∈ tests, stops i 2) ∧
    (∀ c, cond.toNat < 6 → word.toNat % 8 = 0 → s.pkg.qread fn word 8 = .error c → ∀ i ∈ tests, stops i c) ∧
    (∀ bs, cond.toNat < 6 → word.toNat % 8 = 0 → s.pkg.qread fn word 8 = .ok bs →
      let w : Word := BitVec.ofNat 64 (ofBytes bs) &&& mask
      let holds : Prop := cond = 0 ∧ w = val ∨ cond = 1 ∧ w ≠ val ∨ cond = 2 ∧ w.toInt < val.toInt ∨ cond = 3 ∧ val.toInt ≤ w.toInt ∨
        cond = 4 ∧ w.toNat < val.toNat ∨ cond = 5 ∧ val.toNat ≤ w.toNat
      (holds → (∀ i ∈ waits, Completes i s (done id)) ∧
        (u.calls = [] → Completes (.condSkip q cond n word val mask) s (done fun x => { x with skip := x.skip + n.toNat })) ∧
        (∀ a rest, u.calls = a :: rest → Completes (.condSkip q cond n word val mask) s
          (done fun x => { x with calls := (a + BitVec.ofNat 64 (32 * n.toNat)) :: rest }))) ∧
      (¬ holds → (∀ i ∈ waits, Completes i s s) ∧ Completes (.condSkip q cond n word val mask) s (done id)))) ∧
  (u.calls = [] → stops (.queueReturn q) 5 ∧ (off.toInt < 1 → stops (.jump q off) 6) ∧
    (1 ≤ off.toInt → Completes (.jump q off) s (done fun x => { x with skip := x.skip + (off.toNat - 1) }))) ∧
  (∀ a rest, u.calls = a :: rest → Completes (.queueReturn q) s (done fun x => { x with calls := rest }) ∧
    (off = 0 → stops (.jump q off) 6) ∧
    (off ≠ 0 → Completes (.jump q off) s (done fun x => { x with calls := (a - 32 + 32 * off) :: rest }))) ∧
  (off.toNat % 32 ≠ 0 → stops (.queueCall q off) 2) ∧
  (off.toNat % 32 = 0 → 4 ≤ u.calls.length → stops (.queueCall q off) 4) ∧
  (off.toNat % 32 = 0 → u.calls.length < 4 → Completes (.queueCall q off) s (done fun x => { x with calls := off :: x.calls })) ∧
  (∀ write, write = Instr.writeValue q commit notify tag word val →
    (commit = 1 → s.pkg.uncommitted q = true → Completes write s s) ∧
    (commit = 0 ∨ s.pkg.uncommitted q = false → (word.toNat % 8 ≠ 0 → stops write 2) ∧
      (word.toNat % 8 = 0 → s.pkg.qwritable fn word 8 = false → stops write 3) ∧
      (word.toNat % 8 = 0 → s.pkg.qwritable fn word 8 = true → s.pkg.qblocked fn word 8 = true → Completes write s s) ∧
      (word.toNat % 8 = 0 → s.pkg.qwritable fn word 8 = true → s.pkg.qblocked fn word 8 = false →
        let pk := s.pkg.qwrite fn word (toBytes 8 val.toNat)
        ∃ t, Completes write s t ∧ t.str = s.str ∧ t.core = s.core ∧ t.pkg.queue q = { u with entry := none, wait := .none } ∧
          t.pkg.dev = pk.dev ∧ t.pkg.host = pk.host ∧ t.pkg.peer = pk.peer ∧ (notify = 0 → ∀ f, t.pkg.fnOf f = pk.fnOf f) ∧
          (notify = 1 → fn < 17 → ((pk.fnOf fn).widx + 2 ^ 64 - (pk.fnOf fn).ridx) % 2 ^ 64 < 1024 →
            ∃ e ∈ (t.pkg.fnOf fn).notes, e.type = 2 ∧ e.tag = tag))))

/-- 09 R238, R241, R242, R243, R247: what a LAUNCH takes from its descriptor at `desc`, or its queue fault: 1 for LID 0, 2 for an
address that is no multiple of 64, 10 for a phase of another launch than the open one or not after its last, 3 for bytes that
cannot be read, 8 for a value outside R247 in the header, in the phase's entry or in a record of one of its gangs. It fills the
records in. (That the order of the checks is this one is the model's reading: notes/assumptions/42.md; that a phase without gangs
is malformed, that the first entry with the phase's NUM counts and that the others' reserved bytes are not looked at, its choice:
notes/assumptions/84.md, notes/assumptions/100.md.) -/
def Sys2Proof.Rules.LaunchDescriptors : Prop := ∀ (pk : Package) (u : Queue) (phase : BitVec 16) (desc lid argp : Word),
  let out := pk.launchRead u phase desc lid argp
  let unread (va : Word) (n : Nat) : Prop := ∃ c, pk.qread u.fn va n = .error c
  (lid = 0 → out = .error 1) ∧
  (lid ≠ 0 → desc.toNat % 64 ≠ 0 → out = .error 2) ∧
  (lid ≠ 0 → desc.toNat % 64 = 0 → (∀ l n, u.lid = some l → u.last = some n → l ≠ lid ∨ phase.toNat ≤ n.toNat → out = .error 10) ∧
    (u.lid = none ∨ u.last = none ∨ (∃ n, u.lid = some lid ∧ u.last = some n ∧ n.toNat < phase.toNat) →
      (unread desc 64 → out = .error 3) ∧
      ∀ hb, pk.qread u.fn desc 64 = .ok hb →
        let head (lo n : Nat) : Nat := ofBytes hb / 2 ^ lo % 2 ^ n
        let np := head 0 32
        let ng := head 32 32
        let phases := desc + BitVec.ofNat 64 (head 64 64)
        let headBad : Prop := np = 0 ∨ 4096 < np ∨ ng = 0 ∨ 65536 < ng ∨ head 64 64 % 64 ≠ 0 ∨ head 128 64 % 64 ≠ 0 ∨ head 192 320 ≠ 0
        (headBad → out = .error 8) ∧
        (¬ headBad → (unread phases (16 * np) → out = .error 3) ∧
          ∀ pb, pk.qread u.fn phases (16 * np) = .ok pb →
            let fld (k lo n : Nat) : Nat := ofBytes pb / 2 ^ (128 * k + lo) % 2 ^ n
            ((∀ k < np, fld k 0 16 ≠ phase.toNat) → out = .error 8) ∧
            ∀ k < np, fld k 0 16 = phase.toNat → (∀ j < k, fld j 0 16 ≠ phase.toNat) →
              let first := fld k 32 32
              let count := fld k 64 32
              let entryBad : Prop := fld k 17 15 ≠ 0 ∨ fld k 96 32 ≠ 0 ∨ count = 0 ∨ ng < first + count
              let gangs := desc + BitVec.ofNat 64 (head 128 64 + 128 * first)
              (entryBad → out = .error 8) ∧
              (¬ entryBad → (unread gangs (128 * count) → out = .error 3) ∧
                ∀ gb, pk.qread u.fn gangs (128 * count) = .ok gb →
                  let own (j : Nat) : BitVec 1024 := BitVec.ofNat 1024 (ofBytes gb / 2 ^ (1024 * j))
                  let blank (r : BitVec 1024) : Prop := ∀ f ∈ [(80, 0), (111, 96), (123, 118), (146, 144), (153, 149), (639, 512)],
                    rcdF r f.1 f.2 = 0
                  ((∃ j < count, ¬ blank (own j)) → out = .error 8) ∧
                  ((∀ j < count, blank (own j)) → ∃ gs, out = .ok (decide (fld k 16 1 = 1), gs) ∧ gs.length = count ∧
                    ∀ j (h : j < gs.length), let g := gs[j]
                      recLid g = lid ∧ recPhase g = phase ∧ rcdF g 80 80 = fld k 16 1 ∧ recGang g = BitVec.ofNat 16 j ∧
                      rcdF g 153 149 = u.fn % 32 ∧ rcdF g 639 576 = desc.toNat ∧
                      rcdF g 511 448 = (if argp = 0 then rcdF (own j) 511 448 else argp.toNat) ∧
                      ∀ f ∈ [(95, 81), (148, 112), (447, 154), (575, 512), (1023, 640)], rcdF g f.1 f.2 = rcdF (own j) f.1 f.2)))))

/-- 09 R242, R252; 21 R476: a LAUNCH waits for its queue's phase before, reads its descriptor, fires the gangs that are armed, asks
for the others in the order of their queues' priorities, and is done when every bind is accepted. An armed bind that fires takes
the LAUNCH's LID and, where it is not 0, its argument pointer. (That equal functions, LIDs and phase numbers are one phase, and
that a LAUNCH fires the armed gangs of its own function, is the model's: notes/assumptions/90.md.) Completes: launch. -/
def Sys2Proof.Rules.Launches : Prop := ∀ (s : State) (q : BitVec 6) (phase : BitVec 16) (desc lid argp : Word),
  let u := s.pkg.queue q
  let i := Instr.launch q phase desc lid argp
  (u.wait ≠ .binds → s.pkg.uncommitted q = true → Completes i s s) ∧
  (u.wait ≠ .binds → s.pkg.uncommitted q = false →
    (∀ c, s.pkg.launchRead u phase desc lid argp = .error c → ∃ t, Completes i s t ∧ QueueStops s q c t) ∧
    (∀ free gs, s.pkg.launchRead u phase desc lid argp = .ok (free, gs) →
      ((∀ g ∈ gs, s.pkg.armedFor g = none) → gs ≠ [] → ∃ t, Completes i s t ∧ t.str = s.str ∧ t.core = s.core ∧
        t.pkg.phases = s.pkg.phases ++ [{ lid := lid, num := phase, free := free, fn := u.fn, queue := q.toNat
                                          wanted := gs.map recGang, live := [] }] ∧
        t.pkg.puppet = s.pkg.puppet ∧ t.pkg.queue q = { u with lid := some lid, last := some phase, wait := .binds } ∧
        ((∀ r ∈ s.pkg.requests, r.1 / 8 ≤ q.toNat / 8) → t.pkg.requests = s.pkg.requests ++ gs.map (q.toNat, ·)) ∧
        ((∀ r ∈ s.pkg.requests, q.toNat / 8 < r.1 / 8) → t.pkg.requests = gs.map (q.toNat, ·) ++ s.pkg.requests)) ∧
      (∀ g j, gs = [g] → s.pkg.armedFor g = some j → ∃ t, Completes i s t ∧ (t.pkg.slot j).st = .running ∧
        recLid (t.pkg.slot j).rcd = lid ∧ t.pkg.puppet = s.pkg.puppet ∧ t.pkg.requests = s.pkg.requests ∧
        (argp ≠ 0 → (t.pkg.slot j).rcd.extractLsb' 448 64 = argp) ∧
        (∀ y, (s.pkg.slot j).ctxs = [y] → y.a.sec = false → y.b.sec = true → ∃ c ∈ t.ctxs, c.core.id = y.core.id ∧ c.core.lid = lid ∧ c.a.pc = y.a.pc ∧
          c.a.x[1] = if argp = 0 then y.a.x[1] else argp) ∧
        t.pkg.queue q = { u with lid := some lid, last := some phase, entry := none, wait := .none }))) ∧
  (∀ g j, s.pkg.armedFor g = some j → (s.pkg.slot j).st = .armed ∧ recFn (s.pkg.slot j).rcd = recFn g ∧
    rcdF (s.pkg.slot j).rcd 639 576 = rcdF g 639 576 ∧ recPhase (s.pkg.slot j).rcd = recPhase g ∧
    recGang (s.pkg.slot j).rcd = recGang g ∧ ∀ k < j, (s.pkg.slot k).st = .armed → recFn (s.pkg.slot k).rcd = recFn g →
      rcdF (s.pkg.slot k).rcd 639 576 = rcdF g 639 576 → recPhase (s.pkg.slot k).rcd = recPhase g →
      recGang (s.pkg.slot k).rcd ≠ recGang g) ∧
  (∀ p, u.wait = .binds → s.pkg.phases.find? (fun x => x.fn == u.fn && x.lid == lid && x.num == phase) = some p →
    (p.wanted ≠ [] → Completes i s s) ∧
    (p.wanted = [] → Completes i s (s.onQueue q fun x => { x with entry := none, wait := .none })))

/-- 18 R435: the 64 bytes of SHAKE256 that a DIGEST writes: over the empty message and over one of two blocks, and the sponge in
general: a message is taken in by blocks of 136 bytes after its suffix and padding. (The spec names the function and gives none
of its steps; they are those of its standard: notes/assumptions/35.md.) -/
def Sys2Proof.Rules.DigestFunction : Prop :=
  (∀ m, (shake256 m).length = 64) ∧
  shake256 [] = toBytes 64 0xbec4b7b3ac2e294086b49a47491c82fcf692b5679d0105cb00f2c0d8ddc45dd72f76d56e64270cb5821bb862ea52cd3f24eb3e74eb3f3b23138da80b2bddb946 ∧
  shake256 (List.replicate 200 0xA3) = toBytes 64 0x0b61e60a6fe0d84c1c967f85b8ae22aaf3a47d5740446096ce6e39e7aa0c702d4d904aa84d4299a61c7c1e0ceea7f1d9e9528628592da20704aa41d10e928acd ∧
  (∀ m : List Byte, ∃ z, z < 136 ∧ (sponge.padded m).length % 136 = 0 ∧ (sponge.padded m).length = m.length + z + 1 ∧
    (sponge.padded m).take m.length = m ∧
    ((sponge.padded m).drop m.length = if z = 0 then [0x9F] else [0x1F] ++ List.replicate (z - 1) 0 ++ [0x80])) ∧
  (∀ m bs : List Byte, ∀ a : List Word, bs.length = 136 → a.length = 25 →
    (sponge.take a bs).length = 25 ∧ ∀ ws : List Word, ws.length = 25 →
      (∀ k < 17, ws.getD k 0 = a.getD k 0 ^^^ BitVec.ofNat 64 (ofBytes ((bs.drop (8 * k)).take 8))) →
      (∀ k, 17 ≤ k → k < 25 → ws.getD k 0 = a.getD k 0) → sponge.take a bs = sponge.permute ws)

/-- 18 R431 to R435: a CHECKPOINT waits for the phases of its queue, copies its list's regions and makes its point current; a
DIGEST writes SHAKE256 of its list's regions, whose DST fields it ignores, and then the value 1. (Bytes in a sealed range are
not copied over: notes/assumptions/92.md; SHAKE256 is that of its standard: notes/assumptions/35.md.) Completes: checkpoint,
checkpointCopiesDone, digest, digestComplete. -/
def Sys2Proof.Rules.PointsAndDigests : Prop := ∀ (s : State) (q : BitVec 6) (point : BitVec 32) (list result : Word),
  let u := s.pkg.queue q
  let fn := u.fn
  let stops (i : Instr) (c : BitVec 8) : Prop := ∃ t, Completes i s t ∧ QueueStops s q c t
  let waits (i : Instr) (w : QWait) : Prop := Completes i s (s.onQueue q fun x => { x with wait := w })
  (u.wait = .none → (s.pkg.uncommitted q = true → ∀ i ∈ [Instr.checkpoint q point list, .digest q list result], Completes i s s) ∧
    (s.pkg.uncommitted q = false →
      (∀ c, s.pkg.regionList fn list = .error c → stops (.checkpoint q point list) c) ∧
      (∀ c, s.pkg.regionList fn list false = .error c → stops (.digest q list result) c) ∧
      (∀ rs, s.pkg.regionList fn list = .ok rs → s.pkg.regionList fn list false = .ok rs ∧
        (∀ r ∈ rs, r.1.toNat % 4096 = 0 ∧ r.2.2.toNat % 4096 = 0 ∧ r.2.1 % 4096 = 0 ∧ 0 < r.2.1 ∧ r.2.1 ≤ 2 ^ 40) ∧
        ((∃ r ∈ rs, s.pkg.buddy fn r = false) → stops (.checkpoint q point list) 8) ∧
        ((∀ r ∈ rs, s.pkg.buddy fn r = true) → waits (.checkpoint q point list) (.copies point list))) ∧
      (∀ rs, s.pkg.regionList fn list false = .ok rs →
        (∀ r ∈ rs, r.1.toNat % 4096 = 0 ∧ r.2.1 % 4096 = 0 ∧ 0 < r.2.1 ∧ r.2.1 ≤ 2 ^ 40) ∧
        (s.pkg.qwritable fn result 72 = false → stops (.digest q list result) 3) ∧
        (s.pkg.qwritable fn result 72 = true → waits (.digest q list result) (.digest list result))))) ∧
  (u.wait = .copies point list → ∀ rs, s.pkg.regionList fn list = .ok rs → stops (.checkpointCopiesDone q 1) 3 ∧
    (∀ r pk, rs = [r] → fn < 17 → s.pkg.rangesFault fn { r := true } [(r.1, r.2.1)] = none →
      s.pkg.rangesFault fn { w := true } [(r.2.2, r.2.1)] = none → s.pkg.copyRegion fn r.1 r.2.2 r.2.1 = (pk, true) →
      ∃ t, Completes (.checkpointCopiesDone q 0) s t ∧ t.str = s.str ∧ t.core = s.core ∧ t.pkg.dev = pk.dev ∧ t.pkg.peer = pk.peer ∧
        (t.pkg.fnOf fn).point = some { num := point, list := list, queue := q.toNat, head := u.head, depth := u.calls.length } ∧
        (t.pkg.fnOf fn).egressIdx = 0 ∧ (t.pkg.fnOf fn).incomplete = false ∧ (t.pkg.queue q).entry = none)) ∧
  (u.wait = .digest list result → ∀ rs m, s.pkg.regionList fn list false = .ok rs → s.pkg.digestMessage fn rs = .ok m →
    s.pkg.qwritable fn result 72 = true → ∃ t, Completes (.digestComplete q) s t ∧ t.str = s.str ∧ t.core = s.core ∧
      t.pkg.dev = (s.pkg.qwrite fn result (shake256 m ++ toBytes 8 1)).dev ∧ (t.pkg.queue q).entry = none)

/-- LAUNCH, CHECKPOINT and DIGEST (09 R242, R247, R252; 18 R431 to R435). -/
def Obligations.LaunchesAndPoints : Prop := Rules.LaunchDescriptors ∧ Rules.Launches ∧ Rules.DigestFunction ∧ Rules.PointsAndDigests

/-- 09 Table 1, R237; 10 R267, R279; 15 R406; 18 R433, R438, R440; 20 R454; 22 R493 to R496: the registers that the host and
firmware write, once the package has booted. A queue's block in the BAR0 of a function that is not the queue's ignores writes. A
write of TAIL waits behind the function's own earlier writes; TAIL outside the ring's reach is queue fault 7; RST empties the
queue; a write of CMD runs the mailbox command on the words as they stand. A configuration request is answered with the class
code, or with request-retry status while the package boots; the board's controller reads BOOTST and the error counters. (The
register writes before boot do nothing, notes/assumptions/44.md; the mask bit of the MSI-X vector is notes/assumptions/77.md; that
RST keeps the launch's LID and last phase, and overtakes a TAIL that waits, is the model's choice, notes/assumptions/81.md,
notes/assumptions/98.md, as is what a migration that fails to translate does, notes/assumptions/87.md; when request-retry ends is
notes/assumptions/101.md.) Completes: tail, rst, registerWrite. -/
def Sys2Proof.Rules.HostRegisters : Prop := ∀ (s : State) (q : BitVec 6) (v : Word) (fn : BitVec 5) (r : HostReg),
  let u := s.pkg.queue q
  (s.pkg.bootst ≠ 1 → r ≠ .configRead fn → r ≠ .boardRead → (∀ g, r = .configRead g → g = fn) →
    ∀ i ∈ [Instr.tail ⟨fn, q⟩ v, .rst ⟨fn, q⟩, .registerWrite r v], Completes i s s) ∧
  (s.pkg.bootst = 1 → Completes (.registerWrite (.configRead fn) v) s
    (s.onPkg fun pk => { pk with sent := pk.sent ++ [.config fn.toNat (some 0x120000)] })) ∧
  (s.pkg.bootst ≠ 1 → s.pkg.bootStep < 5 → Completes (.registerWrite (.configRead fn) v) s
    (s.onPkg fun pk => { pk with sent := pk.sent ++ [.config fn.toNat none] })) ∧
  (v = 0 → Completes (.registerWrite .boardRead v) s
    (s.onPkg fun pk => { pk with sent := pk.sent ++ [.board pk.bootst.toNat] })) ∧
  (∀ k < 4, v.toNat = k + 1 → Completes (.registerWrite .boardRead v) s
    (s.onPkg fun pk => { pk with sent := pk.sent ++ [.board (vget pk.errors k 0)] })) ∧
  (s.pkg.bootst = 1 → u.fn ≠ fn.toNat → ∀ i ∈ [Instr.tail ⟨fn, q⟩ v, .rst ⟨fn, q⟩, .registerWrite (.qbase fn q) v,
    .registerWrite (.qlog2n fn q) v, .registerWrite (.qen fn q) v], Completes i s s) ∧
  (s.pkg.bootst = 1 →
    let reg (r : HostReg) (t : State) : Prop := Completes (.registerWrite r v) s t
    let onFn (r : HostReg) (f : FnState → FnState) : Prop := reg r (s.onPkg fun pk => pk.onFn fn.toNat f)
    let f := s.pkg.fnOf fn.toNat
    (u.fn = fn.toNat →
      (∀ w, s.pkg.waiting = [w] → ((∃ g x, w = .tail g q x) ∨ ∃ g ide req, w = .bar2 g ide req ∧ g = fn) →
        Completes (.tail ⟨fn, q⟩ v) s (s.onPkg fun pk => { pk with waiting := [w, .tail fn q v] })) ∧
      (s.pkg.waiting = [] → u.head.toNat ≤ v.toNat → v.toNat ≤ u.head.toNat + 2 ^ u.log2n →
        Completes (.tail ⟨fn, q⟩ v) s (s.onQueue q fun x => { x with tail := v })) ∧
      (s.pkg.waiting = [] → v.toNat < u.head.toNat ∨ u.head.toNat + 2 ^ u.log2n < v.toNat → u.halt = false →
        ∃ t, Completes (.tail ⟨fn, q⟩ v) s t ∧
        (t.pkg.queue q).fault = 7 ∧ (t.pkg.queue q).halt = true ∧ (t.pkg.queue q).tail = v ∧ (t.pkg.queue q).head = u.head) ∧
      Completes (.rst ⟨fn, q⟩) s (s.onQueue q fun x =>
        { x with head := x.tail, fault := 0, halt := false, calls := [], skip := 0, entry := none, wait := .none }) ∧
      (u.en = false → v.toNat % 2 ^ 12 = 0 → reg (.qbase fn q) (s.onQueue q fun x => { x with base := v })) ∧
      (u.en = true → reg (.qbase fn q) (s.onQueue q id) ∧ reg (.qlog2n fn q) (s.onQueue q id)) ∧
      (u.en = false → 4 ≤ v.toNat → v.toNat ≤ 20 → reg (.qlog2n fn q) (s.onQueue q fun x => { x with log2n := v.toNat })) ∧
      reg (.qen fn q) (s.onQueue q fun x => { x with en := v.getLsbD 0 })) ∧
    reg (.qfn q) (s.onQueue q fun x => { x with fn := v.toNat % 32 }) ∧
    onFn (.root fn) (fun f => { f with root := v }) ∧ onFn (.retag fn) (fun f => { f with retag := v }) ∧
    (v.toNat % 64 = 0 → onFn (.notifq fn) fun f => { f with notifq := v }) ∧
    (s.pkg.fnWrite fn.toNat v (List.replicate 64 0) = none →
      onFn (.journal fn) fun f => { f with journal := v, journalIdx := 0, dropped := false }) ∧
    (pageParts v 64 = [(v, 64)] → s.pkg.fnWritable fn.toNat v 64 = true → s.pkg.fnBlocked fn.toNat v 64 = false →
      s.pkg.bytesWait fn.toNat = false → f.seals = [] → s.pkg.dev.wf = true →
      ∃ t, reg (.journal fn) t ∧ t.str = s.str ∧ t.core = s.core ∧ ∀ p ∈ s.pkg.physOf fn.toNat v 64, t.pkg.readPA p = 0) ∧
    (4096 ≤ v.toNat → v.toNat ≤ 2 ^ 28 → onFn (.journalCap fn) fun f => { f with journalCap := v.toNat }) ∧
    onFn (.egress fn) (fun f => { f with egress := v }) ∧ onFn (.ridx fn) (fun f => { f with ridx := v.toNat }) ∧
    onFn (.replay fn) (fun f => { f with replay := v.getLsbD 0, replayAt := 0 }) ∧ onFn (.tag fn) (fun f => { f with mbTag := v }) ∧
    (∀ k, onFn (.arg fn k) fun f => { f with mbArg := vset f.mbArg k.toNat v }) ∧
    (fn ≠ 0 → onFn (.vfEnable fn) fun f => { f with enabled := v.getLsbD 0 }) ∧
    (∀ k, onFn (.mbRsv fn k) fun f => { f with mbRsv := vset f.mbRsv k.toNat v }) ∧
    (30 ≤ v.toNat → v.toNat ≤ 40 → onFn (.bar2Size fn) fun f => { f with bar2 := v.toNat }) ∧
    (∀ k, onFn (.noteRsv fn k) fun f => { f with noteRsv := vset f.noteRsv k.toNat v }) ∧
    (v.getLsbD 0 = true → onFn (.msixMask fn) fun f => { f with msixMask := true }) ∧
    (v.getLsbD 0 = false → f.msixPending = false → onFn (.msixMask fn) fun f => { f with msixMask := false }) ∧
    (v.getLsbD 0 = false → f.msixPending = true → reg (.msixMask fn) (s.onPkg fun pk =>
      ({ pk with sent := pk.sent ++ [Reply.msix fn.toNat] }).onFn fn.toNat fun f => { f with msixMask := false, msixPending := false })) ∧
    (∀ c : BitVec 8, ∀ p ∈ [(1, Instr.answer fn f.mbTag f.mbArg[0]), (2, .recover fn f.mbArg[0]), (3, .mailboxStop fn f.mbArg[0]),
        (4, .mailboxResume fn f.mbArg[0] f.mbArg[1]), (5, .mailboxRelease fn f.mbArg[0]), (6, .planload fn f.mbArg[0] f.mbArg[1]),
        (7, .planact fn f.mbArg[0]), (8, .debug fn f.mbArg[0] f.mbArg[1]), (9, .peerwin fn f.mbArg[0] f.mbArg[1] f.mbArg[2])],
      c = p.1 → v.setWidth 8 = c → exec (.registerWrite (.cmd fn) v) s = exec p.2 s) ∧
    (9 < (v.setWidth 8).toNat → f.mbState ≠ 1 → ∃ t, reg (.cmd fn) t ∧ t.str = s.str ∧ t.core = s.core ∧
      (fn.toNat < 17 → (t.pkg.fnOf fn.toNat).mbState = 2 ∧ (t.pkg.fnOf fn.toNat).mbResult = 4)) ∧
    (v.getLsbD 0 = true → s.pkg.active ≠ none → s.pkg.paused = false →
      reg .podPause (s.onPkg fun pk => { pk with farPause := true, paused := true, pauses := pk.pauses + 1 })) ∧
    (v.getLsbD 0 = true → s.pkg.active = none ∨ s.pkg.paused = true → reg .podPause (s.onPkg fun pk => { pk with farPause := true })) ∧
    (v.getLsbD 0 = false → reg .podPause (s.onPkg fun pk => { pk with farPause := false })) ∧
    (∀ va, (∃ x, s.pkg.translate fn.toNat va = .error x) ∨ v = va → reg (.migrate fn va) s) ∧
    (∀ va ea eb, s.pkg.translate fn.toNat va = .ok ea → s.pkg.translate fn.toNat v = .ok eb →
      s.pkg.rangesFault fn.toNat { r := true, w := true, plain := true } [(va, 1), (v, 1)] = none →
      migrateFault s.pkg fn.toNat va v = none → ∃ t m, reg (.migrate fn va) t ∧ t.str = s.str ∧ t.core = s.core ∧
        t.pkg.migrations = s.pkg.migrations ++ [m] ∧ m.tag = none ∧ m.fn = fn.toNat ∧ m.a = ea ∧ m.b = eb ∧ m.step = 0) ∧
    (∀ k : BitVec 2, reg (.bpctl k) (s.onCore fun c => { c with bpctl := vset c.bpctl k.toNat (v &&& 0x3FF) }) ∧
      reg (.bpval k) (s.onCore fun c => { c with bpval := vset c.bpval k.toNat v })) ∧
    (∀ die, reg (.agek die) (s.onPkg fun pk => { pk with agek := vset pk.agek die.toNat (v.toNat % 16) })))

/-- Control entries of the command queues, and the registers that the host writes (09 R236 to R246). -/
def Obligations.QueuesAndRegisters : Prop := Rules.QueueControl ∧ Rules.HostRegisters

/-! ### Slots -/

/-- 09 R248, Table 5; 01 R31, R41, R42; 03 R112; 13 R334; 18 R424: a bind record is refused with the number of the first case that
applies, in the order of the list. (An entry address that is no multiple of 4 is no case: notes/assumptions/96.md.) -/
def Sys2Proof.Rules.BindCases : Prop := ∀ (pk : Package) (r : BitVec 1024) (plan : List (BitVec 192)),
  let f (hi lo : Nat) : Nat := rcdF r hi lo
  let w := f 114 112 + 1
  let h := f 117 115 + 1
  let x := f 120 118
  let y := f 123 121
  let fn := f 153 149
  let plen := f 287 256
  let slen := f 319 288
  let pentry := f 383 320 % 2 ^ 57
  let sentry := f 447 384 % 2 ^ 57
  let two : Prop := f 447 384 ≠ 0
  let rfb := f 225 224
  let acb := f 230 226
  let sealedCode (va : Word) (n : Nat) : Prop := ∀ p ∈ pageParts va n, (∃ z ∈ (pk.fnOf fn).seals, z.st = .sealed ∧
    z.base ≤ p.1.toNat % 2 ^ 57 ∧ p.1.toNat % 2 ^ 57 + p.2 ≤ z.base + z.bytes) ∧
    ∃ e, pk.translate fn p.1 = .ok e ∧ leafTier e.leaf = 0 ∧ leafBit e.leaf 2 = true ∧ leafBit e.leaf 4 = true
  let area (e : BitVec 192) : Nat := e.toNat / 2 ^ 16 % 2 ^ 7 * 32768 + e.toNat % 2 ^ 15
  let size (e : BitVec 192) : Nat := e.toNat / 2 ^ 64 % 2 ^ 32
  let nst (e : BitVec 192) : Nat := e.toNat / 2 ^ 40 % 2 ^ 5
  let rings := plan.filter (nst · ≠ 0)
  let case_ (k : Nat) : Prop := match k with
    | 1 => ∃ z ∈ [(1023, 640), (223, 208), (159, 154), (127, 124), (95, 81)], f z.1 z.2 ≠ 0
    | 2 => 7 < x + (w - 1) ∨ 7 < y + (h - 1)
    | 3 => ∃ q < 16, (BitVec.ofNat 16 (f 143 128)).getLsbD q = true ∧ ∃ cx ∈ [2 * (q % 4), 2 * (q % 4) + 1],
        ∃ cy ∈ [2 * (q / 4), 2 * (q / 4) + 1], ¬ (x ≤ cx ∧ cx < x + w ∧ y ≤ cy ∧ cy < y + h)
    | 4 => rfb = 0 ∨ rfb = 3 ∨ 16 < acb ∨ (rfb = 1 ∧ two) ∨ (rfb ≠ 1 ∧ ¬ two)
    | 5 => plen % 4 ≠ 0 ∨ plen = 0 ∨ slen % 4 ≠ 0 ∨
        Config.imageBytes < plen + slen - (min (pentry + plen) (sentry + slen) - max pentry sentry) ∨ (¬ two ∧ slen ≠ 0) ∨
        ¬ sealedCode (BitVec.ofNat 64 (f 383 320)) plen ∨ (two ∧ ¬ sealedCode (BitVec.ofNat 64 (f 447 384)) (max slen 1))
    | 6 => f 147 147 = 1 ∧ f 148 148 = 0
    | 7 => 16 < fn ∨ (fn ≠ 0 ∧ (pk.fnOf fn).enabled = false)
    | 8 => ∃ p ∈ pageParts (BitVec.ofNat 64 (f 575 512)) (0x480000 * (w * h)), ¬ ∃ e, pk.translate fn p.1 = .ok e ∧
        leafTier e.leaf = 0 ∧ leafBit e.leaf 2 = true ∧ leafBit e.leaf 3 = true
    | 9 => (∃ e ∈ plan, (128 - rfb - acb) * 32768 < area e + size e) ∨
        (∃ e ∈ rings, size e % nst e ≠ 0 ∨ size e / nst e % 32 ≠ 0 ∨ size e / nst e < 96 ∨ 1048544 < size e / nst e) ∨
        ∃ i j, i < j ∧ ∃ hj : j < rings.length, ∃ hi : i < rings.length,
          rings[i].toNat / 2 ^ 36 % 2 ^ 4 = rings[j].toNat / 2 ^ 36 % 2 ^ 4
    | _ => False
  (∀ k, pk.bindCase r plan = some k ↔ case_ k ∧ ∀ j < k, ¬ case_ j) ∧ (pk.bindCase r plan = none ↔ ∀ k, ¬ case_ k)

/-- 09 R248 to R260, Table 6; 18 R423: the Puppeteer's commands. WRITE and ARM put a record that passes its checks into a FREE slot
and refuse any other; a command that finds its slot in another state has no effect and is reported; a RESUME of a poisoned image
also stops the gangs of its function. (ARM on cores that are taken or reserved, reported as late, is the model's choice:
notes/assumptions/79.md; so is what an entry address that is no multiple of 4 does: notes/assumptions/96.md; which contexts a
RESUME reads is notes/assumptions/58.md.) Completes: write, arm, disarm, stop, release, resume. -/
def Sys2Proof.Rules.SlotCommands : Prop := ∀ (s : State) (die : BitVec 2) (slot : BitVec 6) (rcd : BitVec 1024) (plan : List (BitVec 192)),
  let i := slotNo die slot
  let sl := s.pkg.slot i
  let bind := [Instr.write die slot rcd plan, .arm die slot rcd plan]
  let late (j : Instr) (cmd : Nat) : Prop :=
    Completes j s { s with pkg := { s.pkg with puppet := s.pkg.puppet ++ [.late die.toNat slot.toNat cmd] } }
  let same (t : State) : Prop := t.str = s.str ∧ t.core = s.core ∧ t.others = s.others ∧ t.pkg.dev = s.pkg.dev ∧
    ∀ j, j ≠ i → t.pkg.slot j = s.pkg.slot j
  (sl.st ≠ .free → late (.write die slot rcd plan) 1 ∧ late (.arm die slot rcd plan) 2) ∧
  (∀ c, sl.st = .free → s.pkg.bindCase rcd plan = some c → ∀ j ∈ bind, ∃ t, Completes j s t ∧ same t ∧ (t.pkg.slot i).st = .free ∧
    t.pkg.puppet = s.pkg.puppet ++ [.refusal (i / 64) (i % 64) c]) ∧
  (sl.st = .free → s.pkg.bindCase rcd plan = none →
    (∃ t, Completes (.write die slot rcd plan) s t ∧ same t ∧
      t.pkg.slot i = { sl with st := .pending, rcd := rcd, plan := plan, since := s.pkg.clock, born := s.pkg.rtc, age := 0
                               resumed := false } ∧
      ∀ r ∈ t.pkg.requests, recFn r.2 = recFn rcd → recLid r.2 = recLid rcd → recPhase r.2 = recPhase rcd →
        recGang r.2 ≠ recGang rcd) ∧
    ((∃ id ∈ recCores i rcd, s.coreBlocked i id = true) → late (.arm die slot rcd plan) 2) ∧
    ((∀ id ∈ recCores i rcd, s.coreBlocked i id = false) → ∃ t, Completes (.arm die slot rcd plan) s t ∧ same t ∧
      t.pkg.slot i = { sl with st := .armed, rcd := rcd, plan := plan, ctxs := newTasks s.pkg i rcd plan, since := s.pkg.clock })) ∧
  (sl.st = .armed → ∃ t, Completes (.disarm die slot) s t ∧ same t ∧ t.pkg.slot i = Slot.reset) ∧
  (sl.st ≠ .armed → late (.disarm die slot) 3) ∧
  (sl.st = .running → (∃ c ∈ s.gangOf i, c.over = false) → ∃ t, Completes (.stop die slot) s t ∧ same t ∧
    t.pkg.slot i = { sl with st := .stopping }) ∧
  (sl.st ≠ .running ∨ (∀ c ∈ s.gangOf i, c.over = true) → late (.stop die slot) 4) ∧
  (sl.st = .saved ∨ sl.st = .running ∧ s.faulted i = true → s.core.slot ≠ i → ∃ t, Completes (.release die slot) s t ∧
    t.pkg.slot i = Slot.reset ∧ t.str = s.str ∧ t.core = s.core ∧ ∀ c ∈ t.others, c.a.mode ≠ .idle → c.core.slot ≠ i) ∧
  (sl.st ≠ .saved → sl.st ≠ .running ∨ s.faulted i = false → late (.release die slot) 6) ∧
  (sl.st ≠ .saved → ∀ corner, late (.resume die slot corner) 5) ∧
  (∀ corner r cs, sl.st = .saved → s.pkg.poisonedImage sl = none → movedRecord sl.rcd corner = some r → s.pkg.loadImages sl = some cs →
    ∃ t, Completes (.resume die slot corner) s t ∧ same t ∧
      t.pkg.slot i = { sl with st := .pending, rcd := r, ctxs := cs, since := s.pkg.clock, born := s.pkg.rtc, age := 0
                               resumed := true }) ∧
  (∀ corner c o, sl.st = .saved → s.pkg.poisonedImage sl = some (c, o) → ∃ t r b, Completes (.resume die slot corner) s t ∧
    t.str = s.str ∧ t.core = s.core ∧ t.pkg.dev = s.pkg.dev ∧ t.pkg.slot i = sl ∧
    (∀ j, (s.pkg.slot j).st = .running → (s.pkg.slot j).fn = c.core.fn → (t.pkg.slot j).st = .stopping) ∧
    PMsg.stop c.core.id false r i b ∈ t.pkg.puppet ∧ r.trap = { code := 0x11, sub := 6, aux0 := BitVec.ofNat 64 o } ∧
    .resumeRefused (i / 64) (i % 64) ∈ t.pkg.puppet) ∧
  (∀ corner, sl.st = .saved → s.pkg.poisonedImage sl = none → movedRecord sl.rcd corner = none ∨ s.pkg.loadImages sl = none →
    ∃ t, Completes (.resume die slot corner) s t ∧ same t ∧ t.pkg.slot i = sl ∧
      t.pkg.puppet = s.pkg.puppet ++ [.resumeRefused (i / 64) (i % 64)])

/-- 01 R25; 08 R208; 09 R249, R251, R254, Table 6; 13 R326; 18 R424, R427, R430: a slot that may be placed is placed, and each of its
tiles then runs on its core from the entry point with X1 and X2 set, with registers and accumulators as a bind sets them, or goes
on as its image left it; a gang whose streams had all completed is over at once; the age of a PENDING slot is that of its time on
the RTC; a save writes the images and frees the cores, a discard makes the slot PENDING again and clears its cores' breakpoint
units. (The check made again at placement, and none for a resumed gang, is the model's choice, notes/assumptions/80.md, as are the
age in whole periods, notes/assumptions/69.md, and that a resumed gang is not told of a full table, notes/assumptions/97.md; the
contexts of a RESUME are notes/assumptions/58.md.) Completes: placement, agingLevel, saveDone, discardDone. -/
def Sys2Proof.Rules.PlacementAndSaves : Prop := ∀ (s : State) (die : BitVec 2) (slot : BitVec 6),
  let i := slotNo die slot
  let sl := s.pkg.slot i
  let free (t : State) : Prop := ∀ c ∈ t.ctxs, c.a.mode ≠ .idle → c.core.slot ≠ i
  (s.placeable i = false → Completes (.placement die slot) s s) ∧
  (s.placeable i = true → (∀ j < 256, j / 64 = i / 64 → j ≠ i → s.placeable j = false ∨ s.pkg.first j i = false) →
    (∀ c, sl.resumed = false → s.pkg.bindCase sl.rcd sl.plan = some c → ∃ t, Completes (.placement die slot) s t ∧
      (t.pkg.slot i).st = .free ∧ t.pkg.puppet = s.pkg.puppet ++ [.refusal (i / 64) (i % 64) c]) ∧
    (sl.resumed = false → s.pkg.bindCase sl.rcd sl.plan = none → ∃ t, Completes (.placement die slot) s t ∧
      (t.pkg.slot i).st = .running ∧ ∀ x ∈ recTiles sl.rcd, ∃ c ∈ t.ctxs, c.core.id = i / 64 * 64 + x.2.2.2 ∧ c.core.slot = i ∧
        c.core.tile = BitVec.ofNat 8 x.1 ∧ c.a.mode = .running ∧ c.a.pc = recPentry sl.rcd ∧
        c.a.x[1] = sl.rcd.extractLsb' 448 64 ∧ c.a.x[2] = BitVec.ofNat 64 x.1 ∧ c.a.masks = [BitVec.allOnes 1024] ∧
        c.a.v = Vector.replicate 64 0 ∧ (∀ d (hd : d < 32), d ≠ 1 → d ≠ 2 → c.a.x[d] = 0) ∧
        c.core.acc = Vector.replicate 256 0 ∧ (∀ p ∈ c.core.poison, p < c.core.nsb * Config.bankBytes) ∧
        c.b.mode = (if recSentry sl.rcd = 0 then .idle else .running)) ∧
    (∀ y, sl.resumed = true → sl.ctxs = [y] → y.over = true → (∀ c ∈ s.ctxs, c.a.mode ≠ .idle → c.core.slot ≠ i) →
      ∃ t, Completes (.placement die slot) s t ∧ t.pkg.slot i = Slot.reset) ∧
    (∀ y, sl.resumed = true → sl.ctxs = [y] → y.a.sec = false → y.b.sec = true → y.over = false → ∃ t c,
      Completes (.placement die slot) s t ∧ (t.pkg.slot i).st = .running ∧
      c ∈ t.ctxs ∧ c.core.id = (resumedTask i sl y).core.id ∧ c.core.rescnt = y.core.rescnt + 1 ∧ c.core.spad = y.core.spad ∧
      c.core.acc = y.core.acc ∧ c.a.x = y.a.x ∧ c.a.v = y.a.v ∧ c.a.pc = y.a.pc ∧ c.a.lcc = y.a.lcc ∧
      c.core.halt = none ∧ (t.pkg.slot i).resumed = false ∧
      (y.a.mode = .stopped → c.a.mode = .running ∧ c.a.stopRec = none ∧ c.a.fresh = true))) ∧
  (sl.st ≠ .pending → Completes (.agingLevel die slot) s s) ∧
  (sl.st = .pending → ∃ t, Completes (.agingLevel die slot) s t ∧ t.str = s.str ∧ t.core = s.core ∧
    t.pkg.slot i = { sl with age := (s.pkg.rtc - sl.born) / (2 ^ vget s.pkg.agek die.toNat 10 * 1000) }) ∧
  (sl.st = .stopping → (∀ c ∈ s.gangOf i, c.drained s.pkg = true) →
    (recDiscard sl.rcd = false → ∃ t, Completes (.saveDone die slot) s t ∧ free t ∧ (t.pkg.slot i).st = .saved ∧
      (t.pkg.slot i).rcd = sl.rcd ∧ (t.pkg.slot i).ctxs = s.gangOf i ∧ t.pkg.dev = ((s.gangOf i).foldl
        (fun pk c => pk.putImage c.core.fn c.core.csave (c.image pk.podn s.pkg.draws)) s.pkg).dev) ∧
    (recDiscard sl.rcd = true → ∃ t, Completes (.discardDone die slot) s t ∧ free t ∧ (t.pkg.slot i).st = .pending ∧
      (t.pkg.slot i).ctxs = [] ∧ (t.pkg.slot i).since = s.pkg.clock ∧ (t.pkg.slot i).born = s.pkg.rtc ∧ (t.pkg.slot i).age = 0 ∧
      ∀ c ∈ s.gangOf i, ∃ d ∈ t.ctxs, d.core.id = c.core.id ∧ d.core.bpctl = Vector.replicate 4 0 ∧
        d.core.bpval = Vector.replicate 4 0))

/-- The slot tables (09 R248 to R260; 18 R423 to R427). -/
def Obligations.Slots : Prop := Rules.BindCases ∧ Rules.SlotCommands ∧ Rules.PlacementAndSaves

/-! ### The mailbox, ports, keys and resets -/

/-- The function's mailbox has finished its command with `r` (22 R496). -/
def MailboxDone (fn : BitVec 5) (r : Nat) (t : State) : Prop :=
  (t.pkg.fnOf fn.toNat).mbState = 2 ∧ (t.pkg.fnOf fn.toNat).mbResult = r

/-- 09 R256; 18 R434; 20 R448; 21 R466, R468, R474; 22 R496, Table 5: the commands of the mailbox, each with its RESULT: 2 for a
RESUME that is refused, 3 for a RECOVER of another function's point. An answer lands in the register of the stream that asked; one
for a SAVED task is kept in its image. (Which RESULT a slot number of 256 or more, a slot in another state or a free slot gives is
the model's reading, notes/assumptions/46.md, as is that PLANLOAD reads in the physical function's space,
notes/assumptions/43.md.) Completes: answer, recover, mailboxStop, mailboxResume, mailboxRelease, planload, planact, debug,
peerwin, puppeteerServiceAnswer. -/
def Sys2Proof.Rules.MailboxCommands : Prop := ∀ (s : State) (fn : BitVec 5) (tag v w : Word), fn.toNat < 17 →
  s.pkg.bootst = 1 → (s.pkg.fnOf fn.toNat).mbState ≠ 1 →
  let i := tag.toNat
  let sl := s.pkg.slot i
  let names (g : Nat) : Prop := ∃ p, (s.pkg.fnOf g).point = some p ∧ p.num.toNat = i
  let foreign : Prop := fn ≠ 0 ∧ (sl.st = .free ∨ sl.fn ≠ fn.toNat)
  let ends (j : Instr) (r : Nat) : Prop := ∃ t, Completes j s t ∧ MailboxDone fn r t
  let changes (j : Instr) (r : Nat) (p : State → Prop) : Prop := ∃ t, Completes j s t ∧ MailboxDone fn r t ∧ p t
  (s.pkg.service.any (·.1 == i) = false → changes (.answer fn tag v) 1 fun t => t.pkg.puppet = s.pkg.puppet ++ [.unknownTag tag]) ∧
  (s.pkg.service.any (·.1 == i) = true → fn ≠ 0 → s.askedBy i ≠ some fn.toNat → ends (.answer fn tag v) 3) ∧
  (∀ d, s.pkg.service.any (·.1 == i) = true → s.str.svc = some (i, d) →
    let landed (t : State) : Prop := t.str = { s.str with svc := none, pend := s.str.pend ++ [{ target := .x d v, left := 0, baddr := s.str.pc }] } ∧
      t.pkg.service = s.pkg.service.filter (·.1 != i)
    (fn = 0 ∨ s.askedBy i = some fn.toNat → changes (.answer fn tag v) 0 landed) ∧
    ∃ t, Completes (.puppeteerServiceAnswer tag v) s t ∧ landed t) ∧
  (∀ d y j, s.pkg.service.any (·.1 == i) = true → j < 256 → (s.pkg.slot j).st = .saved → (s.pkg.slot j).ctxs = [y] → d ≠ 0 →
    y.a.svc = some (i, d) → y.b.svc = none → (∀ k, k ≠ j → (s.pkg.slot k).st ≠ .saved) → ∃ t,
    Completes (.puppeteerServiceAnswer tag v) s t ∧
    (t.pkg.slot j).ctxs = [{ y with a := { y.a with svc := none, x := y.a.x.set d.toNat v d.isLt } }] ∧
    t.pkg.dev = (s.pkg.fnPut y.core.fn (y.core.csave + BitVec.ofNat 64 (0x1000 + 8 * d.toNat)) (toBytes 8 v.toNat)).dev) ∧
  (s.pkg.service.any (·.1 == i) = false → Completes (.puppeteerServiceAnswer tag v) s s) ∧
  ((names fn.toNat → ∃ t, Completes (.recover fn tag) s t ∧ (t.pkg.fnOf fn.toNat).mbState = 1 ∧
      (t.pkg.fnOf fn.toNat).recovering = true) ∧
    (¬ names fn.toNat → fn ≠ 0 → (∃ g < 17, names g) → ends (.recover fn tag) 3) ∧
    (¬ names fn.toNat → fn = 0 ∨ (∀ g < 17, ¬ names g) → ends (.recover fn tag) 2)) ∧
  (∀ j ∈ [Instr.mailboxStop fn tag, .mailboxResume fn tag v, .mailboxRelease fn tag],
    (256 ≤ i → ends j 2) ∧ (i < 256 → foreign → ends j 3)) ∧
  (i < 256 → ¬ foreign →
    (sl.st = .running → (∃ c ∈ s.gangOf i, c.over = false) → changes (.mailboxStop fn tag) 0 fun t =>
      t.pkg.slot i = { sl with st := .stopping }) ∧
    (sl.st ≠ .running → ends (.mailboxStop fn tag) 2) ∧
    (sl.st = .saved → changes (.mailboxRelease fn tag) 0 fun t => (t.pkg.slot i).st = .free) ∧
    (sl.st ≠ .saved → ends (.mailboxResume fn tag v) 2) ∧
    (sl.st = .saved → s.pkg.poisonedImage sl = none → ∀ r cs, movedRecord sl.rcd (if v = BitVec.allOnes 64 then none else some (v.setWidth 6)) = some r →
      s.pkg.loadImages sl = some cs → changes (.mailboxResume fn tag v) 0 fun t => (t.pkg.slot i).st = .pending ∧ (t.pkg.slot i).ctxs = cs) ∧
    (sl.st = .saved → s.pkg.poisonedImage sl = none →
      movedRecord sl.rcd (if v = BitVec.allOnes 64 then none else some (v.setWidth 6)) = none ∨ s.pkg.loadImages sl = none →
      changes (.mailboxResume fn tag v) 2 fun t => t.pkg.slot i = sl ∧
        t.pkg.puppet = s.pkg.puppet ++ [.resumeRefused (i / 64) (i % 64)]) ∧
    (sl.st = .saved → (∃ x, s.pkg.poisonedImage sl = some x) → changes (.mailboxResume fn tag v) 2 fun t => t.pkg.slot i = sl)) ∧
  (fn ≠ 0 → ∀ j ∈ [Instr.planload fn tag v, .planact fn tag, .peerwin fn tag v w], ends j 3) ∧
  (fn = 0 → i < 4 →
    (∀ p, s.pkg.planAt v = some p → changes (.planload fn tag v) 0 fun t => vget t.pkg.planSlots i none = some p) ∧
    (s.pkg.planAt v = none → changes (.planload fn tag v) 2 fun t => t.pkg.planSlots = s.pkg.planSlots) ∧
    (∀ p, vget s.pkg.planSlots i none = some p → changes (.planact fn tag) 0 fun t => t.pkg.active = some p ∧ t.pkg.frameSlot = 0)) ∧
  (fn = 0 → changes (.peerwin fn tag v w) 0 fun t => t.pkg.peerWins = s.pkg.peerWins ++ [(i, v.toNat, w.toNat)]) ∧
  (fn ≠ 0 → v.toNat ≠ fn.toNat → ends (.debug fn tag v) 3) ∧
  (fn = 0 ∨ v.toNat = fn.toNat → v.toNat < 17 → ((s.pkg.fnOf v.toNat).tdi = .run → ends (.debug fn tag v) 2) ∧
    ((s.pkg.fnOf v.toNat).tdi ≠ .run → changes (.debug fn tag v) 0 fun t => (t.pkg.fnOf v.toNat).dbg = tag))

/-- 18 R434; 22 R495: with its regions copied back a function is recovered: its slots are free, its queues reset, and the queue of
its point goes on from the recorded position; a notification is the next entry of its function's block, with the function's MSI-X
vector sent or, while masked, left pending, or a drop; an entry of type 3 comes after a copy of a stop record of the slot that it
names. (Which of the slot's records is the Puppeteer's choice: notes/assumptions/68.md; sealed bytes keep their values:
notes/assumptions/92.md.) Completes: recoveryCopiesDone, puppeteerNotification. -/
def Sys2Proof.Rules.RecoveryAndNotices : Prop := ∀ (s : State) (fn : BitVec 5) (type : BitVec 8) (arg tag : BitVec 32) (addr v : Word)
    (payload : BitVec 256) (nth : Nat), fn.toNat < 17 →
  let f := s.pkg.fnOf fn.toNat
  let note : Note := { type := type, arg := arg, tag := tag, addr := addr, value := v, payload := payload, seq := f.widx }
  let post := Instr.puppeteerNotification fn type arg tag addr v ⟨payload, nth⟩
  let mine (m : PMsg) : Prop := ∃ core sec r b, m = .stop core sec r arg.toNat b ∧ b.toNat / 2 ^ 541 % 32 = fn.toNat
  (∀ p rs pk, f.mbState = 1 → f.point = some p → s.pkg.regionList fn.toNat p.list = .ok rs → s.pkg.copyBack fn.toNat rs = (pk, true) →
    p.queue < 64 → ∃ t, Completes (.recoveryCopiesDone fn) s t ∧ MailboxDone fn 0 t ∧ (t.pkg.fnOf fn.toNat).recovering = false ∧
      (vget t.pkg.queues p.queue Queue.reset).head = p.head ∧ (vget t.pkg.queues p.queue Queue.reset).en = true ∧
      (∀ x ∈ t.pkg.phases, x.fn ≠ fn.toNat) ∧ t.pkg.dev = pk.dev ∧
      ∀ i < 256, (t.pkg.slot i).st ≠ .free → (t.pkg.slot i).fn ≠ fn.toNat) ∧
  ((f.widx + 2 ^ 64 - f.ridx) % 2 ^ 64 < 1024 → ∃ t, Completes post s t ∧
    t.str = s.str ∧ t.core = s.core ∧ (t.pkg.fnOf fn.toNat).widx = f.widx + 1 ∧ note ∈ (t.pkg.fnOf fn.toNat).notes ∧
    t.pkg.sent = (if f.msixMask = true then s.pkg.sent else s.pkg.sent ++ [.msix fn.toNat]) ∧
    (f.msixMask = true → (t.pkg.fnOf fn.toNat).msixPending = true) ∧
    (type ≠ 3 → (t.pkg.fnOf fn.toNat).copies = f.copies) ∧
    (∀ before core sec r b after, type = 3 → s.pkg.puppet = before ++ .stop core sec r arg.toNat b :: after →
      b.toNat / 2 ^ 541 % 32 = fn.toNat → (∀ m ∈ after, ¬ mine m) → nth = 0 →
      (f.widx % 256, b) ∈ (t.pkg.fnOf fn.toNat).copies)) ∧
  (1024 ≤ (f.widx + 2 ^ 64 - f.ridx) % 2 ^ 64 → ∃ t, Completes post s t ∧
    t.str = s.str ∧ t.core = s.core ∧ (t.pkg.fnOf fn.toNat).drops = f.drops + 1 ∧ (t.pkg.fnOf fn.toNat).notes = f.notes ∧
    (t.pkg.fnOf fn.toNat).copies = f.copies)

/-- The management mailbox, recovery and notifications (22 R495, R496; 18 R434). -/
def Obligations.MailboxAndRecovery : Prop := Rules.MailboxCommands ∧ Rules.RecoveryAndNotices

/-- 10 R262, R264; 18 R428, R430; 21 R470 to R473: stacks, errors and ports. A hot stack freezes the package and pauses the pod, as a
port that owes at the end of a frame does, here or in another package; slots pay what is owed; a port past its limit fails with
every function that it serves. Completes: stackCriticalTemperature, stackSelfRefreshExit, laneRatioSwitch, correctedError,
uncorrectableError, slotBoundary, linkRetry, frameEnd, pauseEnd, pauseLimit. (A reserved ratio code, which leaves the setting,
is the model's choice: notes/assumptions/63.md; which functions a port serves is its reading: notes/assumptions/48.md.) -/
def Sys2Proof.Rules.StacksAndPorts : Prop := ∀ (s : State) (k : BitVec 4) (code : BitVec 3) (die : BitVec 2) (a : Nat) (port : BitVec 5),
  let pk := s.pkg
  let q := port.toNat
  let up (p : Package) : State := { s with pkg := p }
  let paused (p : Package) : Package := if p.active.isNone = true ∨ p.paused = true then p
    else { p with paused := true, pauses := p.pauses + 1 }
  (k.toNat < 12 → k.toNat ∉ pk.hot → Completes (.stackCriticalTemperature k) s (up (paused { pk with hot := pk.hot ++ [k.toNat] })) ∧
    (up (paused { pk with hot := pk.hot ++ [k.toNat] })).pkg.frozen = true) ∧
  Completes (.stackSelfRefreshExit k) s (up { pk with hot := pk.hot.erase k.toNat }) ∧
  Completes (.laneRatioSwitch k code) s (up (if 4 < code.toNat then pk else { pk with ratio := vset pk.ratio k.toNat code })) ∧
  Completes (.correctedError die) s (up { pk with errors := vset pk.errors die.toNat (vget pk.errors die.toNat 0 + 1),
                                                  puppet := pk.puppet ++ [.corrected die.toNat] }) ∧
  (a < Config.devBytes → ∃ t, Completes (.uncorrectableError (.device a)) s t ∧ t.str = s.str ∧ t.core = s.core ∧
    a / 32 ∈ t.pkg.poison ∧ (∀ g, g ∈ t.pkg.poison ↔ g = a / 32 ∨ g ∈ pk.poison) ∧ t.pkg.dev = pk.dev ∧
    t.pkg.puppet = pk.puppet ++ [.poisoned (a / 32 * 32)]) ∧
  (a < 128 * 32768 → ∃ t, Completes (.uncorrectableError (.pool a)) s t ∧ t.str = s.str ∧ t.pkg = pk ∧ t.core.spad = s.core.spad ∧
    ∀ g, g ∈ t.core.poison ↔ g = a / 32 * 32 ∨ g ∈ s.core.poison) ∧
  (pk.active = none → Completes .slotBoundary s s) ∧
  (∀ p, pk.active = some p → ∃ t, Completes .slotBoundary s t ∧ t.str = s.str ∧ t.core = s.core ∧
    t.pkg.frameSlot = (if pk.paused = true then pk.frameSlot else (pk.frameSlot + 1) % max 1 (p.hdr.toNat / 2 ^ 48 % 2 ^ 16)) ∧
    ∀ i < 18, let o := pk.portAt i
      (t.pkg.portAt i).retry = false ∧ (t.pkg.portAt i).debt = if pk.paused = true then o.debt - 1
        else if p.code i pk.frameSlot = 1 then (if o.retry = true then o.debt + 1 else o.debt - 1)
        else if p.code i pk.frameSlot = 2 ∧ o.retry = false then o.debt - 1 else o.debt) ∧
  (q < 18 → Completes (.linkRetry port) s (up (pk.onPort q fun p => { p with retry := true }))) ∧
  Completes .frameEnd s (up (if pk.farPause = true ∨ pk.ports.toList.any (fun p => decide (0 < p.debt)) = true then paused pk else pk)) ∧
  Completes .pauseEnd s (up (if pk.hot = [] ∧ pk.farPause = false ∧ (∀ p ∈ pk.ports.toList, p.debt = 0) then
    { pk with paused := false } else pk)) ∧
  (∀ c ∈ s.ctxs, ∀ y, y ∈ c.a.pend ∨ y ∈ c.b.pend → pk.clock < y.arrive → (∃ z ∈ y.peers, z.2 = q) →
    s.usesPort c.core.fn q = true) ∧
  (q < 18 → pk.paused = true → (pk.portAt q).debt ≠ 0 → ∃ t, Completes (.pauseLimit port) s t ∧ t.pkg.paused = false ∧
    (t.pkg.portAt q).failed = true ∧ (t.pkg.portAt q).debt = 0 ∧
    (∀ f < 17, s.usesPort f q = true → (t.pkg.fnOf f).recovering = true ∧
      ∀ j, (pk.slot j).st = .running → (pk.slot j).fn = f → (t.pkg.slot j).st = .stopping) ∧
    (s.core.fn < 17 → s.ctx.a.mode ≠ .idle → t.core.halt = if s.usesPort s.core.fn q = true then
      some { code := 0x15, aux0 := BitVec.ofNat 64 (pk.podn * 32 + q), aux1 := BitVec.ofNat 64 (pk.portAt q).slack } else s.core.halt))

/-- 10 R272; 11 R306; 21 R465 to R467; 22 R494, R497, R500: requests from peers inside a window opened to them, which carry no region
key, and the host's through BAR2, are served and answered; any other, and one of any other type, gets an error response, or the
unsupported-request status. A write to a sealed range changes nothing and is reported, one to a keyed page changes nothing, and one
to a write-blocked page waits. (Error responses for poisoned or misaligned requests are the model's reading:
notes/assumptions/59.md; which port carries a request is notes/assumptions/48.md.) Completes: peerRequest, peerErrorResponse,
bar2Access. -/
def Sys2Proof.Rules.OutsideRequests : Prop := ∀ (s : State) (who : BitVec 10) (fn port : BitVec 5) (ide : BitVec 1) (x data cmp : Word)
    (bs : List Byte) (op : BitVec 4) (wide : Bool) (kind : Nat),
  let a := x.toNat
  let n := bs.length
  let w := if wide then 8 else 4
  let pk := s.pkg
  let up (p : Package) : State := { s with pkg := p }
  let opened (n : Nat) : Prop := (∃ v ∈ pk.peerWins, v.2.2 = who.toNat * 32 + fn.toNat ∧ v.1 ≤ a ∧ a + n ≤ v.1 + v.2.1) ∧
    a + n ≤ Config.devBytes
  let clean (n : Nat) : Prop := ∀ k < n, (a + k) / 32 ∉ pk.poison
  let loc : PAddr := { tier := 0, addr := a }
  let devRange : List PAddr := (List.range n).map fun i => { tier := 0, addr := a + i }
  let peer (p : Package) (r : Option (List Byte)) : State := up { p with sent := p.sent ++ [.peer who.toNat fn.toNat r] }
  let host (p : Package) (r : Option (List Byte)) : State := up { p with sent := p.sent ++ [.host fn.toNat r] }
  let read := Instr.peerRequest who fn (.read x n)
  let atomic := Instr.peerRequest who fn (.atomic x op wide data cmp)
  Completes (.peerRequest who fn (.other x kind)) s (peer pk none) ∧
  (opened n → (clean n → Completes read s (peer pk (some ((List.range n).map fun i => pk.devByte 0 (a + i))))) ∧
    (¬ clean n → Completes read s (peer pk none)) ∧
    Completes (.peerRequest who fn (.write x bs)) s (peer (pk.perform 0 (.bytes (devRange.zip bs))) (some []))) ∧
  (¬ opened n → ∀ i ∈ [read, .peerRequest who fn (.write x bs)], Completes i s (peer pk none)) ∧
  (opened w → a % w = 0 → op.toNat ≤ 9 → clean w → Completes atomic s
    (peer (if op = 1 ∧ pk.numPA loc w ≠ cmp.toNat % 2 ^ (8 * w) then pk
        else pk.perform 0 (.atomic loc op w (data.toNat % 2 ^ (8 * w)))) (some (toBytes w (pk.numPA loc w))))) ∧
  (¬ opened w ∨ a % w ≠ 0 ∨ 9 < op.toNat ∨ ¬ clean w → Completes atomic s (peer pk none)) ∧
  (port.toNat < 18 → Completes (.peerErrorResponse 1 port) s (up { pk.onPort port.toNat (fun p => { p with errors := p.errors + 1 }) with
    puppet := pk.puppet ++ [.portError port.toNat] })) ∧
  (∀ y va e, y.peers.find? (fun z => z.2 == port.toNat) = some (va, port.toNat) → pk.clock < y.arrive → y.fault = none →
    pk.translate s.core.fn va = .ok e →
    let lost : Pending := { y with fault := some { code := 0x0C, sub := 5, va := va, aux0 := e.leaf } }
    (s.str.pend = [y] → Completes (.peerErrorResponse 0 port) s { s with str := { s.str with pend := [lost] } }) ∧
    (s.str.pend = [] → s.alt.pend = [y] → Completes (.peerErrorResponse 0 port) s { s with alt := { s.alt with pend := [lost] } })) ∧
  (∀ req, pk.bootst ≠ 1 → Completes (.bar2Access fn ide req) s s) ∧
  (pk.bootst = 1 → ∀ write load, write = Instr.bar2Access fn ide (.write x bs) → load = Instr.bar2Access fn ide (.read x n) →
    let room := 2 ^ (pk.fnOf fn.toNat).bar2
    (room < a + n → ∀ i ∈ [write, load, .bar2Access fn ide (.other x kind)], Completes i s (host pk none)) ∧
    (∀ t, a + n ≤ room → t.code ≠ 0x16 →
      (pk.rangesFault fn.toNat { w := true, plain := true } [(x, n)] = some t → Completes write s (host pk none)) ∧
      (pk.rangesFault fn.toNat { r := true, plain := true } [(x, n)] = some t → Completes load s (host pk none))) ∧
    (∀ e, a + n ≤ room → bs ≠ [] → pageParts x n = [(x, n)] → pk.translate fn.toNat x = .ok e →
      let sealed : Prop := ∃ r ∈ (pk.fnOf fn.toNat).seals, overlap (a % 2 ^ 57) n r.base r.bytes = true
      let keyed : Prop := leafKey e.leaf ≠ 0 ∧ ¬ (ide = 1 ∧ (pk.fnOf fn.toNat).tdi = .run)
      let passes (need : Need) : Prop := ∀ t, pk.rangesFault fn.toNat need [(x, n)] = some t → t.code = 0x16 ∧ keyed
      (¬ passes { w := true, plain := true } → Completes write s (host pk none)) ∧
      (¬ passes { r := true, plain := true } → Completes load s (host pk none)) ∧
      (passes { w := true, plain := true } →
        (sealed → ∃ t, Completes write s t ∧ t.str = s.str ∧ t.core = s.core ∧ t.pkg.dev = pk.dev ∧
          t.pkg.puppet = pk.puppet ++ [.sealedWrite fn.toNat x] ∧ .host fn.toNat (some []) ∈ t.pkg.sent) ∧
        (¬ sealed → keyed → Completes write s (host pk (some []))) ∧
        (¬ sealed → ¬ keyed → leafBit e.leaf 7 = true → Completes write s
          (up { pk with waiting := pk.waiting ++ [.bar2 fn ide (.write x bs)] })) ∧
        (¬ sealed → ¬ keyed → leafBit e.leaf 7 = false → (∀ p ∈ pk.physOf fn.toNat x n, pk.unreachable p = false) →
          Completes write s (host (pk.perform fn.toNat (.bytes ((pk.physOf fn.toNat x n).zip bs))) (some [])))) ∧
      (passes { r := true, plain := true } →
        (keyed → Completes load s (host pk (some (List.replicate n 0xFF)))) ∧
        (¬ keyed → (∀ p ∈ pk.physOf fn.toNat x n, pk.unreachable p = false ∧ (p.tier = 0 → p.addr / 32 ∉ pk.poison)) →
          Completes load s (host pk (some ((pk.physOf fn.toNat x n).map pk.readPA)))))))

/-- Stacks, errors, ports and requests from outside (10 R262 to R264, R272; 18 R428, R430; 21 R465 to R473; 22 R494). -/
def Obligations.PortsAndRequests : Prop := Rules.StacksAndPorts ∧ Rules.OutsideRequests

/-- 22 R497, R500: a 32-byte granule of device memory stands under the region key that wrote it, or under none. Read under the same
it gives what was written; read under another it gives a free value, one for each pair of keys. A write under another key reads
the granule so and writes it whole. (The granule, and that a key has one identity: notes/assumptions/89.md.) -/
def Sys2Proof.Rules.RegionEncryption : Prop := ∀ (pk : Package) (k a : Nat) (b : Byte) (p : PAddr),
  pk.dev.wf = true → swf 0 0 pk.enc = true → pk.here p = some a → p.kid = k →
  let q := pk.writePA p b
  let old := sget 0 pk.enc (a / 32)
  (old = k → pk.readPA p = pk.dev.read a) ∧
  (old ≠ k → pk.readPA p = (Config.garbled old k (a / 32) (BitVec.ofNat 256 (pk.dev.num (a / 32 * 32) 32))).extractLsb' (8 * (a % 32)) 8) ∧
  sget 0 q.enc (a / 32) = k ∧ q.devByte k a = b ∧
  (∀ c, c / 32 = a / 32 → c ≠ a → q.devByte k c = pk.devByte k c) ∧
  (∀ c j, c / 32 ≠ a / 32 → q.devByte j c = pk.devByte j c) ∧
  (∀ e : TlbEnt, leafTier e.leaf = 0 → ∀ va, (pk.phys e va).kid = if leafKey e.leaf = 0 then 0
    else (vget pk.keySlots (leafKey e.leaf) { owner := 0, valid := false }).key)

/-- 22 R493, R497 to R502: a fill gives a page the key slot's number and the slot its owner and a key of its own; a TDI that leaves
RUN loses its slots, and a read on its way through one of them faults; the TSM's requests move it through its states; SPDM answers
with the measurement block that is asked for, or ERROR. (That a request which a TDI's state does not admit changes nothing is the
model's reading: notes/assumptions/45.md; the free values of blocks 3 and 4 and of other answers are notes/assumptions/60.md; what
a destroyed key's frames hold is notes/assumptions/5.md.) Completes: keySlotFill, tdiLeavesRun, tdispRequest, spdmRequest. -/
def Sys2Proof.Rules.KeysAndTdis : Prop := ∀ (s : State) (fn : BitVec 5) (slot : BitVec 6) (va : Word) (block : BitVec 8) (err : BitVec 1),
  let f := s.pkg.fnOf fn.toNat
  let key (t : State) (k : Nat) : KeySlot := vget t.pkg.keySlots k { owner := 0, valid := false }
  let tdi (i : Instr) (x : TdiSt) : Prop := ∃ t, Completes i s t ∧ t.str.x = s.str.x ∧ (t.pkg.fnOf fn.toNat).tdi = x
  let owns (k : Nat) : Prop := (key s k).valid = true ∧ (key s k).owner = fn.toNat
  fn ≠ 0 → fn.toNat < 17 →
  (∀ e, walk s.pkg fn.toNat va = .ok e → leafTier e.leaf = 0 → slot ≠ 0 → f.tdi = .locked ∨ f.tdi = .run → (key s slot.toNat).valid = false →
    s.pkg.dev.wf = true → (∀ c ∈ s.ctxs, c.a.gq = [] ∧ c.b.gq = []) → s.Seated →
    (s.objOutstanding fn.toNat e.base e.size = true → Completes (.keySlotFill fn slot [va]) s s) ∧
    (s.objOutstanding fn.toNat e.base e.size = false → ∃ t, Completes (.keySlotFill fn slot [va]) s t ∧ s.SameRegisters t ∧
      key t slot.toNat = { owner := fn.toNat, valid := true, frames := [(leafPfn e.leaf * 65536, e.size)], key := s.pkg.draws + 1 } ∧
      leafKey (t.pkg.leafNow e) = slot.toNat ∧ leafPfn (t.pkg.leafNow e) = leafPfn (s.pkg.leafNow e) ∧
      ∀ x ∈ t.pkg.tlb, x ∈ s.pkg.tlb ∧ ¬ (x.fn = fn.toNat ∧ overlap x.base x.size e.base e.size = true))) ∧
  (f.tdi = .run → ∃ t, Completes (.tdiLeavesRun fn err) s t ∧ (t.pkg.fnOf fn.toNat).tdi = (if err = 1 then .error else .unlocked) ∧
    (∀ k < 64, owns k → (key t k).valid = false) ∧ (∀ k < 64, ¬ owns k → key t k = key s k) ∧
    (∀ a, s.pkg.dev.wf = true → (∀ k < 64, owns k → ∀ r ∈ (key s k).frames, ¬ (r.1 ≤ a ∧ a < r.1 + r.2)) →
      t.pkg.dev.read a = s.pkg.dev.read a) ∧
    ∀ k y x, k < 64 → owns k → (∀ j < 64, owns j → j = k) → s.str.pend = [y] → s.pkg.clock < y.arrive → y.fault = none → y.keys = [(k, x)] →
      { y with fault := some { code := 0x16, sub := 3, va := x, aux0 := BitVec.ofNat 64 k } } ∈ t.str.pend) ∧
  (f.tdi ≠ .run → Completes (.tdiLeavesRun fn err) s s) ∧
  (s.pkg.bootst ≠ 1 → (∀ req, Completes (.tdispRequest fn req) s s) ∧ ∀ o, Completes (.spdmRequest fn o block) s s) ∧
  (s.pkg.bootst = 1 →
    (f.tdi = .unlocked → tdi (.tdispRequest fn 0) .locked) ∧ (f.tdi = .locked → tdi (.tdispRequest fn 1) .run) ∧
    tdi (.tdispRequest fn 2) .unlocked ∧ (f.tdi ≠ .unlocked → Completes (.tdispRequest fn 0) s s) ∧
    (f.tdi ≠ .locked → Completes (.tdispRequest fn 1) s s) ∧
    Completes (.spdmRequest fn 0 block) s { s with pkg := { s.pkg with puppet := s.pkg.puppet ++ [.spdm fn.toNat false 0] } } ∧
    (∀ p ∈ [(1, s.pkg.meas[0]), (2, s.pkg.meas[1]),
        (3, Config.measurement 3 (s.pkg.ratio.toList.map BitVec.toNat ++ s.pkg.agek.toList ++
          s.pkg.planSlots.toList.map fun z => ((z.map fun z => z.hdr.toNat / 2 ^ 80 % 2 ^ 16).getD 0))),
        (4, Config.measurement 4 ((s.pkg.fns.toList.map fun z => z.tdi.code) ++ s.pkg.fns.toList.map fun z => (z.dbg.getLsbD 0).toNat))],
      block.toNat = p.1 → Completes (.spdmRequest fn 1 block) s
        { s with pkg := { s.pkg with puppet := s.pkg.puppet ++ [.spdm fn.toNat true p.2] } }) ∧
    (∃ t ans, Completes (.spdmRequest fn 1 block) s t ∧ t.str = s.str ∧ t.pkg.puppet = s.pkg.puppet ++ [.spdm fn.toNat true ans]))

/-- 22 R501, R503, R505, R506: a conventional reset or a thermal trip loses all device state, the power cap with it, and keeps what
lies outside the device; a function-level reset frees what is the function's, and its blocks stand at 0 at its end; the clock steps
by 100 MHz from 1.2 to 3.6 GHz; the board sets the power cap once the package has booted; an update writes a flash image, which no
running code sees. (What a function-level reset does to reads on their way is notes/assumptions/50.md.) Completes:
conventionalReset, thermalTrip, functionLevelReset, clockStep, powerCapSet, flashUpdate. -/
def Sys2Proof.Rules.ResetsAndBoard : Prop := ∀ (s : State) (fn : BitVec 5) (watts svn : BitVec 16) (image : BitVec 1) (hash : BitVec 512),
  let pk := s.pkg
  let up (p : Package) : State := { s with pkg := p }
  (∀ i ∈ [(Instr.conventionalReset, (0 : BitVec 8)), (.thermalTrip, 3)], ∃ t, Completes i.1 s t ∧ t.pkg.bootst = i.2 ∧
    t.str = State.reset.str ∧ t.alt = State.reset.alt ∧ t.core = State.reset.core ∧ t.others = [] ∧ t.pkg.dev = [] ∧ t.pkg.keys = [] ∧
    t.pkg.enc = [] ∧ t.pkg.poison = [] ∧ t.pkg.freq = State.reset.pkg.freq ∧ t.pkg.rtc = State.reset.pkg.rtc ∧
    t.pkg.fns = State.reset.pkg.fns ∧ t.pkg.queues = State.reset.pkg.queues ∧ t.pkg.slots = State.reset.pkg.slots ∧
    t.pkg.keySlots = State.reset.pkg.keySlots ∧ t.pkg.active = none ∧ t.pkg.host = pk.host ∧ t.pkg.peer = pk.peer ∧
    t.pkg.images = pk.images ∧ t.pkg.fusedSvn = pk.fusedSvn ∧ t.pkg.powerCap = none) ∧
  (pk.bootst ≠ 1 → ∀ i ∈ [Instr.functionLevelReset fn, .powerCapSet watts], Completes i s s) ∧
  (∀ fns : List Nat, pk.bootst = 1 → (fn ≠ 0 ∧ fn.toNat < 17 ∧ fns = [fn.toNat] ∨ fn = 0 ∧ fns = List.range 17) →
    ∃ t, Completes (.functionLevelReset fn) s t ∧ ∀ g ∈ fns, (t.pkg.fnOf g).tdi = .unlocked ∧
      (t.pkg.fnOf g).mbState = 0 ∧ (t.pkg.fnOf g).mbResult = 0 ∧ (t.pkg.fnOf g).mbCmd = 0 ∧ (t.pkg.fnOf g).mbArg = Vector.replicate 4 0 ∧
      (t.pkg.fnOf g).mbRsv = Vector.replicate 2 0 ∧ (t.pkg.fnOf g).mbTag = 0 ∧ (t.pkg.fnOf g).widx = 0 ∧ (t.pkg.fnOf g).ridx = 0 ∧
      (t.pkg.fnOf g).drops = 0 ∧ (t.pkg.fnOf g).noteRsv = Vector.replicate 5 0 ∧
      (∀ i < 256, (t.pkg.slot i).st ≠ .free → (t.pkg.slot i).fn ≠ g) ∧
      ∀ q, (t.pkg.queue q).fn = g → (t.pkg.queue q).halt = false ∧ (t.pkg.queue q).calls = [] ∧ (t.pkg.queue q).entry = none) ∧
  Completes (.clockStep 1) s (up { pk with freq := min 36 (pk.freq + 1) }) ∧
  Completes (.clockStep 0) s (up { pk with freq := max 12 (pk.freq - 1) }) ∧
  (pk.bootst = 1 → Completes (.powerCapSet watts) s (up { pk with powerCap := some watts })) ∧
  Completes (.flashUpdate image svn hash) s (up { pk with images := pk.images.filter (·.1 != image) ++ [(image, svn, hash)] })

/-- Region keys, TDIs, SPDM, resets and the board (22 R493, R497 to R506). -/
def Obligations.KeysAndResets : Prop := Rules.RegionEncryption ∧ Rules.KeysAndTdis ∧ Rules.ResetsAndBoard
end

