-- ==== Sys2Proof/Laws/Memory.lean ====
section
/-! SUPPORT. The sparse memories: every operation keeps their canonical form, and reset has it. -/
namespace Sys2Proof.Machine

section Sparse
variable {α : Type} [DecidableEq α] (d : α)

theorem swf_mono {lo lo' : Nat} (h : lo' ≤ lo) : ∀ m : List (Nat × α), swf d lo m = true → swf d lo' m = true
  | [], _ => rfl
  | (k, v) :: t, hm => by
    simp only [swf, Bool.and_eq_true, decide_eq_true_eq] at hm ⊢
    exact ⟨⟨Nat.le_trans h hm.1.1, hm.1.2⟩, hm.2⟩

/-- Writing one place keeps the form from any bound below the place and the list. -/
theorem swf_sset {lo a : Nat} (v : α) (ha : lo ≤ a) : ∀ m : List (Nat × α), swf d lo m = true → swf d lo (sset d m a v) = true
  | [], _ => by unfold sset; split <;> simp_all [swf]
  | (k, w) :: t, hm => by
    simp only [swf, Bool.and_eq_true, decide_eq_true_eq] at hm
    unfold sset
    split
    · rename_i hk; subst hk
      split
      · exact swf_mono d (by omega) t hm.2
      · simp_all [swf]
    · split
      · split
        · simp_all [swf]
        · rename_i h1 h2 h3
          simp only [swf, Bool.and_eq_true, decide_eq_true_eq]
          exact ⟨⟨ha, h3⟩, ⟨⟨by omega, hm.1.2⟩, hm.2⟩⟩
      · simp only [swf, Bool.and_eq_true, decide_eq_true_eq]
        exact ⟨hm.1, swf_sset v (by omega) t hm.2⟩

/-- Below the bound of the form nothing is listed. -/
theorem sget_below {lo a : Nat} (ha : a < lo) : ∀ m : List (Nat × α), swf d lo m = true → sget d m a = d
  | [], _ => rfl
  | (k, w) :: t, hm => by
    simp only [swf, Bool.and_eq_true, decide_eq_true_eq] at hm
    unfold sget
    rw [if_neg (by omega), if_pos (by omega)]

end Sparse

theorem Memory.wf_write (m : Memory) (a : Nat) (b : Byte) (h : m.wf = true) : (m.write a b).wf = true :=
  swf_sset 0 b (Nat.zero_le a) m h

theorem Memory.wf_writeN : ∀ (bs : List Byte) (m : Memory) (a : Nat), m.wf = true → (m.writeN a bs).wf = true
  | [], _, _, h => h
  | b :: bs, m, a, h => Memory.wf_writeN bs (m.write a b) (a + 1) (m.wf_write a b h)

theorem Memory.wf_writeCells : ∀ (cs : List Host.Cell) (m : Memory), m.wf = true → (m.writeCells cs).wf = true
  | [], _, h => h
  | c :: cs, m, h => Memory.wf_writeCells cs (m.write c.1 c.2) (m.wf_write c.1 c.2 h)

@[simp] theorem Memory.read_nil (a : Nat) : Memory.read [] a = 0 := rfl

theorem Memory.readN_length (m : Memory) : ∀ (n a : Nat), (m.readN a n).length = n
  | 0, _ => rfl
  | n + 1, a => by simp [Memory.readN, Memory.readN_length m n (a + 1)]

end Sys2Proof.Machine
end

