-- ==== Sys2Proof/Laws/PerInstr.lean ====
section
/-! SUPPORT. Every word that the encoder gives fits the width that its table gives it, instruction by instruction. -/
namespace Sys2Proof.Laws.Encoding

/-- What the encoder gives for `i` fits: 31 bits beside S, a store word of 64 bits, an entry of 256 bits. -/
def Statement (i : Instr) : Prop :=
  (∀ w, encodeOp i = some w → w < 2 ^ 31) ∧ (∀ w, encodeMicro i = some w → w < 2 ^ 64) ∧
    (∀ w, encodeEntry i = some w → w < 2 ^ 256)

theorem of_op {i : Instr} {v : Nat} (h : encodeOp i = some v) (hv : v < 2 ^ 31) (hm : encodeMicro i = none)
    (he : encodeEntry i = none) : Statement i :=
  ⟨fun _ hw => Option.some.inj (h.symm.trans hw) ▸ hv, fun _ hw => absurd (hm.symm.trans hw) (by simp), fun _ hw => absurd (he.symm.trans hw) (by simp)⟩

theorem of_micro {i : Instr} {v : Nat} (h : encodeMicro i = some v) (hv : v < 2 ^ 64) (ho : encodeOp i = none)
    (he : encodeEntry i = none) : Statement i :=
  ⟨fun _ hw => absurd (ho.symm.trans hw) (by simp), fun _ hw => Option.some.inj (h.symm.trans hw) ▸ hv, fun _ hw => absurd (he.symm.trans hw) (by simp)⟩

theorem of_entry {i : Instr} {v : Nat} (h : encodeEntry i = some v) (hv : v < 2 ^ 256) (ho : encodeOp i = none)
    (hm : encodeMicro i = none) : Statement i :=
  ⟨fun _ hw => absurd (ho.symm.trans hw) (by simp), fun _ hw => absurd (hm.symm.trans hw) (by simp), fun _ hw => Option.some.inj (h.symm.trans hw) ▸ hv⟩

theorem of_event {i : Instr} (ho : encodeOp i = none) (hm : encodeMicro i = none) (he : encodeEntry i = none) : Statement i :=
  ⟨fun _ hw => absurd (ho.symm.trans hw) (by simp), fun _ hw => absurd (hm.symm.trans hw) (by simp), fun _ hw => absurd (he.symm.trans hw) (by simp)⟩


theorem enc_cons (b a p : Nat) (fs : List (Nat × Nat)) : enc b ((a, p) :: fs) = enc (b + a * 2 ^ p) fs := rfl
theorem enc_nil (b : Nat) : enc b [] = b := rfl

theorem nop : Statement .nop := of_op (v := enc 0x0 []) rfl (by decide) rfl rfl
theorem endTask : Statement .endTask := of_op (v := enc 0x1 []) rfl (by decide) rfl rfl
theorem svc (d : BitVec 5) (a : BitVec 5) : Statement (.svc d a) := of_op (v := enc 0x2 [(d.toNat, 21), (a.toNat, 16)]) rfl (by have := d.isLt; have := a.isLt; rw [enc_cons, enc_cons, enc_nil]; omega) rfl rfl
theorem trap (n : BitVec 10) : Statement (.trap n) := of_op (v := enc 0x3 [(n.toNat, 11)]) rfl (by have := n.isLt; rw [enc_cons, enc_nil]; omega) rfl rfl
theorem csrr (d : BitVec 5) (c : BitVec 8) : Statement (.csrr d c) := of_op (v := enc 0x100 [(d.toNat, 21), (c.toNat, 0)]) rfl (by have := d.isLt; have := c.isLt; rw [enc_cons, enc_cons, enc_nil]; omega) rfl rfl
theorem csrw (a : BitVec 5) (c : BitVec 8) : Statement (.csrw a c) := of_op (v := enc 0x200 [(a.toNat, 16), (c.toNat, 0)]) rfl (by have := a.isLt; have := c.isLt; rw [enc_cons, enc_cons, enc_nil]; omega) rfl rfl
theorem csrs (a : BitVec 5) (c : BitVec 8) : Statement (.csrs a c) := of_op (v := enc 0x300 [(a.toNat, 16), (c.toNat, 0)]) rfl (by have := a.isLt; have := c.isLt; rw [enc_cons, enc_cons, enc_nil]; omega) rfl rfl
theorem csrc (a : BitVec 5) (c : BitVec 8) : Statement (.csrc a c) := of_op (v := enc 0x400 [(a.toNat, 16), (c.toNat, 0)]) rfl (by have := a.isLt; have := c.isLt; rw [enc_cons, enc_cons, enc_nil]; omega) rfl rfl
theorem yield : Statement .yield := of_op (v := enc 0x4 []) rfl (by decide) rfl rfl
theorem drain : Statement .drain := of_op (v := enc 0x5 []) rfl (by decide) rfl rfl
theorem clogrd (d : BitVec 5) (a : BitVec 5) : Statement (.clogrd d a) := of_op (v := enc 0x6 [(d.toNat, 21), (a.toNat, 16)]) rfl (by have := d.isLt; have := a.isLt; rw [enc_cons, enc_cons, enc_nil]; omega) rfl rfl
theorem rjmark (a : BitVec 5) : Statement (.rjmark a) := of_op (v := enc 0x7 [(a.toNat, 16)]) rfl (by have := a.isLt; rw [enc_cons, enc_nil]; omega) rfl rfl
theorem rescnt (d : BitVec 5) : Statement (.rescnt d) := of_op (v := enc 0x8 [(d.toNat, 21)]) rfl (by have := d.isLt; rw [enc_cons, enc_nil]; omega) rfl rfl
theorem add (d : BitVec 5) (a : BitVec 5) (b : BitVec 5) : Statement (.add d a b) := of_op (v := enc 0x4000000 [(d.toNat, 21), (a.toNat, 16), (b.toNat, 11)]) rfl (by have := d.isLt; have := a.isLt; have := b.isLt; rw [enc_cons, enc_cons, enc_cons, enc_nil]; omega) rfl rfl
theorem sub (d : BitVec 5) (a : BitVec 5) (b : BitVec 5) : Statement (.sub d a b) := of_op (v := enc 0x4000010 [(d.toNat, 21), (a.toNat, 16), (b.toNat, 11)]) rfl (by have := d.isLt; have := a.isLt; have := b.isLt; rw [enc_cons, enc_cons, enc_cons, enc_nil]; omega) rfl rfl
theorem and (d : BitVec 5) (a : BitVec 5) (b : BitVec 5) : Statement (.and d a b) := of_op (v := enc 0x4000020 [(d.toNat, 21), (a.toNat, 16), (b.toNat, 11)]) rfl (by have := d.isLt; have := a.isLt; have := b.isLt; rw [enc_cons, enc_cons, enc_cons, enc_nil]; omega) rfl rfl
theorem or (d : BitVec 5) (a : BitVec 5) (b : BitVec 5) : Statement (.or d a b) := of_op (v := enc 0x4000030 [(d.toNat, 21), (a.toNat, 16), (b.toNat, 11)]) rfl (by have := d.isLt; have := a.isLt; have := b.isLt; rw [enc_cons, enc_cons, enc_cons, enc_nil]; omega) rfl rfl
theorem xor (d : BitVec 5) (a : BitVec 5) (b : BitVec 5) : Statement (.xor d a b) := of_op (v := enc 0x4000040 [(d.toNat, 21), (a.toNat, 16), (b.toNat, 11)]) rfl (by have := d.isLt; have := a.isLt; have := b.isLt; rw [enc_cons, enc_cons, enc_cons, enc_nil]; omega) rfl rfl
theorem andn (d : BitVec 5) (a : BitVec 5) (b : BitVec 5) : Statement (.andn d a b) := of_op (v := enc 0x4000050 [(d.toNat, 21), (a.toNat, 16), (b.toNat, 11)]) rfl (by have := d.isLt; have := a.isLt; have := b.isLt; rw [enc_cons, enc_cons, enc_cons, enc_nil]; omega) rfl rfl
theorem sll (d : BitVec 5) (a : BitVec 5) (b : BitVec 5) : Statement (.sll d a b) := of_op (v := enc 0x4000060 [(d.toNat, 21), (a.toNat, 16), (b.toNat, 11)]) rfl (by have := d.isLt; have := a.isLt; have := b.isLt; rw [enc_cons, enc_cons, enc_cons, enc_nil]; omega) rfl rfl
theorem srl (d : BitVec 5) (a : BitVec 5) (b : BitVec 5) : Statement (.srl d a b) := of_op (v := enc 0x4000070 [(d.toNat, 21), (a.toNat, 16), (b.toNat, 11)]) rfl (by have := d.isLt; have := a.isLt; have := b.isLt; rw [enc_cons, enc_cons, enc_cons, enc_nil]; omega) rfl rfl
theorem sra (d : BitVec 5) (a : BitVec 5) (b : BitVec 5) : Statement (.sra d a b) := of_op (v := enc 0x4000080 [(d.toNat, 21), (a.toNat, 16), (b.toNat, 11)]) rfl (by have := d.isLt; have := a.isLt; have := b.isLt; rw [enc_cons, enc_cons, enc_cons, enc_nil]; omega) rfl rfl
theorem min (d : BitVec 5) (a : BitVec 5) (b : BitVec 5) : Statement (.min d a b) := of_op (v := enc 0x4000090 [(d.toNat, 21), (a.toNat, 16), (b.toNat, 11)]) rfl (by have := d.isLt; have := a.isLt; have := b.isLt; rw [enc_cons, enc_cons, enc_cons, enc_nil]; omega) rfl rfl
theorem max (d : BitVec 5) (a : BitVec 5) (b : BitVec 5) : Statement (.max d a b) := of_op (v := enc 0x40000a0 [(d.toNat, 21), (a.toNat, 16), (b.toNat, 11)]) rfl (by have := d.isLt; have := a.isLt; have := b.isLt; rw [enc_cons, enc_cons, enc_cons, enc_nil]; omega) rfl rfl
theorem minu (d : BitVec 5) (a : BitVec 5) (b : BitVec 5) : Statement (.minu d a b) := of_op (v := enc 0x40000b0 [(d.toNat, 21), (a.toNat, 16), (b.toNat, 11)]) rfl (by have := d.isLt; have := a.isLt; have := b.isLt; rw [enc_cons, enc_cons, enc_cons, enc_nil]; omega) rfl rfl
theorem maxu (d : BitVec 5) (a : BitVec 5) (b : BitVec 5) : Statement (.maxu d a b) := of_op (v := enc 0x40000c0 [(d.toNat, 21), (a.toNat, 16), (b.toNat, 11)]) rfl (by have := d.isLt; have := a.isLt; have := b.isLt; rw [enc_cons, enc_cons, enc_cons, enc_nil]; omega) rfl rfl
theorem adds (d : BitVec 5) (a : BitVec 5) (b : BitVec 5) : Statement (.adds d a b) := of_op (v := enc 0x40000d0 [(d.toNat, 21), (a.toNat, 16), (b.toNat, 11)]) rfl (by have := d.isLt; have := a.isLt; have := b.isLt; rw [enc_cons, enc_cons, enc_cons, enc_nil]; omega) rfl rfl
theorem subs (d : BitVec 5) (a : BitVec 5) (b : BitVec 5) : Statement (.subs d a b) := of_op (v := enc 0x40000e0 [(d.toNat, 21), (a.toNat, 16), (b.toNat, 11)]) rfl (by have := d.isLt; have := a.isLt; have := b.isLt; rw [enc_cons, enc_cons, enc_cons, enc_nil]; omega) rfl rfl
theorem sel (d : BitVec 5) (a : BitVec 5) (b : BitVec 5) (p : BitVec 4) : Statement (.sel d a b p) := of_op (v := enc 0x40000f0 [(d.toNat, 21), (a.toNat, 16), (b.toNat, 11), (p.toNat, 0)]) rfl (by have := d.isLt; have := a.isLt; have := b.isLt; have := p.isLt; rw [enc_cons, enc_cons, enc_cons, enc_cons, enc_nil]; omega) rfl rfl
theorem cmpeq (p : BitVec 4) (a : BitVec 5) (b : BitVec 5) : Statement (.cmpeq p a b) := of_op (v := enc 0x4000100 [(p.toNat, 21), (a.toNat, 16), (b.toNat, 11)]) rfl (by have := p.isLt; have := a.isLt; have := b.isLt; rw [enc_cons, enc_cons, enc_cons, enc_nil]; omega) rfl rfl
theorem cmpne (p : BitVec 4) (a : BitVec 5) (b : BitVec 5) : Statement (.cmpne p a b) := of_op (v := enc 0x4000110 [(p.toNat, 21), (a.toNat, 16), (b.toNat, 11)]) rfl (by have := p.isLt; have := a.isLt; have := b.isLt; rw [enc_cons, enc_cons, enc_cons, enc_nil]; omega) rfl rfl
theorem cmplt (p : BitVec 4) (a : BitVec 5) (b : BitVec 5) : Statement (.cmplt p a b) := of_op (v := enc 0x4000120 [(p.toNat, 21), (a.toNat, 16), (b.toNat, 11)]) rfl (by have := p.isLt; have := a.isLt; have := b.isLt; rw [enc_cons, enc_cons, enc_cons, enc_nil]; omega) rfl rfl
theorem cmpltu (p : BitVec 4) (a : BitVec 5) (b : BitVec 5) : Statement (.cmpltu p a b) := of_op (v := enc 0x4000130 [(p.toNat, 21), (a.toNat, 16), (b.toNat, 11)]) rfl (by have := p.isLt; have := a.isLt; have := b.isLt; rw [enc_cons, enc_cons, enc_cons, enc_nil]; omega) rfl rfl
theorem cmple (p : BitVec 4) (a : BitVec 5) (b : BitVec 5) : Statement (.cmple p a b) := of_op (v := enc 0x4000140 [(p.toNat, 21), (a.toNat, 16), (b.toNat, 11)]) rfl (by have := p.isLt; have := a.isLt; have := b.isLt; rw [enc_cons, enc_cons, enc_cons, enc_nil]; omega) rfl rfl
theorem cmpleu (p : BitVec 4) (a : BitVec 5) (b : BitVec 5) : Statement (.cmpleu p a b) := of_op (v := enc 0x4000150 [(p.toNat, 21), (a.toNat, 16), (b.toNat, 11)]) rfl (by have := p.isLt; have := a.isLt; have := b.isLt; rw [enc_cons, enc_cons, enc_cons, enc_nil]; omega) rfl rfl
theorem addi (d : BitVec 5) (a : BitVec 5) (i : BitVec 12) : Statement (.addi d a i) := of_op (v := enc 0x8000000 [(d.toNat, 21), (a.toNat, 16), (i.toNat, 0)]) rfl (by have := d.isLt; have := a.isLt; have := i.isLt; rw [enc_cons, enc_cons, enc_cons, enc_nil]; omega) rfl rfl
theorem andi (d : BitVec 5) (a : BitVec 5) (i : BitVec 12) : Statement (.andi d a i) := of_op (v := enc 0x8001000 [(d.toNat, 21), (a.toNat, 16), (i.toNat, 0)]) rfl (by have := d.isLt; have := a.isLt; have := i.isLt; rw [enc_cons, enc_cons, enc_cons, enc_nil]; omega) rfl rfl
theorem ori (d : BitVec 5) (a : BitVec 5) (i : BitVec 12) : Statement (.ori d a i) := of_op (v := enc 0x8002000 [(d.toNat, 21), (a.toNat, 16), (i.toNat, 0)]) rfl (by have := d.isLt; have := a.isLt; have := i.isLt; rw [enc_cons, enc_cons, enc_cons, enc_nil]; omega) rfl rfl
theorem xori (d : BitVec 5) (a : BitVec 5) (i : BitVec 12) : Statement (.xori d a i) := of_op (v := enc 0x8003000 [(d.toNat, 21), (a.toNat, 16), (i.toNat, 0)]) rfl (by have := d.isLt; have := a.isLt; have := i.isLt; rw [enc_cons, enc_cons, enc_cons, enc_nil]; omega) rfl rfl
theorem slli (d : BitVec 5) (a : BitVec 5) (n : BitVec 6) : Statement (.slli d a n) := of_op (v := enc 0x8004000 [(d.toNat, 21), (a.toNat, 16), (n.toNat, 0)]) rfl (by have := d.isLt; have := a.isLt; have := n.isLt; rw [enc_cons, enc_cons, enc_cons, enc_nil]; omega) rfl rfl
theorem srli (d : BitVec 5) (a : BitVec 5) (n : BitVec 6) : Statement (.srli d a n) := of_op (v := enc 0x8005000 [(d.toNat, 21), (a.toNat, 16), (n.toNat, 0)]) rfl (by have := d.isLt; have := a.isLt; have := n.isLt; rw [enc_cons, enc_cons, enc_cons, enc_nil]; omega) rfl rfl
theorem srai (d : BitVec 5) (a : BitVec 5) (n : BitVec 6) : Statement (.srai d a n) := of_op (v := enc 0x8006000 [(d.toNat, 21), (a.toNat, 16), (n.toNat, 0)]) rfl (by have := d.isLt; have := a.isLt; have := n.isLt; rw [enc_cons, enc_cons, enc_cons, enc_nil]; omega) rfl rfl
theorem shlor (d : BitVec 5) (a : BitVec 5) (i : BitVec 12) : Statement (.shlor d a i) := of_op (v := enc 0x8007000 [(d.toNat, 21), (a.toNat, 16), (i.toNat, 0)]) rfl (by have := d.isLt; have := a.isLt; have := i.isLt; rw [enc_cons, enc_cons, enc_cons, enc_nil]; omega) rfl rfl
theorem movi (d : BitVec 5) (i : BitVec 12) : Statement (.movi d i) := of_op (v := enc 0x8008000 [(d.toNat, 21), (i.toNat, 0)]) rfl (by have := d.isLt; have := i.isLt; rw [enc_cons, enc_cons, enc_nil]; omega) rfl rfl
theorem cmpeqi (p : BitVec 4) (a : BitVec 5) (i : BitVec 12) : Statement (.cmpeqi p a i) := of_op (v := enc 0x8009000 [(p.toNat, 21), (a.toNat, 16), (i.toNat, 0)]) rfl (by have := p.isLt; have := a.isLt; have := i.isLt; rw [enc_cons, enc_cons, enc_cons, enc_nil]; omega) rfl rfl
theorem cmplti (p : BitVec 4) (a : BitVec 5) (i : BitVec 12) : Statement (.cmplti p a i) := of_op (v := enc 0x800a000 [(p.toNat, 21), (a.toNat, 16), (i.toNat, 0)]) rfl (by have := p.isLt; have := a.isLt; have := i.isLt; rw [enc_cons, enc_cons, enc_cons, enc_nil]; omega) rfl rfl
theorem cmpltui (p : BitVec 4) (a : BitVec 5) (i : BitVec 12) : Statement (.cmpltui p a i) := of_op (v := enc 0x800b000 [(p.toNat, 21), (a.toNat, 16), (i.toNat, 0)]) rfl (by have := p.isLt; have := a.isLt; have := i.isLt; rw [enc_cons, enc_cons, enc_cons, enc_nil]; omega) rfl rfl
theorem mul (d : BitVec 5) (a : BitVec 5) (b : BitVec 5) : Statement (.mul d a b) := of_op (v := enc 0xc000000 [(d.toNat, 21), (a.toNat, 16), (b.toNat, 11)]) rfl (by have := d.isLt; have := a.isLt; have := b.isLt; rw [enc_cons, enc_cons, enc_cons, enc_nil]; omega) rfl rfl
theorem mulh (d : BitVec 5) (a : BitVec 5) (b : BitVec 5) : Statement (.mulh d a b) := of_op (v := enc 0xc000010 [(d.toNat, 21), (a.toNat, 16), (b.toNat, 11)]) rfl (by have := d.isLt; have := a.isLt; have := b.isLt; rw [enc_cons, enc_cons, enc_cons, enc_nil]; omega) rfl rfl
theorem mulhu (d : BitVec 5) (a : BitVec 5) (b : BitVec 5) : Statement (.mulhu d a b) := of_op (v := enc 0xc000020 [(d.toNat, 21), (a.toNat, 16), (b.toNat, 11)]) rfl (by have := d.isLt; have := a.isLt; have := b.isLt; rw [enc_cons, enc_cons, enc_cons, enc_nil]; omega) rfl rfl
theorem div (d : BitVec 5) (a : BitVec 5) (b : BitVec 5) : Statement (.div d a b) := of_op (v := enc 0xc000030 [(d.toNat, 21), (a.toNat, 16), (b.toNat, 11)]) rfl (by have := d.isLt; have := a.isLt; have := b.isLt; rw [enc_cons, enc_cons, enc_cons, enc_nil]; omega) rfl rfl
theorem divu (d : BitVec 5) (a : BitVec 5) (b : BitVec 5) : Statement (.divu d a b) := of_op (v := enc 0xc000040 [(d.toNat, 21), (a.toNat, 16), (b.toNat, 11)]) rfl (by have := d.isLt; have := a.isLt; have := b.isLt; rw [enc_cons, enc_cons, enc_cons, enc_nil]; omega) rfl rfl
theorem rem (d : BitVec 5) (a : BitVec 5) (b : BitVec 5) : Statement (.rem d a b) := of_op (v := enc 0xc000050 [(d.toNat, 21), (a.toNat, 16), (b.toNat, 11)]) rfl (by have := d.isLt; have := a.isLt; have := b.isLt; rw [enc_cons, enc_cons, enc_cons, enc_nil]; omega) rfl rfl
theorem remu (d : BitVec 5) (a : BitVec 5) (b : BitVec 5) : Statement (.remu d a b) := of_op (v := enc 0xc000060 [(d.toNat, 21), (a.toNat, 16), (b.toNat, 11)]) rfl (by have := d.isLt; have := a.isLt; have := b.isLt; rw [enc_cons, enc_cons, enc_cons, enc_nil]; omega) rfl rfl
theorem clz (d : BitVec 5) (a : BitVec 5) : Statement (.clz d a) := of_op (v := enc 0xc000080 [(d.toNat, 21), (a.toNat, 16)]) rfl (by have := d.isLt; have := a.isLt; rw [enc_cons, enc_cons, enc_nil]; omega) rfl rfl
theorem ctz (d : BitVec 5) (a : BitVec 5) : Statement (.ctz d a) := of_op (v := enc 0xc000090 [(d.toNat, 21), (a.toNat, 16)]) rfl (by have := d.isLt; have := a.isLt; rw [enc_cons, enc_cons, enc_nil]; omega) rfl rfl
theorem popc (d : BitVec 5) (a : BitVec 5) : Statement (.popc d a) := of_op (v := enc 0xc0000a0 [(d.toNat, 21), (a.toNat, 16)]) rfl (by have := d.isLt; have := a.isLt; rw [enc_cons, enc_cons, enc_nil]; omega) rfl rfl
theorem brev (d : BitVec 5) (a : BitVec 5) : Statement (.brev d a) := of_op (v := enc 0xc0000b0 [(d.toNat, 21), (a.toNat, 16)]) rfl (by have := d.isLt; have := a.isLt; rw [enc_cons, enc_cons, enc_nil]; omega) rfl rfl
theorem bswap (d : BitVec 5) (a : BitVec 5) : Statement (.bswap d a) := of_op (v := enc 0xc0000c0 [(d.toNat, 21), (a.toNat, 16)]) rfl (by have := d.isLt; have := a.isLt; rw [enc_cons, enc_cons, enc_nil]; omega) rfl rfl
theorem rol (d : BitVec 5) (a : BitVec 5) (b : BitVec 5) : Statement (.rol d a b) := of_op (v := enc 0xc0000d0 [(d.toNat, 21), (a.toNat, 16), (b.toNat, 11)]) rfl (by have := d.isLt; have := a.isLt; have := b.isLt; rw [enc_cons, enc_cons, enc_cons, enc_nil]; omega) rfl rfl
theorem ror (d : BitVec 5) (a : BitVec 5) (b : BitVec 5) : Statement (.ror d a b) := of_op (v := enc 0xc0000e0 [(d.toNat, 21), (a.toNat, 16), (b.toNat, 11)]) rfl (by have := d.isLt; have := a.isLt; have := b.isLt; rw [enc_cons, enc_cons, enc_cons, enc_nil]; omega) rfl rfl
theorem extu (d : BitVec 5) (a : BitVec 5) (b : BitVec 5) : Statement (.extu d a b) := of_op (v := enc 0xc0000f0 [(d.toNat, 21), (a.toNat, 16), (b.toNat, 11)]) rfl (by have := d.isLt; have := a.isLt; have := b.isLt; rw [enc_cons, enc_cons, enc_cons, enc_nil]; omega) rfl rfl
theorem exts (d : BitVec 5) (a : BitVec 5) (b : BitVec 5) : Statement (.exts d a b) := of_op (v := enc 0xc000100 [(d.toNat, 21), (a.toNat, 16), (b.toNat, 11)]) rfl (by have := d.isLt; have := a.isLt; have := b.isLt; rw [enc_cons, enc_cons, enc_cons, enc_nil]; omega) rfl rfl
theorem fadd (d : BitVec 5) (a : BitVec 5) (b : BitVec 5) (r : BitVec 3) (t : BitVec 2) : Statement (.fadd d a b r t) := of_op (v := enc 0x10000000 [(d.toNat, 21), (a.toNat, 16), (b.toNat, 11), (r.toNat, 8), (t.toNat, 6)]) rfl (by have := d.isLt; have := a.isLt; have := b.isLt; have := r.isLt; have := t.isLt; rw [enc_cons, enc_cons, enc_cons, enc_cons, enc_cons, enc_nil]; omega) rfl rfl
theorem fsub (d : BitVec 5) (a : BitVec 5) (b : BitVec 5) (r : BitVec 3) (t : BitVec 2) : Statement (.fsub d a b r t) := of_op (v := enc 0x10000001 [(d.toNat, 21), (a.toNat, 16), (b.toNat, 11), (r.toNat, 8), (t.toNat, 6)]) rfl (by have := d.isLt; have := a.isLt; have := b.isLt; have := r.isLt; have := t.isLt; rw [enc_cons, enc_cons, enc_cons, enc_cons, enc_cons, enc_nil]; omega) rfl rfl
theorem fmul (d : BitVec 5) (a : BitVec 5) (b : BitVec 5) (r : BitVec 3) (t : BitVec 2) : Statement (.fmul d a b r t) := of_op (v := enc 0x10000002 [(d.toNat, 21), (a.toNat, 16), (b.toNat, 11), (r.toNat, 8), (t.toNat, 6)]) rfl (by have := d.isLt; have := a.isLt; have := b.isLt; have := r.isLt; have := t.isLt; rw [enc_cons, enc_cons, enc_cons, enc_cons, enc_cons, enc_nil]; omega) rfl rfl
theorem fma (d : BitVec 5) (a : BitVec 5) (b : BitVec 5) (r : BitVec 3) (t : BitVec 2) : Statement (.fma d a b r t) := of_op (v := enc 0x10000003 [(d.toNat, 21), (a.toNat, 16), (b.toNat, 11), (r.toNat, 8), (t.toNat, 6)]) rfl (by have := d.isLt; have := a.isLt; have := b.isLt; have := r.isLt; have := t.isLt; rw [enc_cons, enc_cons, enc_cons, enc_cons, enc_cons, enc_nil]; omega) rfl rfl
theorem fmin (d : BitVec 5) (a : BitVec 5) (b : BitVec 5) (t : BitVec 2) : Statement (.fmin d a b t) := of_op (v := enc 0x10000504 [(d.toNat, 21), (a.toNat, 16), (b.toNat, 11), (t.toNat, 6)]) rfl (by have := d.isLt; have := a.isLt; have := b.isLt; have := t.isLt; rw [enc_cons, enc_cons, enc_cons, enc_cons, enc_nil]; omega) rfl rfl
theorem fmax (d : BitVec 5) (a : BitVec 5) (b : BitVec 5) (t : BitVec 2) : Statement (.fmax d a b t) := of_op (v := enc 0x10000505 [(d.toNat, 21), (a.toNat, 16), (b.toNat, 11), (t.toNat, 6)]) rfl (by have := d.isLt; have := a.isLt; have := b.isLt; have := t.isLt; rw [enc_cons, enc_cons, enc_cons, enc_cons, enc_nil]; omega) rfl rfl
theorem fdiv (d : BitVec 5) (a : BitVec 5) (b : BitVec 5) (r : BitVec 3) (t : BitVec 2) : Statement (.fdiv d a b r t) := of_op (v := enc 0x10000006 [(d.toNat, 21), (a.toNat, 16), (b.toNat, 11), (r.toNat, 8), (t.toNat, 6)]) rfl (by have := d.isLt; have := a.isLt; have := b.isLt; have := r.isLt; have := t.isLt; rw [enc_cons, enc_cons, enc_cons, enc_cons, enc_cons, enc_nil]; omega) rfl rfl
theorem fsqrt (d : BitVec 5) (a : BitVec 5) (r : BitVec 3) (t : BitVec 2) : Statement (.fsqrt d a r t) := of_op (v := enc 0x10000007 [(d.toNat, 21), (a.toNat, 16), (r.toNat, 8), (t.toNat, 6)]) rfl (by have := d.isLt; have := a.isLt; have := r.isLt; have := t.isLt; rw [enc_cons, enc_cons, enc_cons, enc_cons, enc_nil]; omega) rfl rfl
theorem fcvt (d : BitVec 5) (a : BitVec 5) (c : BitVec 2) (r : BitVec 3) (t : BitVec 2) : Statement (.fcvt d a c r t) := of_op (v := enc 0x10000008 [(d.toNat, 21), (a.toNat, 16), (c.toNat, 11), (r.toNat, 8), (t.toNat, 6)]) rfl (by have := d.isLt; have := a.isLt; have := c.isLt; have := r.isLt; have := t.isLt; rw [enc_cons, enc_cons, enc_cons, enc_cons, enc_cons, enc_nil]; omega) rfl rfl
theorem fcvti (d : BitVec 5) (a : BitVec 5) (b : BitVec 5) (r : BitVec 3) (t : BitVec 2) : Statement (.fcvti d a b r t) := of_op (v := enc 0x10000009 [(d.toNat, 21), (a.toNat, 16), (b.toNat, 11), (r.toNat, 8), (t.toNat, 6)]) rfl (by have := d.isLt; have := a.isLt; have := b.isLt; have := r.isLt; have := t.isLt; rw [enc_cons, enc_cons, enc_cons, enc_cons, enc_cons, enc_nil]; omega) rfl rfl
theorem fcvtn (d : BitVec 5) (a : BitVec 5) (b : BitVec 5) (r : BitVec 3) (t : BitVec 2) : Statement (.fcvtn d a b r t) := of_op (v := enc 0x1000000a [(d.toNat, 21), (a.toNat, 16), (b.toNat, 11), (r.toNat, 8), (t.toNat, 6)]) rfl (by have := d.isLt; have := a.isLt; have := b.isLt; have := r.isLt; have := t.isLt; rw [enc_cons, enc_cons, enc_cons, enc_cons, enc_cons, enc_nil]; omega) rfl rfl
theorem icvtf (d : BitVec 5) (a : BitVec 5) (b : BitVec 5) (r : BitVec 3) (t : BitVec 2) : Statement (.icvtf d a b r t) := of_op (v := enc 0x1000000b [(d.toNat, 21), (a.toNat, 16), (b.toNat, 11), (r.toNat, 8), (t.toNat, 6)]) rfl (by have := d.isLt; have := a.isLt; have := b.isLt; have := r.isLt; have := t.isLt; rw [enc_cons, enc_cons, enc_cons, enc_cons, enc_cons, enc_nil]; omega) rfl rfl
theorem ncvtf (d : BitVec 5) (a : BitVec 5) (b : BitVec 5) (r : BitVec 3) (t : BitVec 2) : Statement (.ncvtf d a b r t) := of_op (v := enc 0x1000000c [(d.toNat, 21), (a.toNat, 16), (b.toNat, 11), (r.toNat, 8), (t.toNat, 6)]) rfl (by have := d.isLt; have := a.isLt; have := b.isLt; have := r.isLt; have := t.isLt; rw [enc_cons, enc_cons, enc_cons, enc_cons, enc_cons, enc_nil]; omega) rfl rfl
theorem fcmpeq (p : BitVec 4) (a : BitVec 5) (b : BitVec 5) (t : BitVec 2) : Statement (.fcmpeq p a b t) := of_op (v := enc 0x1000050d [(p.toNat, 21), (a.toNat, 16), (b.toNat, 11), (t.toNat, 6)]) rfl (by have := p.isLt; have := a.isLt; have := b.isLt; have := t.isLt; rw [enc_cons, enc_cons, enc_cons, enc_cons, enc_nil]; omega) rfl rfl
theorem fcmplt (p : BitVec 4) (a : BitVec 5) (b : BitVec 5) (t : BitVec 2) : Statement (.fcmplt p a b t) := of_op (v := enc 0x1000050e [(p.toNat, 21), (a.toNat, 16), (b.toNat, 11), (t.toNat, 6)]) rfl (by have := p.isLt; have := a.isLt; have := b.isLt; have := t.isLt; rw [enc_cons, enc_cons, enc_cons, enc_cons, enc_nil]; omega) rfl rfl
theorem fcmple (p : BitVec 4) (a : BitVec 5) (b : BitVec 5) (t : BitVec 2) : Statement (.fcmple p a b t) := of_op (v := enc 0x1000050f [(p.toNat, 21), (a.toNat, 16), (b.toNat, 11), (t.toNat, 6)]) rfl (by have := p.isLt; have := a.isLt; have := b.isLt; have := t.isLt; rw [enc_cons, enc_cons, enc_cons, enc_cons, enc_nil]; omega) rfl rfl
theorem fneg (d : BitVec 5) (a : BitVec 5) (t : BitVec 2) : Statement (.fneg d a t) := of_op (v := enc 0x10000510 [(d.toNat, 21), (a.toNat, 16), (t.toNat, 6)]) rfl (by have := d.isLt; have := a.isLt; have := t.isLt; rw [enc_cons, enc_cons, enc_cons, enc_nil]; omega) rfl rfl
theorem fabs (d : BitVec 5) (a : BitVec 5) (t : BitVec 2) : Statement (.fabs d a t) := of_op (v := enc 0x10000511 [(d.toNat, 21), (a.toNat, 16), (t.toNat, 6)]) rfl (by have := d.isLt; have := a.isLt; have := t.isLt; rw [enc_cons, enc_cons, enc_cons, enc_nil]; omega) rfl rfl
theorem beq (a : BitVec 5) (b : BitVec 5) (d : BitVec 13) : Statement (.beq a b d) := of_op (v := enc 0x14000000 [(a.toNat, 21), (b.toNat, 16), (d.toNat, 0)]) rfl (by have := a.isLt; have := b.isLt; have := d.isLt; rw [enc_cons, enc_cons, enc_cons, enc_nil]; omega) rfl rfl
theorem bne (a : BitVec 5) (b : BitVec 5) (d : BitVec 13) : Statement (.bne a b d) := of_op (v := enc 0x14002000 [(a.toNat, 21), (b.toNat, 16), (d.toNat, 0)]) rfl (by have := a.isLt; have := b.isLt; have := d.isLt; rw [enc_cons, enc_cons, enc_cons, enc_nil]; omega) rfl rfl
theorem blt (a : BitVec 5) (b : BitVec 5) (d : BitVec 13) : Statement (.blt a b d) := of_op (v := enc 0x14004000 [(a.toNat, 21), (b.toNat, 16), (d.toNat, 0)]) rfl (by have := a.isLt; have := b.isLt; have := d.isLt; rw [enc_cons, enc_cons, enc_cons, enc_nil]; omega) rfl rfl
theorem bge (a : BitVec 5) (b : BitVec 5) (d : BitVec 13) : Statement (.bge a b d) := of_op (v := enc 0x14006000 [(a.toNat, 21), (b.toNat, 16), (d.toNat, 0)]) rfl (by have := a.isLt; have := b.isLt; have := d.isLt; rw [enc_cons, enc_cons, enc_cons, enc_nil]; omega) rfl rfl
theorem bltu (a : BitVec 5) (b : BitVec 5) (d : BitVec 13) : Statement (.bltu a b d) := of_op (v := enc 0x14008000 [(a.toNat, 21), (b.toNat, 16), (d.toNat, 0)]) rfl (by have := a.isLt; have := b.isLt; have := d.isLt; rw [enc_cons, enc_cons, enc_cons, enc_nil]; omega) rfl rfl
theorem bgeu (a : BitVec 5) (b : BitVec 5) (d : BitVec 13) : Statement (.bgeu a b d) := of_op (v := enc 0x1400a000 [(a.toNat, 21), (b.toNat, 16), (d.toNat, 0)]) rfl (by have := a.isLt; have := b.isLt; have := d.isLt; rw [enc_cons, enc_cons, enc_cons, enc_nil]; omega) rfl rfl
theorem bp (p : BitVec 4) (d : BitVec 13) : Statement (.bp p d) := of_op (v := enc 0x1400c000 [(p.toNat, 21), (d.toNat, 0)]) rfl (by have := p.isLt; have := d.isLt; rw [enc_cons, enc_cons, enc_nil]; omega) rfl rfl
theorem bnp (p : BitVec 4) (d : BitVec 13) : Statement (.bnp p d) := of_op (v := enc 0x1400e000 [(p.toNat, 21), (d.toNat, 0)]) rfl (by have := p.isLt; have := d.isLt; rw [enc_cons, enc_cons, enc_nil]; omega) rfl rfl
theorem j (d : BitVec 16) : Statement (.j d) := of_op (v := enc 0x18000000 [(d.toNat, 0)]) rfl (by have := d.isLt; rw [enc_cons, enc_nil]; omega) rfl rfl
theorem call (d : BitVec 16) : Statement (.call d) := of_op (v := enc 0x18040000 [(d.toNat, 0)]) rfl (by have := d.isLt; rw [enc_cons, enc_nil]; omega) rfl rfl
theorem jr (a : BitVec 5) (d : BitVec 16) : Statement (.jr a d) := of_op (v := enc 0x18080000 [(a.toNat, 21), (d.toNat, 0)]) rfl (by have := a.isLt; have := d.isLt; rw [enc_cons, enc_cons, enc_nil]; omega) rfl rfl
theorem callr (a : BitVec 5) (d : BitVec 16) : Statement (.callr a d) := of_op (v := enc 0x180c0000 [(a.toNat, 21), (d.toNat, 0)]) rfl (by have := a.isLt; have := d.isLt; rw [enc_cons, enc_cons, enc_nil]; omega) rfl rfl
theorem loop (a : BitVec 5) (d : BitVec 16) : Statement (.loop a d) := of_op (v := enc 0x18100000 [(a.toNat, 21), (d.toNat, 0)]) rfl (by have := a.isLt; have := d.isLt; rw [enc_cons, enc_cons, enc_nil]; omega) rfl rfl
theorem loopRot (a : BitVec 5) (n : BitVec 2) (d : BitVec 16) : Statement (.loopRot a n d) := of_op (v := enc 0x18140000 [(a.toNat, 21), (n.toNat, 16), (d.toNat, 0)]) rfl (by have := a.isLt; have := n.isLt; have := d.isLt; rw [enc_cons, enc_cons, enc_cons, enc_nil]; omega) rfl rfl
theorem loopRot58 (a : BitVec 5) (n : BitVec 2) (d : BitVec 16) : Statement (.loopRot58 a n d) := of_op (v := enc 0x18180000 [(a.toNat, 21), (n.toNat, 16), (d.toNat, 0)]) rfl (by have := a.isLt; have := n.isLt; have := d.isLt; rw [enc_cons, enc_cons, enc_cons, enc_nil]; omega) rfl rfl
theorem mpushAll : Statement .mpushAll := of_op (v := enc 0x1c000000 []) rfl (by decide) rfl rfl
theorem mdup : Statement .mdup := of_op (v := enc 0x1c000001 []) rfl (by decide) rfl rfl
theorem mpop : Statement .mpop := of_op (v := enc 0x1c000002 []) rfl (by decide) rfl rfl
theorem mand : Statement .mand := of_op (v := enc 0x1c000003 []) rfl (by decide) rfl rfl
theorem mor : Statement .mor := of_op (v := enc 0x1c000004 []) rfl (by decide) rfl rfl
theorem mxor : Statement .mxor := of_op (v := enc 0x1c000005 []) rfl (by decide) rfl rfl
theorem mandn : Statement .mandn := of_op (v := enc 0x1c000006 []) rfl (by decide) rfl rfl
theorem mnot : Statement .mnot := of_op (v := enc 0x1c000007 []) rfl (by decide) rfl rfl
theorem melse : Statement .melse := of_op (v := enc 0x1c000008 []) rfl (by decide) rfl rfl
theorem mpushP (p : BitVec 4) : Statement (.mpushP p) := of_op (v := enc 0x1c000009 [(p.toNat, 16)]) rfl (by have := p.isLt; rw [enc_cons, enc_nil]; omega) rfl rfl
theorem mcnt (d : BitVec 5) : Statement (.mcnt d) := of_op (v := enc 0x1c00000a [(d.toNat, 21)]) rfl (by have := d.isLt; rw [enc_cons, enc_nil]; omega) rfl rfl
theorem many (p : BitVec 4) : Statement (.many p) := of_op (v := enc 0x1c00000b [(p.toNat, 21)]) rfl (by have := p.isLt; rw [enc_cons, enc_nil]; omega) rfl rfl
theorem pand (d : BitVec 4) (a : BitVec 4) (b : BitVec 4) (i : BitVec 1) : Statement (.pand d a b i) := of_op (v := enc 0x1c000100 [(d.toNat, 21), (a.toNat, 16), (b.toNat, 11), (i.toNat, 2)]) rfl (by have := d.isLt; have := a.isLt; have := b.isLt; have := i.isLt; rw [enc_cons, enc_cons, enc_cons, enc_cons, enc_nil]; omega) rfl rfl
theorem por (d : BitVec 4) (a : BitVec 4) (b : BitVec 4) (i : BitVec 1) : Statement (.por d a b i) := of_op (v := enc 0x1c000101 [(d.toNat, 21), (a.toNat, 16), (b.toNat, 11), (i.toNat, 2)]) rfl (by have := d.isLt; have := a.isLt; have := b.isLt; have := i.isLt; rw [enc_cons, enc_cons, enc_cons, enc_cons, enc_nil]; omega) rfl rfl
theorem pxor (d : BitVec 4) (a : BitVec 4) (b : BitVec 4) (i : BitVec 1) : Statement (.pxor d a b i) := of_op (v := enc 0x1c000102 [(d.toNat, 21), (a.toNat, 16), (b.toNat, 11), (i.toNat, 2)]) rfl (by have := d.isLt; have := a.isLt; have := b.isLt; have := i.isLt; rw [enc_cons, enc_cons, enc_cons, enc_cons, enc_nil]; omega) rfl rfl
theorem pandn (d : BitVec 4) (a : BitVec 4) (b : BitVec 4) (i : BitVec 1) : Statement (.pandn d a b i) := of_op (v := enc 0x1c000103 [(d.toNat, 21), (a.toNat, 16), (b.toNat, 11), (i.toNat, 2)]) rfl (by have := d.isLt; have := a.isLt; have := b.isLt; have := i.isLt; rw [enc_cons, enc_cons, enc_cons, enc_cons, enc_nil]; omega) rfl rfl
theorem pnz (p : BitVec 4) (a : BitVec 5) : Statement (.pnz p a) := of_op (v := enc 0x1c000200 [(p.toNat, 21), (a.toNat, 16)]) rfl (by have := p.isLt; have := a.isLt; rw [enc_cons, enc_cons, enc_nil]; omega) rfl rfl
theorem prd (d : BitVec 5) : Statement (.prd d) := of_op (v := enc 0x1c000300 [(d.toNat, 21)]) rfl (by have := d.isLt; rw [enc_cons, enc_nil]; omega) rfl rfl
theorem guard (p : BitVec 4) (m : BitVec 8) : Statement (.guard p m) := of_op (v := enc 0x1c000400 [(p.toNat, 16), (m.toNat, 0)]) rfl (by have := p.isLt; have := m.isLt; rw [enc_cons, enc_cons, enc_nil]; omega) rfl rfl
theorem mskip (n : BitVec 8) : Statement (.mskip n) := of_op (v := enc 0x1c000500 [(n.toNat, 0)]) rfl (by have := n.isLt; rw [enc_cons, enc_nil]; omega) rfl rfl
theorem ld (d : BitVec 5) (a : BitVec 5) (c : BitVec 2) (z : BitVec 3) (i : BitVec 9) : Statement (.ld d a c z i) := of_op (v := enc 0x20000000 [(d.toNat, 20), (a.toNat, 15), (c.toNat, 12), (z.toNat, 9), (i.toNat, 0)]) rfl (by have := d.isLt; have := a.isLt; have := c.isLt; have := z.isLt; have := i.isLt; rw [enc_cons, enc_cons, enc_cons, enc_cons, enc_cons, enc_nil]; omega) rfl rfl
theorem st (t : BitVec 5) (a : BitVec 5) (c : BitVec 2) (z : BitVec 3) (i : BitVec 9) : Statement (.st t a c z i) := of_op (v := enc 0x24000000 [(t.toNat, 20), (a.toNat, 15), (c.toNat, 12), (z.toNat, 9), (i.toNat, 0)]) rfl (by have := t.isLt; have := a.isLt; have := c.isLt; have := z.isLt; have := i.isLt; rw [enc_cons, enc_cons, enc_cons, enc_cons, enc_cons, enc_nil]; omega) rfl rfl
theorem ldg (d : BitVec 5) (a : BitVec 5) (c : BitVec 2) (z : BitVec 3) (i : BitVec 9) : Statement (.ldg d a c z i) := of_op (v := enc 0x20004000 [(d.toNat, 20), (a.toNat, 15), (c.toNat, 12), (z.toNat, 9), (i.toNat, 0)]) rfl (by have := d.isLt; have := a.isLt; have := c.isLt; have := z.isLt; have := i.isLt; rw [enc_cons, enc_cons, enc_cons, enc_cons, enc_cons, enc_nil]; omega) rfl rfl
theorem stg (t : BitVec 5) (a : BitVec 5) (z : BitVec 3) (i : BitVec 9) : Statement (.stg t a z i) := of_op (v := enc 0x24004000 [(t.toNat, 20), (a.toNat, 15), (z.toNat, 9), (i.toNat, 0)]) rfl (by have := t.isLt; have := a.isLt; have := z.isLt; have := i.isLt; rw [enc_cons, enc_cons, enc_cons, enc_cons, enc_nil]; omega) rfl rfl
theorem amswap (d : BitVec 5) (a : BitVec 5) (b : BitVec 5) (p : BitVec 1) (w : BitVec 1) (c : BitVec 3) (o : BitVec 2) : Statement (.amswap d a b p w c o) := of_op (v := enc 0x28000000 [(d.toNat, 21), (a.toNat, 16), (b.toNat, 11), (p.toNat, 10), (w.toNat, 5), (c.toNat, 2), (o.toNat, 0)]) rfl (by have := d.isLt; have := a.isLt; have := b.isLt; have := p.isLt; have := w.isLt; have := c.isLt; have := o.isLt; rw [enc_cons, enc_cons, enc_cons, enc_cons, enc_cons, enc_cons, enc_cons, enc_nil]; omega) rfl rfl
theorem amcas (d : BitVec 5) (a : BitVec 5) (b : BitVec 5) (p : BitVec 1) (w : BitVec 1) (c : BitVec 3) (o : BitVec 2) : Statement (.amcas d a b p w c o) := of_op (v := enc 0x28000040 [(d.toNat, 21), (a.toNat, 16), (b.toNat, 11), (p.toNat, 10), (w.toNat, 5), (c.toNat, 2), (o.toNat, 0)]) rfl (by have := d.isLt; have := a.isLt; have := b.isLt; have := p.isLt; have := w.isLt; have := c.isLt; have := o.isLt; rw [enc_cons, enc_cons, enc_cons, enc_cons, enc_cons, enc_cons, enc_cons, enc_nil]; omega) rfl rfl
theorem amadd (d : BitVec 5) (a : BitVec 5) (b : BitVec 5) (p : BitVec 1) (w : BitVec 1) (c : BitVec 3) (o : BitVec 2) : Statement (.amadd d a b p w c o) := of_op (v := enc 0x28000080 [(d.toNat, 21), (a.toNat, 16), (b.toNat, 11), (p.toNat, 10), (w.toNat, 5), (c.toNat, 2), (o.toNat, 0)]) rfl (by have := d.isLt; have := a.isLt; have := b.isLt; have := p.isLt; have := w.isLt; have := c.isLt; have := o.isLt; rw [enc_cons, enc_cons, enc_cons, enc_cons, enc_cons, enc_cons, enc_cons, enc_nil]; omega) rfl rfl
theorem amand (d : BitVec 5) (a : BitVec 5) (b : BitVec 5) (p : BitVec 1) (w : BitVec 1) (c : BitVec 3) (o : BitVec 2) : Statement (.amand d a b p w c o) := of_op (v := enc 0x280000c0 [(d.toNat, 21), (a.toNat, 16), (b.toNat, 11), (p.toNat, 10), (w.toNat, 5), (c.toNat, 2), (o.toNat, 0)]) rfl (by have := d.isLt; have := a.isLt; have := b.isLt; have := p.isLt; have := w.isLt; have := c.isLt; have := o.isLt; rw [enc_cons, enc_cons, enc_cons, enc_cons, enc_cons, enc_cons, enc_cons, enc_nil]; omega) rfl rfl
theorem amor (d : BitVec 5) (a : BitVec 5) (b : BitVec 5) (p : BitVec 1) (w : BitVec 1) (c : BitVec 3) (o : BitVec 2) : Statement (.amor d a b p w c o) := of_op (v := enc 0x28000100 [(d.toNat, 21), (a.toNat, 16), (b.toNat, 11), (p.toNat, 10), (w.toNat, 5), (c.toNat, 2), (o.toNat, 0)]) rfl (by have := d.isLt; have := a.isLt; have := b.isLt; have := p.isLt; have := w.isLt; have := c.isLt; have := o.isLt; rw [enc_cons, enc_cons, enc_cons, enc_cons, enc_cons, enc_cons, enc_cons, enc_nil]; omega) rfl rfl
theorem amxor (d : BitVec 5) (a : BitVec 5) (b : BitVec 5) (p : BitVec 1) (w : BitVec 1) (c : BitVec 3) (o : BitVec 2) : Statement (.amxor d a b p w c o) := of_op (v := enc 0x28000140 [(d.toNat, 21), (a.toNat, 16), (b.toNat, 11), (p.toNat, 10), (w.toNat, 5), (c.toNat, 2), (o.toNat, 0)]) rfl (by have := d.isLt; have := a.isLt; have := b.isLt; have := p.isLt; have := w.isLt; have := c.isLt; have := o.isLt; rw [enc_cons, enc_cons, enc_cons, enc_cons, enc_cons, enc_cons, enc_cons, enc_nil]; omega) rfl rfl
theorem ammin (d : BitVec 5) (a : BitVec 5) (b : BitVec 5) (p : BitVec 1) (w : BitVec 1) (c : BitVec 3) (o : BitVec 2) : Statement (.ammin d a b p w c o) := of_op (v := enc 0x28000180 [(d.toNat, 21), (a.toNat, 16), (b.toNat, 11), (p.toNat, 10), (w.toNat, 5), (c.toNat, 2), (o.toNat, 0)]) rfl (by have := d.isLt; have := a.isLt; have := b.isLt; have := p.isLt; have := w.isLt; have := c.isLt; have := o.isLt; rw [enc_cons, enc_cons, enc_cons, enc_cons, enc_cons, enc_cons, enc_cons, enc_nil]; omega) rfl rfl
theorem ammax (d : BitVec 5) (a : BitVec 5) (b : BitVec 5) (p : BitVec 1) (w : BitVec 1) (c : BitVec 3) (o : BitVec 2) : Statement (.ammax d a b p w c o) := of_op (v := enc 0x280001c0 [(d.toNat, 21), (a.toNat, 16), (b.toNat, 11), (p.toNat, 10), (w.toNat, 5), (c.toNat, 2), (o.toNat, 0)]) rfl (by have := d.isLt; have := a.isLt; have := b.isLt; have := p.isLt; have := w.isLt; have := c.isLt; have := o.isLt; rw [enc_cons, enc_cons, enc_cons, enc_cons, enc_cons, enc_cons, enc_cons, enc_nil]; omega) rfl rfl
theorem amminu (d : BitVec 5) (a : BitVec 5) (b : BitVec 5) (p : BitVec 1) (w : BitVec 1) (c : BitVec 3) (o : BitVec 2) : Statement (.amminu d a b p w c o) := of_op (v := enc 0x28000200 [(d.toNat, 21), (a.toNat, 16), (b.toNat, 11), (p.toNat, 10), (w.toNat, 5), (c.toNat, 2), (o.toNat, 0)]) rfl (by have := d.isLt; have := a.isLt; have := b.isLt; have := p.isLt; have := w.isLt; have := c.isLt; have := o.isLt; rw [enc_cons, enc_cons, enc_cons, enc_cons, enc_cons, enc_cons, enc_cons, enc_nil]; omega) rfl rfl
theorem ammaxu (d : BitVec 5) (a : BitVec 5) (b : BitVec 5) (p : BitVec 1) (w : BitVec 1) (c : BitVec 3) (o : BitVec 2) : Statement (.ammaxu d a b p w c o) := of_op (v := enc 0x28000240 [(d.toNat, 21), (a.toNat, 16), (b.toNat, 11), (p.toNat, 10), (w.toNat, 5), (c.toNat, 2), (o.toNat, 0)]) rfl (by have := d.isLt; have := a.isLt; have := b.isLt; have := p.isLt; have := w.isLt; have := c.isLt; have := o.isLt; rw [enc_cons, enc_cons, enc_cons, enc_cons, enc_cons, enc_cons, enc_cons, enc_nil]; omega) rfl rfl
theorem waddF64 (a : BitVec 5) (b : BitVec 5) (p : BitVec 1) (c : BitVec 3) (o : BitVec 2) : Statement (.waddF64 a b p c o) := of_op (v := enc 0x28000280 [(a.toNat, 16), (b.toNat, 11), (p.toNat, 10), (c.toNat, 2), (o.toNat, 0)]) rfl (by have := a.isLt; have := b.isLt; have := p.isLt; have := c.isLt; have := o.isLt; rw [enc_cons, enc_cons, enc_cons, enc_cons, enc_cons, enc_nil]; omega) rfl rfl
theorem waddF32 (a : BitVec 5) (b : BitVec 5) (p : BitVec 1) (c : BitVec 3) (o : BitVec 2) : Statement (.waddF32 a b p c o) := of_op (v := enc 0x280002c0 [(a.toNat, 16), (b.toNat, 11), (p.toNat, 10), (c.toNat, 2), (o.toNat, 0)]) rfl (by have := a.isLt; have := b.isLt; have := p.isLt; have := c.isLt; have := o.isLt; rw [enc_cons, enc_cons, enc_cons, enc_cons, enc_cons, enc_nil]; omega) rfl rfl
theorem waddF16 (a : BitVec 5) (b : BitVec 5) (p : BitVec 1) (c : BitVec 3) (o : BitVec 2) : Statement (.waddF16 a b p c o) := of_op (v := enc 0x28000300 [(a.toNat, 16), (b.toNat, 11), (p.toNat, 10), (c.toNat, 2), (o.toNat, 0)]) rfl (by have := a.isLt; have := b.isLt; have := p.isLt; have := c.isLt; have := o.isLt; rw [enc_cons, enc_cons, enc_cons, enc_cons, enc_cons, enc_nil]; omega) rfl rfl
theorem waddBf16 (a : BitVec 5) (b : BitVec 5) (p : BitVec 1) (c : BitVec 3) (o : BitVec 2) : Statement (.waddBf16 a b p c o) := of_op (v := enc 0x28000340 [(a.toNat, 16), (b.toNat, 11), (p.toNat, 10), (c.toNat, 2), (o.toNat, 0)]) rfl (by have := a.isLt; have := b.isLt; have := p.isLt; have := c.isLt; have := o.isLt; rw [enc_cons, enc_cons, enc_cons, enc_cons, enc_cons, enc_nil]; omega) rfl rfl
theorem waddI64 (a : BitVec 5) (b : BitVec 5) (p : BitVec 1) (c : BitVec 3) (o : BitVec 2) : Statement (.waddI64 a b p c o) := of_op (v := enc 0x28000380 [(a.toNat, 16), (b.toNat, 11), (p.toNat, 10), (c.toNat, 2), (o.toNat, 0)]) rfl (by have := a.isLt; have := b.isLt; have := p.isLt; have := c.isLt; have := o.isLt; rw [enc_cons, enc_cons, enc_cons, enc_cons, enc_cons, enc_nil]; omega) rfl rfl
theorem wrd (d : BitVec 5) (a : BitVec 5) (p : BitVec 1) (w : BitVec 1) (c : BitVec 3) (o : BitVec 2) : Statement (.wrd d a p w c o) := of_op (v := enc 0x280003c0 [(d.toNat, 21), (a.toNat, 16), (p.toNat, 10), (w.toNat, 5), (c.toNat, 2), (o.toNat, 0)]) rfl (by have := d.isLt; have := a.isLt; have := p.isLt; have := w.isLt; have := c.isLt; have := o.isLt; rw [enc_cons, enc_cons, enc_cons, enc_cons, enc_cons, enc_cons, enc_nil]; omega) rfl rfl
theorem atomicExecution : Statement .atomicExecution := of_event rfl rfl rfl
theorem fence (c : BitVec 3) : Statement (.fence c) := of_op (v := enc 0x2c000000 [(c.toNat, 2)]) rfl (by have := c.isLt; rw [enc_cons, enc_nil]; omega) rfl rfl
theorem bind (a : BitVec 5) (b : BitVec 5) (p : BitVec 1) : Statement (.bind a b p) := of_op (v := enc 0x2c000040 [(a.toNat, 16), (b.toNat, 11), (p.toNat, 5)]) rfl (by have := a.isLt; have := b.isLt; have := p.isLt; rw [enc_cons, enc_cons, enc_cons, enc_nil]; omega) rfl rfl
theorem unbind (a : BitVec 5) : Statement (.unbind a) := of_op (v := enc 0x2c000080 [(a.toNat, 16)]) rfl (by have := a.isLt; rw [enc_cons, enc_nil]; omega) rfl rfl
theorem sealRange (a : BitVec 5) (b : BitVec 5) : Statement (.sealRange a b) := of_op (v := enc 0x2c0000e0 [(a.toNat, 16), (b.toNat, 11)]) rfl (by have := a.isLt; have := b.isLt; rw [enc_cons, enc_cons, enc_nil]; omega) rfl rfl
theorem unsealRange (a : BitVec 5) (b : BitVec 5) : Statement (.unsealRange a b) := of_op (v := enc 0x2c000120 [(a.toNat, 16), (b.toNat, 11)]) rfl (by have := a.isLt; have := b.isLt; rw [enc_cons, enc_cons, enc_nil]; omega) rfl rfl
theorem sealCompletion (fn : BitVec 5) (base : BitVec 64) : Statement (.sealCompletion fn base) := of_event rfl rfl rfl
theorem unsealCompletion (fn : BitVec 5) (base : BitVec 64) : Statement (.unsealCompletion fn base) := of_event rfl rfl rfl
theorem binit (c : BitVec 5) (a : BitVec 5) (b : BitVec 5) (p : BitVec 1) : Statement (.binit c a b p) := of_op (v := enc 0x2c000140 [(c.toNat, 21), (a.toNat, 16), (b.toNat, 11), (p.toNat, 5)]) rfl (by have := c.isLt; have := a.isLt; have := b.isLt; have := p.isLt; rw [enc_cons, enc_cons, enc_cons, enc_cons, enc_nil]; omega) rfl rfl
theorem arrb (d : BitVec 5) (a : BitVec 5) (p : BitVec 1) (c : BitVec 3) : Statement (.arrb d a p c) := of_op (v := enc 0x2c000180 [(d.toNat, 21), (a.toNat, 16), (p.toNat, 5), (c.toNat, 2)]) rfl (by have := d.isLt; have := a.isLt; have := p.isLt; have := c.isLt; rw [enc_cons, enc_cons, enc_cons, enc_cons, enc_nil]; omega) rfl rfl
theorem waitph (a : BitVec 5) (b : BitVec 5) (p : BitVec 1) (c : BitVec 3) : Statement (.waitph a b p c) := of_op (v := enc 0x2c0001c0 [(a.toNat, 16), (b.toNat, 11), (p.toNat, 5), (c.toNat, 2)]) rfl (by have := a.isLt; have := b.isLt; have := p.isLt; have := c.isLt; rw [enc_cons, enc_cons, enc_cons, enc_cons, enc_nil]; omega) rfl rfl
theorem barrierObjectUpdate (sp : BitVec 1) (addr : BitVec 64) (bytes : BitVec 64) (arr : BitVec 1) : Statement (.barrierObjectUpdate sp addr bytes arr) := of_event rfl rfl rfl
theorem globalWritePerformed : Statement .globalWritePerformed := of_event rfl rfl rfl
theorem vadd (d : BitVec 6) (a : BitVec 6) (b : BitVec 6) (t : BitVec 3) (k : BitVec 1) : Statement (.vadd d a b t k) := of_op (v := enc 0x30000000 [(d.toNat, 20), (a.toNat, 14), (b.toNat, 8), (t.toNat, 5), (k.toNat, 4)]) rfl (by have := d.isLt; have := a.isLt; have := b.isLt; have := t.isLt; have := k.isLt; rw [enc_cons, enc_cons, enc_cons, enc_cons, enc_cons, enc_nil]; omega) rfl rfl
theorem vsub (d : BitVec 6) (a : BitVec 6) (b : BitVec 6) (t : BitVec 3) (k : BitVec 1) : Statement (.vsub d a b t k) := of_op (v := enc 0x30000001 [(d.toNat, 20), (a.toNat, 14), (b.toNat, 8), (t.toNat, 5), (k.toNat, 4)]) rfl (by have := d.isLt; have := a.isLt; have := b.isLt; have := t.isLt; have := k.isLt; rw [enc_cons, enc_cons, enc_cons, enc_cons, enc_cons, enc_nil]; omega) rfl rfl
theorem vadds (d : BitVec 6) (a : BitVec 6) (b : BitVec 6) (t : BitVec 3) (k : BitVec 1) : Statement (.vadds d a b t k) := of_op (v := enc 0x30000002 [(d.toNat, 20), (a.toNat, 14), (b.toNat, 8), (t.toNat, 5), (k.toNat, 4)]) rfl (by have := d.isLt; have := a.isLt; have := b.isLt; have := t.isLt; have := k.isLt; rw [enc_cons, enc_cons, enc_cons, enc_cons, enc_cons, enc_nil]; omega) rfl rfl
theorem vsubs (d : BitVec 6) (a : BitVec 6) (b : BitVec 6) (t : BitVec 3) (k : BitVec 1) : Statement (.vsubs d a b t k) := of_op (v := enc 0x30000003 [(d.toNat, 20), (a.toNat, 14), (b.toNat, 8), (t.toNat, 5), (k.toNat, 4)]) rfl (by have := d.isLt; have := a.isLt; have := b.isLt; have := t.isLt; have := k.isLt; rw [enc_cons, enc_cons, enc_cons, enc_cons, enc_cons, enc_nil]; omega) rfl rfl
theorem vmin (d : BitVec 6) (a : BitVec 6) (b : BitVec 6) (t : BitVec 3) (k : BitVec 1) : Statement (.vmin d a b t k) := of_op (v := enc 0x30000004 [(d.toNat, 20), (a.toNat, 14), (b.toNat, 8), (t.toNat, 5), (k.toNat, 4)]) rfl (by have := d.isLt; have := a.isLt; have := b.isLt; have := t.isLt; have := k.isLt; rw [enc_cons, enc_cons, enc_cons, enc_cons, enc_cons, enc_nil]; omega) rfl rfl
theorem vmax (d : BitVec 6) (a : BitVec 6) (b : BitVec 6) (t : BitVec 3) (k : BitVec 1) : Statement (.vmax d a b t k) := of_op (v := enc 0x30000005 [(d.toNat, 20), (a.toNat, 14), (b.toNat, 8), (t.toNat, 5), (k.toNat, 4)]) rfl (by have := d.isLt; have := a.isLt; have := b.isLt; have := t.isLt; have := k.isLt; rw [enc_cons, enc_cons, enc_cons, enc_cons, enc_cons, enc_nil]; omega) rfl rfl
theorem vmul (d : BitVec 6) (a : BitVec 6) (b : BitVec 6) (t : BitVec 3) (k : BitVec 1) : Statement (.vmul d a b t k) := of_op (v := enc 0x30000006 [(d.toNat, 20), (a.toNat, 14), (b.toNat, 8), (t.toNat, 5), (k.toNat, 4)]) rfl (by have := d.isLt; have := a.isLt; have := b.isLt; have := t.isLt; have := k.isLt; rw [enc_cons, enc_cons, enc_cons, enc_cons, enc_cons, enc_nil]; omega) rfl rfl
theorem vmulh (d : BitVec 6) (a : BitVec 6) (b : BitVec 6) (t : BitVec 3) (k : BitVec 1) : Statement (.vmulh d a b t k) := of_op (v := enc 0x30000007 [(d.toNat, 20), (a.toNat, 14), (b.toNat, 8), (t.toNat, 5), (k.toNat, 4)]) rfl (by have := d.isLt; have := a.isLt; have := b.isLt; have := t.isLt; have := k.isLt; rw [enc_cons, enc_cons, enc_cons, enc_cons, enc_cons, enc_nil]; omega) rfl rfl
theorem vand (d : BitVec 6) (a : BitVec 6) (b : BitVec 6) (t : BitVec 3) (k : BitVec 1) : Statement (.vand d a b t k) := of_op (v := enc 0x30000008 [(d.toNat, 20), (a.toNat, 14), (b.toNat, 8), (t.toNat, 5), (k.toNat, 4)]) rfl (by have := d.isLt; have := a.isLt; have := b.isLt; have := t.isLt; have := k.isLt; rw [enc_cons, enc_cons, enc_cons, enc_cons, enc_cons, enc_nil]; omega) rfl rfl
theorem vor (d : BitVec 6) (a : BitVec 6) (b : BitVec 6) (t : BitVec 3) (k : BitVec 1) : Statement (.vor d a b t k) := of_op (v := enc 0x30000009 [(d.toNat, 20), (a.toNat, 14), (b.toNat, 8), (t.toNat, 5), (k.toNat, 4)]) rfl (by have := d.isLt; have := a.isLt; have := b.isLt; have := t.isLt; have := k.isLt; rw [enc_cons, enc_cons, enc_cons, enc_cons, enc_cons, enc_nil]; omega) rfl rfl
theorem vxor (d : BitVec 6) (a : BitVec 6) (b : BitVec 6) (t : BitVec 3) (k : BitVec 1) : Statement (.vxor d a b t k) := of_op (v := enc 0x3000000a [(d.toNat, 20), (a.toNat, 14), (b.toNat, 8), (t.toNat, 5), (k.toNat, 4)]) rfl (by have := d.isLt; have := a.isLt; have := b.isLt; have := t.isLt; have := k.isLt; rw [enc_cons, enc_cons, enc_cons, enc_cons, enc_cons, enc_nil]; omega) rfl rfl
theorem vandn (d : BitVec 6) (a : BitVec 6) (b : BitVec 6) (t : BitVec 3) (k : BitVec 1) : Statement (.vandn d a b t k) := of_op (v := enc 0x3000000b [(d.toNat, 20), (a.toNat, 14), (b.toNat, 8), (t.toNat, 5), (k.toNat, 4)]) rfl (by have := d.isLt; have := a.isLt; have := b.isLt; have := t.isLt; have := k.isLt; rw [enc_cons, enc_cons, enc_cons, enc_cons, enc_cons, enc_nil]; omega) rfl rfl
theorem vsll (d : BitVec 6) (a : BitVec 6) (b : BitVec 6) (t : BitVec 3) (k : BitVec 1) : Statement (.vsll d a b t k) := of_op (v := enc 0x3000000c [(d.toNat, 20), (a.toNat, 14), (b.toNat, 8), (t.toNat, 5), (k.toNat, 4)]) rfl (by have := d.isLt; have := a.isLt; have := b.isLt; have := t.isLt; have := k.isLt; rw [enc_cons, enc_cons, enc_cons, enc_cons, enc_cons, enc_nil]; omega) rfl rfl
theorem vsrl (d : BitVec 6) (a : BitVec 6) (b : BitVec 6) (t : BitVec 3) (k : BitVec 1) : Statement (.vsrl d a b t k) := of_op (v := enc 0x3000000d [(d.toNat, 20), (a.toNat, 14), (b.toNat, 8), (t.toNat, 5), (k.toNat, 4)]) rfl (by have := d.isLt; have := a.isLt; have := b.isLt; have := t.isLt; have := k.isLt; rw [enc_cons, enc_cons, enc_cons, enc_cons, enc_cons, enc_nil]; omega) rfl rfl
theorem vsra (d : BitVec 6) (a : BitVec 6) (b : BitVec 6) (t : BitVec 3) (k : BitVec 1) : Statement (.vsra d a b t k) := of_op (v := enc 0x3000000e [(d.toNat, 20), (a.toNat, 14), (b.toNat, 8), (t.toNat, 5), (k.toNat, 4)]) rfl (by have := d.isLt; have := a.isLt; have := b.isLt; have := t.isLt; have := k.isLt; rw [enc_cons, enc_cons, enc_cons, enc_cons, enc_cons, enc_nil]; omega) rfl rfl
theorem vcmp (c : BitVec 3) (a : BitVec 6) (b : BitVec 6) (t : BitVec 3) (k : BitVec 1) : Statement (.vcmp c a b t k) := of_op (v := enc 0x3000000f [(c.toNat, 20), (a.toNat, 14), (b.toNat, 8), (t.toNat, 5), (k.toNat, 4)]) rfl (by have := c.isLt; have := a.isLt; have := b.isLt; have := t.isLt; have := k.isLt; rw [enc_cons, enc_cons, enc_cons, enc_cons, enc_cons, enc_nil]; omega) rfl rfl
theorem vfadd (d : BitVec 6) (a : BitVec 6) (b : BitVec 6) (t : BitVec 3) (k : BitVec 1) : Statement (.vfadd d a b t k) := of_op (v := enc 0x34000000 [(d.toNat, 20), (a.toNat, 14), (b.toNat, 8), (t.toNat, 5), (k.toNat, 4)]) rfl (by have := d.isLt; have := a.isLt; have := b.isLt; have := t.isLt; have := k.isLt; rw [enc_cons, enc_cons, enc_cons, enc_cons, enc_cons, enc_nil]; omega) rfl rfl
theorem vfsub (d : BitVec 6) (a : BitVec 6) (b : BitVec 6) (t : BitVec 3) (k : BitVec 1) : Statement (.vfsub d a b t k) := of_op (v := enc 0x34000001 [(d.toNat, 20), (a.toNat, 14), (b.toNat, 8), (t.toNat, 5), (k.toNat, 4)]) rfl (by have := d.isLt; have := a.isLt; have := b.isLt; have := t.isLt; have := k.isLt; rw [enc_cons, enc_cons, enc_cons, enc_cons, enc_cons, enc_nil]; omega) rfl rfl
theorem vfmul (d : BitVec 6) (a : BitVec 6) (b : BitVec 6) (t : BitVec 3) (k : BitVec 1) : Statement (.vfmul d a b t k) := of_op (v := enc 0x34000002 [(d.toNat, 20), (a.toNat, 14), (b.toNat, 8), (t.toNat, 5), (k.toNat, 4)]) rfl (by have := d.isLt; have := a.isLt; have := b.isLt; have := t.isLt; have := k.isLt; rw [enc_cons, enc_cons, enc_cons, enc_cons, enc_cons, enc_nil]; omega) rfl rfl
theorem vfmin (d : BitVec 6) (a : BitVec 6) (b : BitVec 6) (t : BitVec 3) (k : BitVec 1) : Statement (.vfmin d a b t k) := of_op (v := enc 0x34000003 [(d.toNat, 20), (a.toNat, 14), (b.toNat, 8), (t.toNat, 5), (k.toNat, 4)]) rfl (by have := d.isLt; have := a.isLt; have := b.isLt; have := t.isLt; have := k.isLt; rw [enc_cons, enc_cons, enc_cons, enc_cons, enc_cons, enc_nil]; omega) rfl rfl
theorem vfmax (d : BitVec 6) (a : BitVec 6) (b : BitVec 6) (t : BitVec 3) (k : BitVec 1) : Statement (.vfmax d a b t k) := of_op (v := enc 0x34000004 [(d.toNat, 20), (a.toNat, 14), (b.toNat, 8), (t.toNat, 5), (k.toNat, 4)]) rfl (by have := d.isLt; have := a.isLt; have := b.isLt; have := t.isLt; have := k.isLt; rw [enc_cons, enc_cons, enc_cons, enc_cons, enc_cons, enc_nil]; omega) rfl rfl
theorem vfdiv (d : BitVec 6) (a : BitVec 6) (b : BitVec 6) (t : BitVec 3) (k : BitVec 1) : Statement (.vfdiv d a b t k) := of_op (v := enc 0x34000005 [(d.toNat, 20), (a.toNat, 14), (b.toNat, 8), (t.toNat, 5), (k.toNat, 4)]) rfl (by have := d.isLt; have := a.isLt; have := b.isLt; have := t.isLt; have := k.isLt; rw [enc_cons, enc_cons, enc_cons, enc_cons, enc_cons, enc_nil]; omega) rfl rfl
theorem vfsqrt (d : BitVec 6) (a : BitVec 6) (t : BitVec 3) : Statement (.vfsqrt d a t) := of_op (v := enc 0x34000006 [(d.toNat, 20), (a.toNat, 14), (t.toNat, 5)]) rfl (by have := d.isLt; have := a.isLt; have := t.isLt; rw [enc_cons, enc_cons, enc_cons, enc_nil]; omega) rfl rfl
theorem vfrsqrt (d : BitVec 6) (a : BitVec 6) (t : BitVec 3) : Statement (.vfrsqrt d a t) := of_op (v := enc 0x34000007 [(d.toNat, 20), (a.toNat, 14), (t.toNat, 5)]) rfl (by have := d.isLt; have := a.isLt; have := t.isLt; rw [enc_cons, enc_cons, enc_cons, enc_nil]; omega) rfl rfl
theorem vfexp2 (d : BitVec 6) (a : BitVec 6) (t : BitVec 3) : Statement (.vfexp2 d a t) := of_op (v := enc 0x34000008 [(d.toNat, 20), (a.toNat, 14), (t.toNat, 5)]) rfl (by have := d.isLt; have := a.isLt; have := t.isLt; rw [enc_cons, enc_cons, enc_cons, enc_nil]; omega) rfl rfl
theorem vflog2 (d : BitVec 6) (a : BitVec 6) (t : BitVec 3) : Statement (.vflog2 d a t) := of_op (v := enc 0x34000009 [(d.toNat, 20), (a.toNat, 14), (t.toNat, 5)]) rfl (by have := d.isLt; have := a.isLt; have := t.isLt; rw [enc_cons, enc_cons, enc_cons, enc_nil]; omega) rfl rfl
theorem vfneg (d : BitVec 6) (a : BitVec 6) (t : BitVec 3) : Statement (.vfneg d a t) := of_op (v := enc 0x3400000a [(d.toNat, 20), (a.toNat, 14), (t.toNat, 5)]) rfl (by have := d.isLt; have := a.isLt; have := t.isLt; rw [enc_cons, enc_cons, enc_cons, enc_nil]; omega) rfl rfl
theorem vfabs (d : BitVec 6) (a : BitVec 6) (t : BitVec 3) : Statement (.vfabs d a t) := of_op (v := enc 0x3400000b [(d.toNat, 20), (a.toNat, 14), (t.toNat, 5)]) rfl (by have := d.isLt; have := a.isLt; have := t.isLt; rw [enc_cons, enc_cons, enc_cons, enc_nil]; omega) rfl rfl
theorem vfcmp (c : BitVec 3) (a : BitVec 6) (b : BitVec 6) (t : BitVec 3) (k : BitVec 1) : Statement (.vfcmp c a b t k) := of_op (v := enc 0x3400000c [(c.toNat, 20), (a.toNat, 14), (b.toNat, 8), (t.toNat, 5), (k.toNat, 4)]) rfl (by have := c.isLt; have := a.isLt; have := b.isLt; have := t.isLt; have := k.isLt; rw [enc_cons, enc_cons, enc_cons, enc_cons, enc_cons, enc_nil]; omega) rfl rfl
theorem vfma (d : BitVec 6) (a : BitVec 6) (b : BitVec 6) (t : BitVec 3) (k : BitVec 1) : Statement (.vfma d a b t k) := of_op (v := enc 0x38000000 [(d.toNat, 20), (a.toNat, 14), (b.toNat, 8), (t.toNat, 5), (k.toNat, 4)]) rfl (by have := d.isLt; have := a.isLt; have := b.isLt; have := t.isLt; have := k.isLt; rw [enc_cons, enc_cons, enc_cons, enc_cons, enc_cons, enc_nil]; omega) rfl rfl
theorem vfnma (d : BitVec 6) (a : BitVec 6) (b : BitVec 6) (t : BitVec 3) (k : BitVec 1) : Statement (.vfnma d a b t k) := of_op (v := enc 0x38000001 [(d.toNat, 20), (a.toNat, 14), (b.toNat, 8), (t.toNat, 5), (k.toNat, 4)]) rfl (by have := d.isLt; have := a.isLt; have := b.isLt; have := t.isLt; have := k.isLt; rw [enc_cons, enc_cons, enc_cons, enc_cons, enc_cons, enc_nil]; omega) rfl rfl
theorem vfmsub (d : BitVec 6) (a : BitVec 6) (b : BitVec 6) (t : BitVec 3) (k : BitVec 1) : Statement (.vfmsub d a b t k) := of_op (v := enc 0x38000002 [(d.toNat, 20), (a.toNat, 14), (b.toNat, 8), (t.toNat, 5), (k.toNat, 4)]) rfl (by have := d.isLt; have := a.isLt; have := b.isLt; have := t.isLt; have := k.isLt; rw [enc_cons, enc_cons, enc_cons, enc_cons, enc_cons, enc_nil]; omega) rfl rfl
theorem vfmaw (d : BitVec 6) (a : BitVec 6) (b : BitVec 6) (t : BitVec 3) (k : BitVec 1) : Statement (.vfmaw d a b t k) := of_op (v := enc 0x38000003 [(d.toNat, 20), (a.toNat, 14), (b.toNat, 8), (t.toNat, 5), (k.toNat, 4)]) rfl (by have := d.isLt; have := a.isLt; have := b.isLt; have := t.isLt; have := k.isLt; rw [enc_cons, enc_cons, enc_cons, enc_cons, enc_cons, enc_nil]; omega) rfl rfl
theorem vmac (d : BitVec 6) (a : BitVec 6) (b : BitVec 6) (t : BitVec 3) (k : BitVec 1) : Statement (.vmac d a b t k) := of_op (v := enc 0x38000004 [(d.toNat, 20), (a.toNat, 14), (b.toNat, 8), (t.toNat, 5), (k.toNat, 4)]) rfl (by have := d.isLt; have := a.isLt; have := b.isLt; have := t.isLt; have := k.isLt; rw [enc_cons, enc_cons, enc_cons, enc_cons, enc_cons, enc_nil]; omega) rfl rfl
theorem vmacw (d : BitVec 6) (a : BitVec 6) (b : BitVec 6) (t : BitVec 3) (k : BitVec 1) : Statement (.vmacw d a b t k) := of_op (v := enc 0x38000005 [(d.toNat, 20), (a.toNat, 14), (b.toNat, 8), (t.toNat, 5), (k.toNat, 4)]) rfl (by have := d.isLt; have := a.isLt; have := b.isLt; have := t.isLt; have := k.isLt; rw [enc_cons, enc_cons, enc_cons, enc_cons, enc_cons, enc_nil]; omega) rfl rfl
theorem vcvt (d : BitVec 6) (a : BitVec 6) (r : BitVec 3) (x : BitVec 1) (m : BitVec 2) (c : BitVec 3) (e : BitVec 3) (l : BitVec 2) : Statement (.vcvt d a r x m c e l) := of_op (v := enc 0x3c000000 [(d.toNat, 20), (a.toNat, 14), (r.toNat, 11), (x.toNat, 10), (m.toNat, 8), (c.toNat, 5), (e.toNat, 2), (l.toNat, 0)]) rfl (by have := d.isLt; have := a.isLt; have := r.isLt; have := x.isLt; have := m.isLt; have := c.isLt; have := e.isLt; have := l.isLt; rw [enc_cons, enc_cons, enc_cons, enc_cons, enc_cons, enc_cons, enc_cons, enc_cons, enc_nil]; omega) rfl rfl
theorem vgf2mm (d : BitVec 6) (a : BitVec 6) (b : BitVec 6) : Statement (.vgf2mm d a b) := of_op (v := enc 0x40000000 [(d.toNat, 20), (a.toNat, 14), (b.toNat, 8)]) rfl (by have := d.isLt; have := a.isLt; have := b.isLt; rw [enc_cons, enc_cons, enc_cons, enc_nil]; omega) rfl rfl
theorem vpdep (d : BitVec 6) (a : BitVec 6) (b : BitVec 6) : Statement (.vpdep d a b) := of_op (v := enc 0x40000001 [(d.toNat, 20), (a.toNat, 14), (b.toNat, 8)]) rfl (by have := d.isLt; have := a.isLt; have := b.isLt; rw [enc_cons, enc_cons, enc_cons, enc_nil]; omega) rfl rfl
theorem vpext (d : BitVec 6) (a : BitVec 6) (b : BitVec 6) : Statement (.vpext d a b) := of_op (v := enc 0x40000002 [(d.toNat, 20), (a.toNat, 14), (b.toNat, 8)]) rfl (by have := d.isLt; have := a.isLt; have := b.isLt; rw [enc_cons, enc_cons, enc_cons, enc_nil]; omega) rfl rfl
theorem vbperm (d : BitVec 6) (a : BitVec 6) (b : BitVec 6) : Statement (.vbperm d a b) := of_op (v := enc 0x40000003 [(d.toNat, 20), (a.toNat, 14), (b.toNat, 8)]) rfl (by have := d.isLt; have := a.isLt; have := b.isLt; rw [enc_cons, enc_cons, enc_cons, enc_nil]; omega) rfl rfl
theorem vpopc (d : BitVec 6) (a : BitVec 6) : Statement (.vpopc d a) := of_op (v := enc 0x40000004 [(d.toNat, 20), (a.toNat, 14)]) rfl (by have := d.isLt; have := a.isLt; rw [enc_cons, enc_cons, enc_nil]; omega) rfl rfl
theorem vperm (d : BitVec 6) (a : BitVec 6) (b : BitVec 6) (w : BitVec 3) : Statement (.vperm d a b w) := of_op (v := enc 0x44000000 [(d.toNat, 20), (a.toNat, 14), (b.toNat, 8), (w.toNat, 5)]) rfl (by have := d.isLt; have := a.isLt; have := b.isLt; have := w.isLt; rw [enc_cons, enc_cons, enc_cons, enc_cons, enc_nil]; omega) rfl rfl
theorem vbcast (d : BitVec 6) (b : BitVec 5) (w : BitVec 3) : Statement (.vbcast d b w) := of_op (v := enc 0x44000001 [(d.toNat, 20), (b.toNat, 8), (w.toNat, 5)]) rfl (by have := d.isLt; have := b.isLt; have := w.isLt; rw [enc_cons, enc_cons, enc_cons, enc_nil]; omega) rfl rfl
theorem vbcaste (d : BitVec 6) (a : BitVec 6) (b : BitVec 5) (w : BitVec 3) : Statement (.vbcaste d a b w) := of_op (v := enc 0x44000002 [(d.toNat, 20), (a.toNat, 14), (b.toNat, 8), (w.toNat, 5)]) rfl (by have := d.isLt; have := a.isLt; have := b.isLt; have := w.isLt; rw [enc_cons, enc_cons, enc_cons, enc_cons, enc_nil]; omega) rfl rfl
theorem vslideup (d : BitVec 6) (a : BitVec 6) (b : BitVec 5) (w : BitVec 3) : Statement (.vslideup d a b w) := of_op (v := enc 0x44000003 [(d.toNat, 20), (a.toNat, 14), (b.toNat, 8), (w.toNat, 5)]) rfl (by have := d.isLt; have := a.isLt; have := b.isLt; have := w.isLt; rw [enc_cons, enc_cons, enc_cons, enc_cons, enc_nil]; omega) rfl rfl
theorem vslidedn (d : BitVec 6) (a : BitVec 6) (b : BitVec 5) (w : BitVec 3) : Statement (.vslidedn d a b w) := of_op (v := enc 0x44000004 [(d.toNat, 20), (a.toNat, 14), (b.toNat, 8), (w.toNat, 5)]) rfl (by have := d.isLt; have := a.isLt; have := b.isLt; have := w.isLt; rw [enc_cons, enc_cons, enc_cons, enc_cons, enc_nil]; omega) rfl rfl
theorem vins (d : BitVec 6) (a : BitVec 5) (b : BitVec 5) (w : BitVec 3) : Statement (.vins d a b w) := of_op (v := enc 0x44000005 [(d.toNat, 20), (a.toNat, 14), (b.toNat, 8), (w.toNat, 5)]) rfl (by have := d.isLt; have := a.isLt; have := b.isLt; have := w.isLt; rw [enc_cons, enc_cons, enc_cons, enc_cons, enc_nil]; omega) rfl rfl
theorem vext (d : BitVec 5) (a : BitVec 6) (b : BitVec 5) (w : BitVec 3) : Statement (.vext d a b w) := of_op (v := enc 0x44000006 [(d.toNat, 20), (a.toNat, 14), (b.toNat, 8), (w.toNat, 5)]) rfl (by have := d.isLt; have := a.isLt; have := b.isLt; have := w.isLt; rw [enc_cons, enc_cons, enc_cons, enc_cons, enc_nil]; omega) rfl rfl
theorem vilv (d : BitVec 6) (a : BitVec 6) (b : BitVec 6) (w : BitVec 3) : Statement (.vilv d a b w) := of_op (v := enc 0x44000007 [(d.toNat, 20), (a.toNat, 14), (b.toNat, 8), (w.toNat, 5)]) rfl (by have := d.isLt; have := a.isLt; have := b.isLt; have := w.isLt; rw [enc_cons, enc_cons, enc_cons, enc_cons, enc_nil]; omega) rfl rfl
theorem vdilv (d : BitVec 6) (a : BitVec 6) (b : BitVec 6) (w : BitVec 3) : Statement (.vdilv d a b w) := of_op (v := enc 0x44000008 [(d.toNat, 20), (a.toNat, 14), (b.toNat, 8), (w.toNat, 5)]) rfl (by have := d.isLt; have := a.isLt; have := b.isLt; have := w.isLt; rw [enc_cons, enc_cons, enc_cons, enc_cons, enc_nil]; omega) rfl rfl
theorem vredsum (d : BitVec 5) (a : BitVec 6) (t : BitVec 3) : Statement (.vredsum d a t) := of_op (v := enc 0x48000000 [(d.toNat, 20), (a.toNat, 14), (t.toNat, 5)]) rfl (by have := d.isLt; have := a.isLt; have := t.isLt; rw [enc_cons, enc_cons, enc_cons, enc_nil]; omega) rfl rfl
theorem vredmin (d : BitVec 5) (a : BitVec 6) (t : BitVec 3) : Statement (.vredmin d a t) := of_op (v := enc 0x48000001 [(d.toNat, 20), (a.toNat, 14), (t.toNat, 5)]) rfl (by have := d.isLt; have := a.isLt; have := t.isLt; rw [enc_cons, enc_cons, enc_cons, enc_nil]; omega) rfl rfl
theorem vredmax (d : BitVec 5) (a : BitVec 6) (t : BitVec 3) : Statement (.vredmax d a t) := of_op (v := enc 0x48000002 [(d.toNat, 20), (a.toNat, 14), (t.toNat, 5)]) rfl (by have := d.isLt; have := a.isLt; have := t.isLt; rw [enc_cons, enc_cons, enc_cons, enc_nil]; omega) rfl rfl
theorem vredand (d : BitVec 5) (a : BitVec 6) (t : BitVec 3) : Statement (.vredand d a t) := of_op (v := enc 0x48000003 [(d.toNat, 20), (a.toNat, 14), (t.toNat, 5)]) rfl (by have := d.isLt; have := a.isLt; have := t.isLt; rw [enc_cons, enc_cons, enc_cons, enc_nil]; omega) rfl rfl
theorem vredor (d : BitVec 5) (a : BitVec 6) (t : BitVec 3) : Statement (.vredor d a t) := of_op (v := enc 0x48000004 [(d.toNat, 20), (a.toNat, 14), (t.toNat, 5)]) rfl (by have := d.isLt; have := a.isLt; have := t.isLt; rw [enc_cons, enc_cons, enc_cons, enc_nil]; omega) rfl rfl
theorem vredxor (d : BitVec 5) (a : BitVec 6) (t : BitVec 3) : Statement (.vredxor d a t) := of_op (v := enc 0x48000005 [(d.toNat, 20), (a.toNat, 14), (t.toNat, 5)]) rfl (by have := d.isLt; have := a.isLt; have := t.isLt; rw [enc_cons, enc_cons, enc_cons, enc_nil]; omega) rfl rfl
theorem vfredsum (d : BitVec 5) (a : BitVec 6) (t : BitVec 3) : Statement (.vfredsum d a t) := of_op (v := enc 0x48000008 [(d.toNat, 20), (a.toNat, 14), (t.toNat, 5)]) rfl (by have := d.isLt; have := a.isLt; have := t.isLt; rw [enc_cons, enc_cons, enc_cons, enc_nil]; omega) rfl rfl
theorem vfredmin (d : BitVec 5) (a : BitVec 6) (t : BitVec 3) : Statement (.vfredmin d a t) := of_op (v := enc 0x48000009 [(d.toNat, 20), (a.toNat, 14), (t.toNat, 5)]) rfl (by have := d.isLt; have := a.isLt; have := t.isLt; rw [enc_cons, enc_cons, enc_cons, enc_nil]; omega) rfl rfl
theorem vfredmax (d : BitVec 5) (a : BitVec 6) (t : BitVec 3) : Statement (.vfredmax d a t) := of_op (v := enc 0x4800000a [(d.toNat, 20), (a.toNat, 14), (t.toNat, 5)]) rfl (by have := d.isLt; have := a.isLt; have := t.isLt; rw [enc_cons, enc_cons, enc_cons, enc_nil]; omega) rfl rfl
theorem vfredmaxa (d : BitVec 5) (a : BitVec 6) (t : BitVec 3) : Statement (.vfredmaxa d a t) := of_op (v := enc 0x4800000b [(d.toNat, 20), (a.toNat, 14), (t.toNat, 5)]) rfl (by have := d.isLt; have := a.isLt; have := t.isLt; rw [enc_cons, enc_cons, enc_cons, enc_nil]; omega) rfl rfl
theorem qsinit (a : BitVec 5) (b : BitVec 5) : Statement (.qsinit a b) := of_op (v := enc 0x4c000000 [(a.toNat, 20), (b.toNat, 9)]) rfl (by have := a.isLt; have := b.isLt; rw [enc_cons, enc_cons, enc_nil]; omega) rfl rfl
theorem hhinit (b : BitVec 5) : Statement (.hhinit b) := of_op (v := enc 0x4c000001 [(b.toNat, 9)]) rfl (by have := b.isLt; rw [enc_cons, enc_nil]; omega) rfl rfl
theorem dcinit (a : BitVec 5) (b : BitVec 5) : Statement (.dcinit a b) := of_op (v := enc 0x4c000002 [(a.toNat, 20), (b.toNat, 9)]) rfl (by have := a.isLt; have := b.isLt; rw [enc_cons, enc_cons, enc_nil]; omega) rfl rfl
theorem qsadd (a : BitVec 6) (b : BitVec 5) (t : BitVec 3) : Statement (.qsadd a b t) := of_op (v := enc 0x4c000004 [(a.toNat, 14), (b.toNat, 9), (t.toNat, 6)]) rfl (by have := a.isLt; have := b.isLt; have := t.isLt; rw [enc_cons, enc_cons, enc_cons, enc_nil]; omega) rfl rfl
theorem hhadd (a : BitVec 6) (b : BitVec 5) (t : BitVec 3) : Statement (.hhadd a b t) := of_op (v := enc 0x4c000005 [(a.toNat, 14), (b.toNat, 9), (t.toNat, 6)]) rfl (by have := a.isLt; have := b.isLt; have := t.isLt; rw [enc_cons, enc_cons, enc_cons, enc_nil]; omega) rfl rfl
theorem hhaddw (w : BitVec 6) (a : BitVec 6) (b : BitVec 5) : Statement (.hhaddw w a b) := of_op (v := enc 0x4c000146 [(w.toNat, 20), (a.toNat, 14), (b.toNat, 9)]) rfl (by have := w.isLt; have := a.isLt; have := b.isLt; rw [enc_cons, enc_cons, enc_cons, enc_nil]; omega) rfl rfl
theorem dcadd (a : BitVec 6) (b : BitVec 5) (t : BitVec 3) : Statement (.dcadd a b t) := of_op (v := enc 0x4c000007 [(a.toNat, 14), (b.toNat, 9), (t.toNat, 6)]) rfl (by have := a.isLt; have := b.isLt; have := t.isLt; rw [enc_cons, enc_cons, enc_cons, enc_nil]; omega) rfl rfl
theorem qsmrg (a : BitVec 5) (b : BitVec 5) : Statement (.qsmrg a b) := of_op (v := enc 0x4c000008 [(a.toNat, 20), (b.toNat, 9)]) rfl (by have := a.isLt; have := b.isLt; rw [enc_cons, enc_cons, enc_nil]; omega) rfl rfl
theorem hhmrg (a : BitVec 5) (b : BitVec 5) : Statement (.hhmrg a b) := of_op (v := enc 0x4c000009 [(a.toNat, 20), (b.toNat, 9)]) rfl (by have := a.isLt; have := b.isLt; rw [enc_cons, enc_cons, enc_nil]; omega) rfl rfl
theorem dcmrg (a : BitVec 5) (b : BitVec 5) : Statement (.dcmrg a b) := of_op (v := enc 0x4c00000a [(a.toNat, 20), (b.toNat, 9)]) rfl (by have := a.isLt; have := b.isLt; rw [enc_cons, enc_cons, enc_nil]; omega) rfl rfl
theorem qsquant (d : BitVec 5) (a : BitVec 5) (b : BitVec 5) : Statement (.qsquant d a b) := of_op (v := enc 0x4c00000c [(d.toNat, 20), (a.toNat, 14), (b.toNat, 9)]) rfl (by have := d.isLt; have := a.isLt; have := b.isLt; rw [enc_cons, enc_cons, enc_cons, enc_nil]; omega) rfl rfl
theorem hhtop (d : BitVec 6) (a : BitVec 5) (b : BitVec 5) : Statement (.hhtop d a b) := of_op (v := enc 0x4c00000d [(d.toNat, 20), (a.toNat, 14), (b.toNat, 9)]) rfl (by have := d.isLt; have := a.isLt; have := b.isLt; rw [enc_cons, enc_cons, enc_cons, enc_nil]; omega) rfl rfl
theorem dcest (d : BitVec 5) (b : BitVec 5) : Statement (.dcest d b) := of_op (v := enc 0x4c00000e [(d.toNat, 20), (b.toNat, 9)]) rfl (by have := d.isLt; have := b.isLt; rw [enc_cons, enc_cons, enc_nil]; omega) rfl rfl
theorem summaryResultLanding : Statement .summaryResultLanding := of_event rfl rfl rfl
theorem vld (d : BitVec 6) (a : BitVec 5) (c : BitVec 2) (i : BitVec 9) : Statement (.vld d a c i) := of_op (v := enc 0x50000000 [(d.toNat, 20), (a.toNat, 15), (c.toNat, 12), (i.toNat, 0)]) rfl (by have := d.isLt; have := a.isLt; have := c.isLt; have := i.isLt; rw [enc_cons, enc_cons, enc_cons, enc_cons, enc_nil]; omega) rfl rfl
theorem vldB (d : BitVec 6) (a : BitVec 5) (c : BitVec 2) (z : BitVec 3) (i : BitVec 9) : Statement (.vldB d a c z i) := of_op (v := enc 0x50000000 [(d.toNat, 20), (a.toNat, 15), (c.toNat, 12), (z.toNat, 9), (i.toNat, 0)]) rfl (by have := d.isLt; have := a.isLt; have := c.isLt; have := z.isLt; have := i.isLt; rw [enc_cons, enc_cons, enc_cons, enc_cons, enc_cons, enc_nil]; omega) rfl rfl
theorem vst (t : BitVec 6) (a : BitVec 5) (c : BitVec 2) (i : BitVec 9) : Statement (.vst t a c i) := of_op (v := enc 0x54000000 [(t.toNat, 20), (a.toNat, 15), (c.toNat, 12), (i.toNat, 0)]) rfl (by have := t.isLt; have := a.isLt; have := c.isLt; have := i.isLt; rw [enc_cons, enc_cons, enc_cons, enc_cons, enc_nil]; omega) rfl rfl
theorem vldg (d : BitVec 6) (a : BitVec 5) (c : BitVec 2) (i : BitVec 9) : Statement (.vldg d a c i) := of_op (v := enc 0x50004000 [(d.toNat, 20), (a.toNat, 15), (c.toNat, 12), (i.toNat, 0)]) rfl (by have := d.isLt; have := a.isLt; have := c.isLt; have := i.isLt; rw [enc_cons, enc_cons, enc_cons, enc_cons, enc_nil]; omega) rfl rfl
theorem vldgB (d : BitVec 6) (a : BitVec 5) (c : BitVec 2) (z : BitVec 3) (i : BitVec 9) : Statement (.vldgB d a c z i) := of_op (v := enc 0x50004000 [(d.toNat, 20), (a.toNat, 15), (c.toNat, 12), (z.toNat, 9), (i.toNat, 0)]) rfl (by have := d.isLt; have := a.isLt; have := c.isLt; have := z.isLt; have := i.isLt; rw [enc_cons, enc_cons, enc_cons, enc_cons, enc_cons, enc_nil]; omega) rfl rfl
theorem vstg (t : BitVec 6) (a : BitVec 5) (i : BitVec 9) : Statement (.vstg t a i) := of_op (v := enc 0x54004000 [(t.toNat, 20), (a.toNat, 15), (i.toNat, 0)]) rfl (by have := t.isLt; have := a.isLt; have := i.isLt; rw [enc_cons, enc_cons, enc_cons, enc_nil]; omega) rfl rfl
theorem vgath (d : BitVec 6) (a : BitVec 5) (c : BitVec 2) (z : BitVec 3) (v : BitVec 6) : Statement (.vgath d a c z v) := of_op (v := enc 0x58000000 [(d.toNat, 20), (a.toNat, 15), (c.toNat, 12), (z.toNat, 9), (v.toNat, 3)]) rfl (by have := d.isLt; have := a.isLt; have := c.isLt; have := z.isLt; have := v.isLt; rw [enc_cons, enc_cons, enc_cons, enc_cons, enc_cons, enc_nil]; omega) rfl rfl
theorem vscat (t : BitVec 6) (a : BitVec 5) (c : BitVec 2) (z : BitVec 3) (v : BitVec 6) : Statement (.vscat t a c z v) := of_op (v := enc 0x58000000 [(t.toNat, 20), (a.toNat, 15), (c.toNat, 12), (z.toNat, 9), (v.toNat, 3)]) rfl (by have := t.isLt; have := a.isLt; have := c.isLt; have := z.isLt; have := v.isLt; rw [enc_cons, enc_cons, enc_cons, enc_cons, enc_cons, enc_nil]; omega) rfl rfl
theorem vgathg (d : BitVec 6) (a : BitVec 5) (c : BitVec 2) (z : BitVec 3) (v : BitVec 6) : Statement (.vgathg d a c z v) := of_op (v := enc 0x58004000 [(d.toNat, 20), (a.toNat, 15), (c.toNat, 12), (z.toNat, 9), (v.toNat, 3)]) rfl (by have := d.isLt; have := a.isLt; have := c.isLt; have := z.isLt; have := v.isLt; rw [enc_cons, enc_cons, enc_cons, enc_cons, enc_cons, enc_nil]; omega) rfl rfl
theorem vscatg (t : BitVec 6) (a : BitVec 5) (z : BitVec 3) (v : BitVec 6) : Statement (.vscatg t a z v) := of_op (v := enc 0x58004000 [(t.toNat, 20), (a.toNat, 15), (z.toNat, 9), (v.toNat, 3)]) rfl (by have := t.isLt; have := a.isLt; have := z.isLt; have := v.isLt; rw [enc_cons, enc_cons, enc_cons, enc_cons, enc_nil]; omega) rfl rfl
theorem resultLanding : Statement .resultLanding := of_event rfl rfl rfl
theorem storeEffect : Statement .storeEffect := of_event rfl rfl rfl
theorem globalLoadReply (k : Nat) : Statement (.globalLoadReply k) := of_event rfl rfl rfl
theorem translationReply : Statement .translationReply := of_event rfl rfl rfl
theorem invalidation (fn : BitVec 5) (va : BitVec 64) (psz : BitVec 2) : Statement (.invalidation fn va psz) := of_event rfl rfl rfl
theorem invalidationComplete (fn : BitVec 5) (va : BitVec 64) (psz : BitVec 2) : Statement (.invalidationComplete fn va psz) := of_event rfl rfl rfl
theorem mxcall (a : BitVec 5) (b : BitVec 5) (n : BitVec 8) : Statement (.mxcall a b n) := of_op (v := enc 0x5c000000 [(a.toNat, 21), (b.toNat, 16), (n.toNat, 0)]) rfl (by have := a.isLt; have := b.isLt; have := n.isLt; rw [enc_cons, enc_cons, enc_cons, enc_nil]; omega) rfl rfl
theorem mxparm (a : BitVec 5) (n : BitVec 3) : Statement (.mxparm a n) := of_op (v := enc 0x5c000100 [(a.toNat, 21), (n.toNat, 0)]) rfl (by have := a.isLt; have := n.isLt; rw [enc_cons, enc_cons, enc_nil]; omega) rfl rfl
theorem mxrcfg (a : BitVec 5) (b : BitVec 5) (r : BitVec 4) : Statement (.mxrcfg a b r) := of_op (v := enc 0x5c000200 [(a.toNat, 21), (b.toNat, 16), (r.toNat, 0)]) rfl (by have := a.isLt; have := b.isLt; have := r.isLt; rw [enc_cons, enc_cons, enc_cons, enc_nil]; omega) rfl rfl
theorem mxrpush (a : BitVec 5) (r : BitVec 4) : Statement (.mxrpush a r) := of_op (v := enc 0x5c000300 [(a.toNat, 21), (r.toNat, 0)]) rfl (by have := a.isLt; have := r.isLt; rw [enc_cons, enc_cons, enc_nil]; omega) rfl rfl
theorem mxrstat (d : BitVec 5) (r : BitVec 4) : Statement (.mxrstat d r) := of_op (v := enc 0x5c000400 [(d.toNat, 21), (r.toNat, 0)]) rfl (by have := d.isLt; have := r.isLt; rw [enc_cons, enc_cons, enc_nil]; omega) rfl rfl
theorem mxrda (a : BitVec 5) (q : BitVec 2) (d : BitVec 6) : Statement (.mxrda a q d) := of_op (v := enc 0x5c000500 [(a.toNat, 21), (q.toNat, 6), (d.toNat, 0)]) rfl (by have := a.isLt; have := q.isLt; have := d.isLt; rw [enc_cons, enc_cons, enc_cons, enc_nil]; omega) rfl rfl
theorem mxwra (a : BitVec 5) (q : BitVec 2) (v : BitVec 6) : Statement (.mxwra a q v) := of_op (v := enc 0x5c000600 [(a.toNat, 21), (q.toNat, 6), (v.toNat, 0)]) rfl (by have := a.isLt; have := q.isLt; have := v.isLt; rw [enc_cons, enc_cons, enc_cons, enc_nil]; omega) rfl rfl
theorem mxdset (m : BitVec 8) : Statement (.mxdset m) := of_op (v := enc 0x5c000700 [(m.toNat, 0)]) rfl (by have := m.isLt; rw [enc_cons, enc_nil]; omega) rfl rfl
theorem mxdclr (m : BitVec 8) : Statement (.mxdclr m) := of_op (v := enc 0x5c000800 [(m.toNat, 0)]) rfl (by have := m.isLt; rw [enc_cons, enc_nil]; omega) rfl rfl
theorem mxdrd (d : BitVec 5) : Statement (.mxdrd d) := of_op (v := enc 0x5c000900 [(d.toNat, 21)]) rfl (by have := d.isLt; rw [enc_cons, enc_nil]; omega) rfl rfl
theorem mxuld (a : BitVec 5) (b : BitVec 5) : Statement (.mxuld a b) := of_op (v := enc 0x5c000a00 [(a.toNat, 21), (b.toNat, 16)]) rfl (by have := a.isLt; have := b.isLt; rw [enc_cons, enc_cons, enc_nil]; omega) rfl rfl
theorem routineStart : Statement .routineStart := of_event rfl rfl rfl
theorem mend : Statement .mend := of_micro (v := enc 0 [(0, 59)]) rfl (by  rw [enc_cons, enc_nil]; omega) rfl rfl
theorem mpass (ra : BitVec 4) (rb : BitVec 4) (xc : BitVec 3) (xp : BitVec 3) (xq : BitVec 3) (fmt : BitVec 4) (ck : BitVec 1) (za : BitVec 1) : Statement (.mpass ra rb xc xp xq fmt ck za) := of_micro (v := enc 0 [(1, 59), (ra.toNat, 55), (rb.toNat, 51), (xc.toNat, 48), (xp.toNat, 45), (xq.toNat, 42), (fmt.toNat, 38), (ck.toNat, 37), (za.toNat, 36)]) rfl (by have := ra.isLt; have := rb.isLt; have := xc.isLt; have := xp.isLt; have := xq.isLt; have := fmt.isLt; have := ck.isLt; have := za.isLt; rw [enc_cons, enc_cons, enc_cons, enc_cons, enc_cons, enc_cons, enc_cons, enc_cons, enc_cons, enc_nil]; omega) rfl rfl
theorem mscale (ra : BitVec 4) (rb : BitVec 4) (xc : BitVec 3) (xp : BitVec 3) (xq : BitVec 3) (fmt : BitVec 4) (za : BitVec 1) : Statement (.mscale ra rb xc xp xq fmt za) := of_micro (v := enc 0 [(2, 59), (ra.toNat, 55), (rb.toNat, 51), (xc.toNat, 48), (xp.toNat, 45), (xq.toNat, 42), (fmt.toNat, 38), (za.toNat, 36)]) rfl (by have := ra.isLt; have := rb.isLt; have := xc.isLt; have := xp.isLt; have := xq.isLt; have := fmt.isLt; have := za.isLt; rw [enc_cons, enc_cons, enc_cons, enc_cons, enc_cons, enc_cons, enc_cons, enc_cons, enc_nil]; omega) rfl rfl
theorem mzero (xc : BitVec 3) : Statement (.mzero xc) := of_micro (v := enc 0 [(3, 59), (xc.toNat, 48)]) rfl (by have := xc.isLt; rw [enc_cons, enc_cons, enc_nil]; omega) rfl rfl
theorem mout (xc : BitVec 3) (xq : BitVec 3) (fmt : BitVec 4) (sat : BitVec 1) (rm : BitVec 3) (mpr : BitVec 3) : Statement (.mout xc xq fmt sat rm mpr) := of_micro (v := enc 0 [(4, 59), (xc.toNat, 48), (xq.toNat, 42), (fmt.toNat, 38), (sat.toNat, 35), (rm.toNat, 32), (mpr.toNat, 29)]) rfl (by have := xc.isLt; have := xq.isLt; have := fmt.isLt; have := sat.isLt; have := rm.isLt; have := mpr.isLt; rw [enc_cons, enc_cons, enc_cons, enc_cons, enc_cons, enc_cons, enc_cons, enc_nil]; omega) rfl rfl
theorem mckz (xc : BitVec 3) : Statement (.mckz xc) := of_micro (v := enc 0 [(5, 59), (xc.toNat, 48)]) rfl (by have := xc.isLt; rw [enc_cons, enc_cons, enc_nil]; omega) rfl rfl
theorem mckout (xc : BitVec 3) (xq : BitVec 3) (mpr : BitVec 3) : Statement (.mckout xc xq mpr) := of_micro (v := enc 0 [(6, 59), (xc.toNat, 48), (xq.toNat, 42), (mpr.toNat, 29)]) rfl (by have := xc.isLt; have := xq.isLt; have := mpr.isLt; rw [enc_cons, enc_cons, enc_cons, enc_cons, enc_nil]; omega) rfl rfl
theorem mpopMicroOp (ra : BitVec 4) : Statement (.mpopMicroOp ra) := of_micro (v := enc 0 [(7, 59), (ra.toNat, 55)]) rfl (by have := ra.isLt; rw [enc_cons, enc_cons, enc_nil]; omega) rfl rfl
theorem macc (xc : BitVec 3) (xp : BitVec 3) : Statement (.macc xc xp) := of_micro (v := enc 0 [(8, 59), (xc.toNat, 48), (xp.toNat, 45)]) rfl (by have := xc.isLt; have := xp.isLt; rw [enc_cons, enc_cons, enc_cons, enc_nil]; omega) rfl rfl
theorem midle (imm : BitVec 16) : Statement (.midle imm) := of_micro (v := enc 0 [(9, 59), (imm.toNat, 0)]) rfl (by have := imm.isLt; rw [enc_cons, enc_cons, enc_nil]; omega) rfl rfl
theorem mldi (xc : BitVec 3) (sel : BitVec 1) (mpr : BitVec 3) (mpf : BitVec 2) (imm : BitVec 16) : Statement (.mldi xc sel mpr mpf imm) := of_micro (v := enc 0 [(10, 59), (xc.toNat, 48), (sel.toNat, 26), (mpr.toNat, 29), (mpf.toNat, 27), (imm.toNat, 0)]) rfl (by have := xc.isLt; have := sel.isLt; have := mpr.isLt; have := mpf.isLt; have := imm.isLt; rw [enc_cons, enc_cons, enc_cons, enc_cons, enc_cons, enc_cons, enc_nil]; omega) rfl rfl
theorem maddi (xc : BitVec 3) (imm : BitVec 16) : Statement (.maddi xc imm) := of_micro (v := enc 0 [(11, 59), (xc.toNat, 48), (imm.toNat, 0)]) rfl (by have := xc.isLt; have := imm.isLt; rw [enc_cons, enc_cons, enc_cons, enc_nil]; omega) rfl rfl
theorem mloop (xc : BitVec 3) : Statement (.mloop xc) := of_micro (v := enc 0 [(12, 59), (xc.toNat, 48)]) rfl (by have := xc.isLt; rw [enc_cons, enc_cons, enc_nil]; omega) rfl rfl
theorem mnext : Statement .mnext := of_micro (v := enc 0 [(13, 59)]) rfl (by  rw [enc_cons, enc_nil]; omega) rfl rfl
theorem ldgeom (a : BitVec 5) (n : BitVec 4) : Statement (.ldgeom a n) := of_op (v := enc 0x60000000 [(a.toNat, 21), (n.toNat, 0)]) rfl (by have := a.isLt; have := n.isLt; rw [enc_cons, enc_cons, enc_nil]; omega) rfl rfl
theorem stgeom (a : BitVec 5) (n : BitVec 4) : Statement (.stgeom a n) := of_op (v := enc 0x60000100 [(a.toNat, 21), (n.toNat, 0)]) rfl (by have := a.isLt; have := n.isLt; rw [enc_cons, enc_cons, enc_nil]; omega) rfl rfl
theorem cpyin (a : BitVec 5) (b : BitVec 5) (n : BitVec 4) (o : BitVec 4) : Statement (.cpyin a b n o) := of_op (v := enc 0x60000200 [(a.toNat, 21), (b.toNat, 16), (n.toNat, 4), (o.toNat, 0)]) rfl (by have := a.isLt; have := b.isLt; have := n.isLt; have := o.isLt; rw [enc_cons, enc_cons, enc_cons, enc_cons, enc_nil]; omega) rfl rfl
theorem cpyout (a : BitVec 5) (b : BitVec 5) (n : BitVec 4) : Statement (.cpyout a b n) := of_op (v := enc 0x60000300 [(a.toNat, 21), (b.toNat, 16), (n.toNat, 4)]) rfl (by have := a.isLt; have := b.isLt; have := n.isLt; rw [enc_cons, enc_cons, enc_cons, enc_nil]; omega) rfl rfl
theorem cpyloop (a : BitVec 5) (b : BitVec 5) (n : BitVec 4) : Statement (.cpyloop a b n) := of_op (v := enc 0x60000400 [(a.toNat, 21), (b.toNat, 16), (n.toNat, 4)]) rfl (by have := a.isLt; have := b.isLt; have := n.isLt; rw [enc_cons, enc_cons, enc_cons, enc_nil]; omega) rfl rfl
theorem wtagAll (a : BitVec 5) : Statement (.wtagAll a) := of_op (v := enc 0x60000500 [(a.toNat, 21)]) rfl (by have := a.isLt; rw [enc_cons, enc_nil]; omega) rfl rfl
theorem wtagAny (a : BitVec 5) : Statement (.wtagAny a) := of_op (v := enc 0x60000600 [(a.toNat, 21)]) rfl (by have := a.isLt; rw [enc_cons, enc_nil]; omega) rfl rfl
theorem ffr (a : BitVec 5) (d : BitVec 5) : Statement (.ffr a d) := of_op (v := enc 0x60000700 [(a.toNat, 21), (d.toNat, 0)]) rfl (by have := a.isLt; have := d.isLt; rw [enc_cons, enc_cons, enc_nil]; omega) rfl rfl
theorem tcnt (a : BitVec 5) (d : BitVec 5) : Statement (.tcnt a d) := of_op (v := enc 0x60000800 [(a.toNat, 21), (d.toNat, 0)]) rfl (by have := a.isLt; have := d.isLt; rw [enc_cons, enc_cons, enc_nil]; omega) rfl rfl
theorem localCopyBeat : Statement .localCopyBeat := of_event rfl rfl rfl
theorem taggedCopyCompletion (t : BitVec 6) : Statement (.taggedCopyCompletion t) := of_event rfl rfl rfl
theorem loopingIterationLanding (t : BitVec 6) : Statement (.loopingIterationLanding t) := of_event rfl rfl rfl
theorem coll (a : BitVec 5) (b : BitVec 5) (t : BitVec 6) : Statement (.coll a b t) := of_op (v := enc 0x64000000 [(a.toNat, 21), (b.toNat, 16), (t.toNat, 0)]) rfl (by have := a.isLt; have := b.isLt; have := t.isLt; rw [enc_cons, enc_cons, enc_cons, enc_nil]; omega) rfl rfl
theorem crank (d : BitVec 5) (b : BitVec 5) : Statement (.crank d b) := of_op (v := enc 0x64000100 [(d.toNat, 21), (b.toNat, 16)]) rfl (by have := d.isLt; have := b.isLt; rw [enc_cons, enc_cons, enc_nil]; omega) rfl rfl
theorem crankg (d : BitVec 5) (b : BitVec 5) : Statement (.crankg d b) := of_op (v := enc 0x64000180 [(d.toNat, 21), (b.toNat, 16)]) rfl (by have := d.isLt; have := b.isLt; rw [enc_cons, enc_cons, enc_nil]; omega) rfl rfl
theorem cplan (d : BitVec 5) : Statement (.cplan d) := of_op (v := enc 0x64000200 [(d.toNat, 21)]) rfl (by have := d.isLt; rw [enc_cons, enc_nil]; omega) rfl rfl
theorem walkerChunkRead (t : BitVec 6) : Statement (.walkerChunkRead t) := of_event rfl rfl rfl
theorem chunkArrival (c : ChunkSrc) : Statement (.chunkArrival c) := of_event rfl rfl rfl
theorem collectiveCompletion (t : BitVec 6) : Statement (.collectiveCompletion t) := of_event rfl rfl rfl
theorem send (a : BitVec 5) (x : BitVec 5) : Statement (.send a x) := of_op (v := enc 0x68000000 [(a.toNat, 21), (x.toNat, 0)]) rfl (by have := a.isLt; have := x.isLt; rw [enc_cons, enc_cons, enc_nil]; omega) rfl rfl
theorem sendv (a : BitVec 5) (v : BitVec 6) : Statement (.sendv a v) := of_op (v := enc 0x68000100 [(a.toNat, 21), (v.toNat, 0)]) rfl (by have := a.isLt; have := v.isLt; rw [enc_cons, enc_cons, enc_nil]; omega) rfl rfl
theorem recv (h : BitVec 4) (b : BitVec 5) (d : BitVec 5) : Statement (.recv h b d) := of_op (v := enc 0x68000200 [(h.toNat, 21), (b.toNat, 16), (d.toNat, 0)]) rfl (by have := h.isLt; have := b.isLt; have := d.isLt; rw [enc_cons, enc_cons, enc_cons, enc_nil]; omega) rfl rfl
theorem recvv (h : BitVec 4) (b : BitVec 5) (d : BitVec 6) : Statement (.recvv h b d) := of_op (v := enc 0x68000300 [(h.toNat, 21), (b.toNat, 16), (d.toNat, 0)]) rfl (by have := h.isLt; have := b.isLt; have := d.isLt; rw [enc_cons, enc_cons, enc_cons, enc_nil]; omega) rfl rfl
theorem arrive (c : BitVec 3) : Statement (.arrive c) := of_op (v := enc 0x68000400 [(c.toNat, 0)]) rfl (by have := c.isLt; rw [enc_cons, enc_nil]; omega) rfl rfl
theorem wait (c : BitVec 3) : Statement (.wait c) := of_op (v := enc 0x68000500 [(c.toNat, 0)]) rfl (by have := c.isLt; rw [enc_cons, enc_nil]; omega) rfl rfl
theorem nstv (a : BitVec 5) (m : BitVec 2) (v : BitVec 6) : Statement (.nstv a m v) := of_op (v := enc 0x68000600 [(a.toNat, 21), (m.toNat, 16), (v.toNat, 0)]) rfl (by have := a.isLt; have := m.isLt; have := v.isLt; rw [enc_cons, enc_cons, enc_cons, enc_nil]; omega) rfl rfl
theorem messageArrival (ch : BitVec 4) (k : Nat) : Statement (.messageArrival ch k) := of_event rfl rfl rfl
theorem barrierGenerationComplete (scope : BitVec 3) (key : Nat) : Statement (.barrierGenerationComplete scope key) := of_event rfl rfl rfl
theorem pcfg (a : BitVec 5) (b : BitVec 5) : Statement (.pcfg a b) := of_op (v := enc 0x6c000000 [(a.toNat, 21), (b.toNat, 16)]) rfl (by have := a.isLt; have := b.isLt; rw [enc_cons, enc_cons, enc_nil]; omega) rfl rfl
theorem probe (d : BitVec 5) (b : BitVec 5) (p : BitVec 4) : Statement (.probe d b p) := of_op (v := enc 0x6c000100 [(d.toNat, 21), (b.toNat, 16), (p.toNat, 0)]) rfl (by have := d.isLt; have := b.isLt; have := p.isLt; rw [enc_cons, enc_cons, enc_cons, enc_nil]; omega) rfl rfl
theorem plook (d : BitVec 5) (b : BitVec 5) (p : BitVec 4) : Statement (.plook d b p) := of_op (v := enc 0x6c000200 [(d.toNat, 21), (b.toNat, 16), (p.toNat, 0)]) rfl (by have := d.isLt; have := b.isLt; have := p.isLt; rw [enc_cons, enc_cons, enc_cons, enc_nil]; omega) rfl rfl
theorem pinv (b : BitVec 5) : Statement (.pinv b) := of_op (v := enc 0x6c000300 [(b.toNat, 16)]) rfl (by have := b.isLt; rw [enc_cons, enc_nil]; omega) rfl rfl
theorem pinva : Statement .pinva := of_op (v := enc 0x6c000400 []) rfl (by decide) rfl rfl
theorem probeFillLanding (slot : Nat) : Statement (.probeFillLanding slot) := of_event rfl rfl rfl
theorem haulset (a : BitVec 5) (b : BitVec 5) (c : BitVec 5) : Statement (.haulset a b c) := of_op (v := enc 0x6c001000 [(a.toNat, 21), (b.toNat, 16), (c.toNat, 0)]) rfl (by have := a.isLt; have := b.isLt; have := c.isLt; rw [enc_cons, enc_cons, enc_cons, enc_nil]; omega) rfl rfl
theorem haulend : Statement .haulend := of_op (v := enc 0x6c001100 []) rfl (by decide) rfl rfl
theorem blaze (a : BitVec 5) : Statement (.blaze a) := of_op (v := enc 0x6c001200 [(a.toNat, 21)]) rfl (by have := a.isLt; rw [enc_cons, enc_nil]; omega) rfl rfl
theorem migrate (a : BitVec 5) (b : BitVec 5) (t : BitVec 6) : Statement (.migrate a b t) := of_op (v := enc 0x6c001300 [(a.toNat, 21), (b.toNat, 16), (t.toNat, 0)]) rfl (by have := a.isLt; have := b.isLt; have := t.isLt; rw [enc_cons, enc_cons, enc_cons, enc_nil]; omega) rfl rfl
theorem haulstat (d : BitVec 5) : Statement (.haulstat d) := of_op (v := enc 0x6c001400 [(d.toNat, 21)]) rfl (by have := d.isLt; rw [enc_cons, enc_nil]; omega) rfl rfl
theorem haulActionCompletion (idx : Nat) : Statement (.haulActionCompletion idx) := of_event rfl rfl rfl
theorem migrationInvalidated (t : BitVec 6) : Statement (.migrationInvalidated t) := of_event rfl rfl rfl
theorem migrationCopyDone (t : BitVec 6) : Statement (.migrationCopyDone t) := of_event rfl rfl rfl
theorem migrationComplete (t : BitVec 6) : Statement (.migrationComplete t) := of_event rfl rfl rfl
theorem tagset (a : BitVec 5) (b : BitVec 5) : Statement (.tagset a b) := of_op (v := enc 0x70000000 [(a.toNat, 21), (b.toNat, 16)]) rfl (by have := a.isLt; have := b.isLt; rw [enc_cons, enc_cons, enc_nil]; omega) rfl rfl
theorem tagsetz (a : BitVec 5) (b : BitVec 5) : Statement (.tagsetz a b) := of_op (v := enc 0x70000100 [(a.toNat, 21), (b.toNat, 16)]) rfl (by have := a.isLt; have := b.isLt; rw [enc_cons, enc_cons, enc_nil]; omega) rfl rfl
theorem tagget (a : BitVec 5) (d : BitVec 5) : Statement (.tagget a d) := of_op (v := enc 0x70000200 [(a.toNat, 21), (d.toNat, 0)]) rfl (by have := a.isLt; have := d.isLt; rw [enc_cons, enc_cons, enc_nil]; omega) rfl rfl
theorem dtrace (a : BitVec 5) : Statement (.dtrace a) := of_op (v := enc 0x74000000 [(a.toNat, 21)]) rfl (by have := a.isLt; rw [enc_cons, enc_nil]; omega) rfl rfl
theorem lpcrd (a : BitVec 5) (d : BitVec 5) : Statement (.lpcrd a d) := of_op (v := enc 0x74000100 [(a.toNat, 21), (d.toNat, 0)]) rfl (by have := a.isLt; have := d.isLt; rw [enc_cons, enc_cons, enc_nil]; omega) rfl rfl
theorem dinjA (a : BitVec 5) (b : BitVec 5) : Statement (.dinjA a b) := of_op (v := enc 0x74000200 [(a.toNat, 21), (b.toNat, 16)]) rfl (by have := a.isLt; have := b.isLt; rw [enc_cons, enc_cons, enc_nil]; omega) rfl rfl
theorem dinjM (a : BitVec 5) (b : BitVec 5) (m : BitVec 2) : Statement (.dinjM a b m) := of_op (v := enc 0x74000300 [(a.toNat, 21), (b.toNat, 16), (m.toNat, 0)]) rfl (by have := a.isLt; have := b.isLt; have := m.isLt; rw [enc_cons, enc_cons, enc_cons, enc_nil]; omega) rfl rfl
theorem dinjgM (a : BitVec 5) (b : BitVec 5) (m : BitVec 2) : Statement (.dinjgM a b m) := of_op (v := enc 0x74000304 [(a.toNat, 21), (b.toNat, 16), (m.toNat, 0)]) rfl (by have := a.isLt; have := b.isLt; have := m.isLt; rw [enc_cons, enc_cons, enc_cons, enc_nil]; omega) rfl rfl
theorem dbrk : Statement .dbrk := of_op (v := enc 0x74000400 []) rfl (by decide) rfl rfl
theorem traceSample : Statement .traceSample := of_event rfl rfl rfl
theorem preciseStop (code : BitVec 8) (sub : BitVec 16) : Statement (.preciseStop code sub) := of_event rfl rfl rfl
theorem streamCompletion : Statement .streamCompletion := of_event rfl rfl rfl
theorem phaseCommit (launch : LaunchId) (phase : BitVec 16) : Statement (.phaseCommit launch phase) := of_event rfl rfl rfl
theorem queueNop (q : BitVec 6) : Statement (.queueNop q) := of_entry (v := enc 0 []) rfl (by decide) rfl rfl
theorem launch (q : BitVec 6) (phase : BitVec 16) (desc : BitVec 64) (lid : BitVec 64) (argp : BitVec 64) : Statement (.launch q phase desc lid argp) := of_entry (v := enc 1 [(phase.toNat, 16), (desc.toNat, 64), (lid.toNat, 128), (argp.toNat, 192)]) rfl (by have := phase.isLt; have := desc.isLt; have := lid.isLt; have := argp.isLt; rw [enc_cons, enc_cons, enc_cons, enc_cons, enc_nil]; omega) rfl rfl
theorem phaseEnd (q : BitVec 6) (last : BitVec 1) : Statement (.phaseEnd q last) := of_entry (v := enc 2 [(last.toNat, 16)]) rfl (by have := last.isLt; rw [enc_cons, enc_nil]; omega) rfl rfl
theorem condSkip (q : BitVec 6) (cond : BitVec 3) (n : BitVec 32) (word : BitVec 64) (val : BitVec 64) (mask : BitVec 64) : Statement (.condSkip q cond n word val mask) := of_entry (v := enc 3 [(cond.toNat, 16), (n.toNat, 32), (word.toNat, 64), (val.toNat, 128), (mask.toNat, 192)]) rfl (by have := cond.isLt; have := n.isLt; have := word.isLt; have := val.isLt; have := mask.isLt; rw [enc_cons, enc_cons, enc_cons, enc_cons, enc_cons, enc_nil]; omega) rfl rfl
theorem jump (q : BitVec 6) (off : BitVec 64) : Statement (.jump q off) := of_entry (v := enc 4 [(off.toNat, 64)]) rfl (by have := off.isLt; rw [enc_cons, enc_nil]; omega) rfl rfl
theorem queueCall (q : BitVec 6) (sub : BitVec 64) : Statement (.queueCall q sub) := of_entry (v := enc 5 [(sub.toNat, 64)]) rfl (by have := sub.isLt; rw [enc_cons, enc_nil]; omega) rfl rfl
theorem queueReturn (q : BitVec 6) : Statement (.queueReturn q) := of_entry (v := enc 6 []) rfl (by decide) rfl rfl
theorem waitValue (q : BitVec 6) (cond : BitVec 3) (word : BitVec 64) (val : BitVec 64) (mask : BitVec 64) : Statement (.waitValue q cond word val mask) := of_entry (v := enc 7 [(cond.toNat, 16), (word.toNat, 64), (val.toNat, 128), (mask.toNat, 192)]) rfl (by have := cond.isLt; have := word.isLt; have := val.isLt; have := mask.isLt; rw [enc_cons, enc_cons, enc_cons, enc_cons, enc_nil]; omega) rfl rfl
theorem waitValueReread (q : BitVec 6) : Statement (.waitValueReread q) := of_event rfl rfl rfl
theorem writeValue (q : BitVec 6) (commit : BitVec 1) (notify : BitVec 1) (tag : BitVec 32) (word : BitVec 64) (val : BitVec 64) : Statement (.writeValue q commit notify tag word val) := of_entry (v := enc 8 [(commit.toNat, 16), (notify.toNat, 17), (tag.toNat, 32), (word.toNat, 64), (val.toNat, 128)]) rfl (by have := commit.isLt; have := notify.isLt; have := tag.isLt; have := word.isLt; have := val.isLt; rw [enc_cons, enc_cons, enc_cons, enc_cons, enc_cons, enc_nil]; omega) rfl rfl
theorem checkpoint (q : BitVec 6) (point : BitVec 32) (list : BitVec 64) : Statement (.checkpoint q point list) := of_entry (v := enc 9 [(point.toNat, 32), (list.toNat, 64)]) rfl (by have := point.isLt; have := list.isLt; rw [enc_cons, enc_cons, enc_nil]; omega) rfl rfl
theorem checkpointCopiesDone (q : BitVec 6) (failed : BitVec 1) : Statement (.checkpointCopiesDone q failed) := of_event rfl rfl rfl
theorem digest (q : BitVec 6) (list : BitVec 64) (result : BitVec 64) : Statement (.digest q list result) := of_entry (v := enc 10 [(list.toNat, 64), (result.toNat, 128)]) rfl (by have := list.isLt; have := result.isLt; rw [enc_cons, enc_cons, enc_nil]; omega) rfl rfl
theorem tail (block : BlockAt) (v : BitVec 64) : Statement (.tail block v) := of_event rfl rfl rfl
theorem rst (block : BlockAt) : Statement (.rst block) := of_event rfl rfl rfl
theorem registerWrite (reg : HostReg) (v : BitVec 64) : Statement (.registerWrite reg v) := of_event rfl rfl rfl
theorem write (die : BitVec 2) (slot : BitVec 6) (rcd : BitVec 1024) (plan : List (BitVec 192)) : Statement (.write die slot rcd plan) := of_event rfl rfl rfl
theorem arm (die : BitVec 2) (slot : BitVec 6) (rcd : BitVec 1024) (plan : List (BitVec 192)) : Statement (.arm die slot rcd plan) := of_event rfl rfl rfl
theorem disarm (die : BitVec 2) (slot : BitVec 6) : Statement (.disarm die slot) := of_event rfl rfl rfl
theorem stop (die : BitVec 2) (slot : BitVec 6) : Statement (.stop die slot) := of_event rfl rfl rfl
theorem resume (die : BitVec 2) (slot : BitVec 6) (corner : Option (BitVec 6)) : Statement (.resume die slot corner) := of_event rfl rfl rfl
theorem release (die : BitVec 2) (slot : BitVec 6) : Statement (.release die slot) := of_event rfl rfl rfl
theorem placement (die : BitVec 2) (slot : BitVec 6) : Statement (.placement die slot) := of_event rfl rfl rfl
theorem agingLevel (die : BitVec 2) (slot : BitVec 6) : Statement (.agingLevel die slot) := of_event rfl rfl rfl
theorem saveDone (die : BitVec 2) (slot : BitVec 6) : Statement (.saveDone die slot) := of_event rfl rfl rfl
theorem discardDone (die : BitVec 2) (slot : BitVec 6) : Statement (.discardDone die slot) := of_event rfl rfl rfl
theorem answer (fn : BitVec 5) (tag : BitVec 64) (v : BitVec 64) : Statement (.answer fn tag v) := of_event rfl rfl rfl
theorem recover (fn : BitVec 5) (point : BitVec 64) : Statement (.recover fn point) := of_event rfl rfl rfl
theorem mailboxStop (fn : BitVec 5) (slotId : BitVec 64) : Statement (.mailboxStop fn slotId) := of_event rfl rfl rfl
theorem mailboxResume (fn : BitVec 5) (slotId : BitVec 64) (corner : BitVec 64) : Statement (.mailboxResume fn slotId corner) := of_event rfl rfl rfl
theorem mailboxRelease (fn : BitVec 5) (slotId : BitVec 64) : Statement (.mailboxRelease fn slotId) := of_event rfl rfl rfl
theorem planload (fn : BitVec 5) (slot : BitVec 64) (addr : BitVec 64) : Statement (.planload fn slot addr) := of_event rfl rfl rfl
theorem planact (fn : BitVec 5) (slot : BitVec 64) : Statement (.planact fn slot) := of_event rfl rfl rfl
theorem debug (fn : BitVec 5) (word : BitVec 64) (target : BitVec 64) : Statement (.debug fn word target) := of_event rfl rfl rfl
theorem peerwin (fn : BitVec 5) (base : BitVec 64) (bytes : BitVec 64) (who : BitVec 64) : Statement (.peerwin fn base bytes who) := of_event rfl rfl rfl
theorem puppeteerNotification (fn : BitVec 5) (type : BitVec 8) (arg : BitVec 32) (tag : BitVec 32) (addr : BitVec 64) (v : BitVec 64) (payload : NotePayload) : Statement (.puppeteerNotification fn type arg tag addr v payload) := of_event rfl rfl rfl
theorem stackCriticalTemperature (stack : BitVec 4) : Statement (.stackCriticalTemperature stack) := of_event rfl rfl rfl
theorem stackSelfRefreshExit (stack : BitVec 4) : Statement (.stackSelfRefreshExit stack) := of_event rfl rfl rfl
theorem laneRatioSwitch (stack : BitVec 4) (code : BitVec 3) : Statement (.laneRatioSwitch stack code) := of_event rfl rfl rfl
theorem correctedError (die : BitVec 2) : Statement (.correctedError die) := of_event rfl rfl rfl
theorem uncorrectableError (site : ErrSite) : Statement (.uncorrectableError site) := of_event rfl rfl rfl
theorem slotBoundary : Statement .slotBoundary := of_event rfl rfl rfl
theorem linkRetry (port : BitVec 5) : Statement (.linkRetry port) := of_event rfl rfl rfl
theorem frameEnd : Statement .frameEnd := of_event rfl rfl rfl
theorem pauseEnd : Statement .pauseEnd := of_event rfl rfl rfl
theorem pauseLimit (port : BitVec 5) : Statement (.pauseLimit port) := of_event rfl rfl rfl
theorem peerRequest (who : BitVec 10) (fn : BitVec 5) (req : PeerReq) : Statement (.peerRequest who fn req) := of_event rfl rfl rfl
theorem peerErrorResponse (store : BitVec 1) (port : BitVec 5) : Statement (.peerErrorResponse store port) := of_event rfl rfl rfl
theorem bar2Access (fn : BitVec 5) (ide : BitVec 1) (req : PeerReq) : Statement (.bar2Access fn ide req) := of_event rfl rfl rfl
theorem keySlotFill (fn : BitVec 5) (slot : BitVec 6) (pages : List (BitVec 64)) : Statement (.keySlotFill fn slot pages) := of_event rfl rfl rfl
theorem tdiLeavesRun (fn : BitVec 5) (err : BitVec 1) : Statement (.tdiLeavesRun fn err) := of_event rfl rfl rfl
theorem spdmRequest (fn : BitVec 5) (offered : BitVec 1) (block : BitVec 8) : Statement (.spdmRequest fn offered block) := of_event rfl rfl rfl
theorem conventionalReset : Statement .conventionalReset := of_event rfl rfl rfl
theorem functionLevelReset (fn : BitVec 5) : Statement (.functionLevelReset fn) := of_event rfl rfl rfl
theorem clockStep (up : BitVec 1) : Statement (.clockStep up) := of_event rfl rfl rfl
theorem thermalTrip : Statement .thermalTrip := of_event rfl rfl rfl
theorem powerCapSet (watts : BitVec 16) : Statement (.powerCapSet watts) := of_event rfl rfl rfl
theorem flashUpdate (image : BitVec 1) (svn : BitVec 16) (hash : BitVec 512) : Statement (.flashUpdate image svn hash) := of_event rfl rfl rfl
theorem digestComplete (q : BitVec 6) : Statement (.digestComplete q) := of_event rfl rfl rfl
theorem recoveryCopiesDone (fn : BitVec 5) : Statement (.recoveryCopiesDone fn) := of_event rfl rfl rfl
theorem puppeteerServiceAnswer (tag : BitVec 64) (v : BitVec 64) : Statement (.puppeteerServiceAnswer tag v) := of_event rfl rfl rfl
theorem tdispRequest (fn : BitVec 5) (req : BitVec 2) : Statement (.tdispRequest fn req) := of_event rfl rfl rfl

end Sys2Proof.Laws.Encoding
end

