-- ==== Sys2Proof/Laws/State.lean ====
section
/-! SUPPORT. What each update of the state changes, one lemma a field, true by rfl: no later proof unfolds a record
update. -/
namespace Sys2Proof.Machine

section Focus
variable (s : State)

@[simp] theorem State.onStr_str (f : Stream → Stream) : (s.onStr f).str = f s.str := rfl
@[simp] theorem State.onStr_alt (f : Stream → Stream) : (s.onStr f).alt = s.alt := rfl
@[simp] theorem State.onStr_core (f : Stream → Stream) : (s.onStr f).core = s.core := rfl
@[simp] theorem State.onStr_others (f : Stream → Stream) : (s.onStr f).others = s.others := rfl
@[simp] theorem State.onStr_pkg (f : Stream → Stream) : (s.onStr f).pkg = s.pkg := rfl
@[simp] theorem State.onStr_inbox (f : Stream → Stream) : (s.onStr f).inbox = s.inbox := rfl
@[simp] theorem State.onStr_turn (f : Stream → Stream) : (s.onStr f).turn = s.turn := rfl

@[simp] theorem State.onCore_str (f : Core → Core) : (s.onCore f).str = s.str := rfl
@[simp] theorem State.onCore_alt (f : Core → Core) : (s.onCore f).alt = s.alt := rfl
@[simp] theorem State.onCore_core (f : Core → Core) : (s.onCore f).core = f s.core := rfl
@[simp] theorem State.onCore_others (f : Core → Core) : (s.onCore f).others = s.others := rfl
@[simp] theorem State.onCore_pkg (f : Core → Core) : (s.onCore f).pkg = s.pkg := rfl
@[simp] theorem State.onCore_inbox (f : Core → Core) : (s.onCore f).inbox = s.inbox := rfl
@[simp] theorem State.onCore_turn (f : Core → Core) : (s.onCore f).turn = s.turn := rfl

@[simp] theorem State.onPkg_str (f : Package → Package) : (s.onPkg f).str = s.str := rfl
@[simp] theorem State.onPkg_alt (f : Package → Package) : (s.onPkg f).alt = s.alt := rfl
@[simp] theorem State.onPkg_core (f : Package → Package) : (s.onPkg f).core = s.core := rfl
@[simp] theorem State.onPkg_others (f : Package → Package) : (s.onPkg f).others = s.others := rfl
@[simp] theorem State.onPkg_pkg (f : Package → Package) : (s.onPkg f).pkg = f s.pkg := rfl
@[simp] theorem State.onPkg_inbox (f : Package → Package) : (s.onPkg f).inbox = s.inbox := rfl
@[simp] theorem State.onPkg_turn (f : Package → Package) : (s.onPkg f).turn = s.turn := rfl

@[simp] theorem State.swap_str : s.swap.str = s.alt := rfl
@[simp] theorem State.swap_alt : s.swap.alt = s.str := rfl
@[simp] theorem State.swap_core : s.swap.core = s.core := rfl
@[simp] theorem State.swap_others : s.swap.others = s.others := rfl
@[simp] theorem State.swap_pkg : s.swap.pkg = s.pkg := rfl
@[simp] theorem State.swap_inbox : s.swap.inbox = s.inbox := rfl
@[simp] theorem State.swap_turn : s.swap.turn = s.turn := rfl
@[simp] theorem State.swap_swap : s.swap.swap = s := rfl

@[simp] theorem State.emit_alt (t : Target) (n : Nat) (fl : Flg) : (s.emit t n fl).alt = s.alt := rfl
@[simp] theorem State.emit_core (t : Target) (n : Nat) (fl : Flg) : (s.emit t n fl).core = s.core := rfl
@[simp] theorem State.emit_others (t : Target) (n : Nat) (fl : Flg) : (s.emit t n fl).others = s.others := rfl
@[simp] theorem State.emit_pkg (t : Target) (n : Nat) (fl : Flg) : (s.emit t n fl).pkg = s.pkg := rfl
@[simp] theorem State.emit_inbox (t : Target) (n : Nat) (fl : Flg) : (s.emit t n fl).inbox = s.inbox := rfl
@[simp] theorem State.emit_turn (t : Target) (n : Nat) (fl : Flg) : (s.emit t n fl).turn = s.turn := rfl
@[simp] theorem State.emit_str_sec (t : Target) (n : Nat) (fl : Flg) : (s.emit t n fl).str.sec = s.str.sec := rfl
@[simp] theorem State.emit_str_mode (t : Target) (n : Nat) (fl : Flg) : (s.emit t n fl).str.mode = s.str.mode := rfl
@[simp] theorem State.emit_str_pc (t : Target) (n : Nat) (fl : Flg) : (s.emit t n fl).str.pc = s.str.pc := rfl
@[simp] theorem State.emit_str_lcc (t : Target) (n : Nat) (fl : Flg) : (s.emit t n fl).str.lcc = s.str.lcc := rfl
@[simp] theorem State.emit_str_x (t : Target) (n : Nat) (fl : Flg) : (s.emit t n fl).str.x = s.str.x := rfl
@[simp] theorem State.emit_str_p (t : Target) (n : Nat) (fl : Flg) : (s.emit t n fl).str.p = s.str.p := rfl
@[simp] theorem State.emit_str_v (t : Target) (n : Nat) (fl : Flg) : (s.emit t n fl).str.v = s.str.v := rfl
@[simp] theorem State.emit_str_masks (t : Target) (n : Nat) (fl : Flg) : (s.emit t n fl).str.masks = s.str.masks := rfl
@[simp] theorem State.emit_str_loops (t : Target) (n : Nat) (fl : Flg) : (s.emit t n fl).str.loops = s.str.loops := rfl
@[simp] theorem State.emit_str_spb (t : Target) (n : Nat) (fl : Flg) : (s.emit t n fl).str.spb = s.str.spb := rfl
@[simp] theorem State.emit_str_flags (t : Target) (n : Nat) (fl : Flg) : (s.emit t n fl).str.flags = s.str.flags := rfl
@[simp] theorem State.emit_str_rmode (t : Target) (n : Nat) (fl : Flg) : (s.emit t n fl).str.rmode = s.str.rmode := rfl
@[simp] theorem State.emit_str_binds (t : Target) (n : Nat) (fl : Flg) : (s.emit t n fl).str.binds = s.str.binds := rfl
@[simp] theorem State.emit_str_pend (t : Target) (n : Nat) (fl : Flg) : (s.emit t n fl).str.pend = s.str.pend ++ [{ target := t, left := n, flags := fl, baddr := s.str.pc }] := rfl
@[simp] theorem State.emit_str_gq (t : Target) (n : Nat) (fl : Flg) : (s.emit t n fl).str.gq = s.str.gq := rfl
@[simp] theorem State.emit_str_gap (t : Target) (n : Nat) (fl : Flg) : (s.emit t n fl).str.gap = s.str.gap := rfl
@[simp] theorem State.emit_str_skip (t : Target) (n : Nat) (fl : Flg) : (s.emit t n fl).str.skip = s.str.skip := rfl
@[simp] theorem State.emit_str_skipTest (t : Target) (n : Nat) (fl : Flg) : (s.emit t n fl).str.skipTest = s.str.skipTest := rfl
@[simp] theorem State.emit_str_arrivals (t : Target) (n : Nat) (fl : Flg) : (s.emit t n fl).str.arrivals = s.str.arrivals := rfl
@[simp] theorem State.emit_str_svc (t : Target) (n : Nat) (fl : Flg) : (s.emit t n fl).str.svc = s.str.svc := rfl
@[simp] theorem State.emit_str_xlate (t : Target) (n : Nat) (fl : Flg) : (s.emit t n fl).str.xlate = s.str.xlate := rfl
@[simp] theorem State.emit_str_sealing (t : Target) (n : Nat) (fl : Flg) : (s.emit t n fl).str.sealing = s.str.sealing := rfl
@[simp] theorem State.emit_str_ffr (t : Target) (n : Nat) (fl : Flg) : (s.emit t n fl).str.ffr = s.str.ffr := rfl
@[simp] theorem State.emit_str_stopRec (t : Target) (n : Nat) (fl : Flg) : (s.emit t n fl).str.stopRec = s.str.stopRec := rfl
@[simp] theorem State.emit_str_fresh (t : Target) (n : Nat) (fl : Flg) : (s.emit t n fl).str.fresh = s.str.fresh := rfl
@[simp] theorem State.emit_str_held (t : Target) (n : Nat) (fl : Flg) : (s.emit t n fl).str.held = s.str.held := rfl
@[simp] theorem State.emit_str_len (t : Target) (n : Nat) (fl : Flg) : (s.emit t n fl).str.len = s.str.len := rfl
@[simp] theorem State.emit_str_next (t : Target) (n : Nat) (fl : Flg) : (s.emit t n fl).str.next = s.str.next := rfl
@[simp] theorem State.emit_str_squash (t : Target) (n : Nat) (fl : Flg) : (s.emit t n fl).str.squash = s.str.squash := rfl

@[simp] theorem State.issued_alt : s.issued.alt = s.alt := rfl
@[simp] theorem State.issued_core : s.issued.core = s.core := rfl
@[simp] theorem State.issued_others : s.issued.others = s.others := rfl
@[simp] theorem State.issued_pkg : s.issued.pkg = s.pkg := rfl
@[simp] theorem State.issued_inbox : s.issued.inbox = s.inbox := rfl
@[simp] theorem State.issued_turn : s.issued.turn = s.turn := rfl
@[simp] theorem State.issued_str_sec : s.issued.str.sec = s.str.sec := rfl
@[simp] theorem State.issued_str_mode : s.issued.str.mode = s.str.mode := rfl
@[simp] theorem State.issued_str_pc : s.issued.str.pc = s.str.pc := rfl
@[simp] theorem State.issued_str_lcc : s.issued.str.lcc = s.str.lcc := rfl
@[simp] theorem State.issued_str_x : s.issued.str.x = s.str.x := rfl
@[simp] theorem State.issued_str_p : s.issued.str.p = s.str.p := rfl
@[simp] theorem State.issued_str_v : s.issued.str.v = s.str.v := rfl
@[simp] theorem State.issued_str_masks : s.issued.str.masks = s.str.masks := rfl
@[simp] theorem State.issued_str_loops : s.issued.str.loops = s.str.loops := rfl
@[simp] theorem State.issued_str_spb : s.issued.str.spb = s.str.spb := rfl
@[simp] theorem State.issued_str_flags : s.issued.str.flags = s.str.flags := rfl
@[simp] theorem State.issued_str_rmode : s.issued.str.rmode = s.str.rmode := rfl
@[simp] theorem State.issued_str_binds : s.issued.str.binds = s.str.binds := rfl
@[simp] theorem State.issued_str_pend : s.issued.str.pend = s.str.pend := rfl
@[simp] theorem State.issued_str_gq : s.issued.str.gq = s.str.gq := rfl
@[simp] theorem State.issued_str_gap : s.issued.str.gap = s.str.gap := rfl
@[simp] theorem State.issued_str_skip : s.issued.str.skip = s.str.skip := rfl
@[simp] theorem State.issued_str_skipTest : s.issued.str.skipTest = s.str.skipTest := rfl
@[simp] theorem State.issued_str_arrivals : s.issued.str.arrivals = s.str.arrivals := rfl
@[simp] theorem State.issued_str_svc : s.issued.str.svc = s.str.svc := rfl
@[simp] theorem State.issued_str_xlate : s.issued.str.xlate = none := rfl
@[simp] theorem State.issued_str_sealing : s.issued.str.sealing = s.str.sealing := rfl
@[simp] theorem State.issued_str_ffr : s.issued.str.ffr = s.str.ffr := rfl
@[simp] theorem State.issued_str_stopRec : s.issued.str.stopRec = s.str.stopRec := rfl
@[simp] theorem State.issued_str_fresh : s.issued.str.fresh = s.str.fresh := rfl
@[simp] theorem State.issued_str_held : s.issued.str.held = false := rfl
@[simp] theorem State.issued_str_len : s.issued.str.len = s.str.len := rfl
@[simp] theorem State.issued_str_next : s.issued.str.next = s.str.next := rfl
@[simp] theorem State.issued_str_squash : s.issued.str.squash = s.str.squash := rfl

@[simp] theorem State.gives_alt (t : Target) (n : Nat) (fl : Flg) : (s.gives t n fl).alt = s.alt := rfl
@[simp] theorem State.gives_core (t : Target) (n : Nat) (fl : Flg) : (s.gives t n fl).core = s.core := rfl
@[simp] theorem State.gives_others (t : Target) (n : Nat) (fl : Flg) : (s.gives t n fl).others = s.others := rfl
@[simp] theorem State.gives_pkg (t : Target) (n : Nat) (fl : Flg) : (s.gives t n fl).pkg = s.pkg := rfl
@[simp] theorem State.gives_inbox (t : Target) (n : Nat) (fl : Flg) : (s.gives t n fl).inbox = s.inbox := rfl
@[simp] theorem State.gives_turn (t : Target) (n : Nat) (fl : Flg) : (s.gives t n fl).turn = s.turn := rfl
@[simp] theorem State.gives_str_sec (t : Target) (n : Nat) (fl : Flg) : (s.gives t n fl).str.sec = s.str.sec := rfl
@[simp] theorem State.gives_str_mode (t : Target) (n : Nat) (fl : Flg) : (s.gives t n fl).str.mode = s.str.mode := rfl
@[simp] theorem State.gives_str_pc (t : Target) (n : Nat) (fl : Flg) : (s.gives t n fl).str.pc = s.str.pc := rfl
@[simp] theorem State.gives_str_lcc (t : Target) (n : Nat) (fl : Flg) : (s.gives t n fl).str.lcc = s.str.lcc := rfl
@[simp] theorem State.gives_str_x (t : Target) (n : Nat) (fl : Flg) : (s.gives t n fl).str.x = s.str.x := rfl
@[simp] theorem State.gives_str_p (t : Target) (n : Nat) (fl : Flg) : (s.gives t n fl).str.p = s.str.p := rfl
@[simp] theorem State.gives_str_v (t : Target) (n : Nat) (fl : Flg) : (s.gives t n fl).str.v = s.str.v := rfl
@[simp] theorem State.gives_str_masks (t : Target) (n : Nat) (fl : Flg) : (s.gives t n fl).str.masks = s.str.masks := rfl
@[simp] theorem State.gives_str_loops (t : Target) (n : Nat) (fl : Flg) : (s.gives t n fl).str.loops = s.str.loops := rfl
@[simp] theorem State.gives_str_spb (t : Target) (n : Nat) (fl : Flg) : (s.gives t n fl).str.spb = s.str.spb := rfl
@[simp] theorem State.gives_str_flags (t : Target) (n : Nat) (fl : Flg) : (s.gives t n fl).str.flags = s.str.flags := rfl
@[simp] theorem State.gives_str_rmode (t : Target) (n : Nat) (fl : Flg) : (s.gives t n fl).str.rmode = s.str.rmode := rfl
@[simp] theorem State.gives_str_binds (t : Target) (n : Nat) (fl : Flg) : (s.gives t n fl).str.binds = s.str.binds := rfl
@[simp] theorem State.gives_str_pend (t : Target) (n : Nat) (fl : Flg) : (s.gives t n fl).str.pend = s.str.pend ++ [{ target := t, left := n, flags := fl, baddr := s.str.pc }] := rfl
@[simp] theorem State.gives_str_gq (t : Target) (n : Nat) (fl : Flg) : (s.gives t n fl).str.gq = s.str.gq := rfl
@[simp] theorem State.gives_str_gap (t : Target) (n : Nat) (fl : Flg) : (s.gives t n fl).str.gap = s.str.gap := rfl
@[simp] theorem State.gives_str_skip (t : Target) (n : Nat) (fl : Flg) : (s.gives t n fl).str.skip = s.str.skip := rfl
@[simp] theorem State.gives_str_skipTest (t : Target) (n : Nat) (fl : Flg) : (s.gives t n fl).str.skipTest = s.str.skipTest := rfl
@[simp] theorem State.gives_str_arrivals (t : Target) (n : Nat) (fl : Flg) : (s.gives t n fl).str.arrivals = s.str.arrivals := rfl
@[simp] theorem State.gives_str_svc (t : Target) (n : Nat) (fl : Flg) : (s.gives t n fl).str.svc = s.str.svc := rfl
@[simp] theorem State.gives_str_xlate (t : Target) (n : Nat) (fl : Flg) : (s.gives t n fl).str.xlate = none := rfl
@[simp] theorem State.gives_str_sealing (t : Target) (n : Nat) (fl : Flg) : (s.gives t n fl).str.sealing = s.str.sealing := rfl
@[simp] theorem State.gives_str_ffr (t : Target) (n : Nat) (fl : Flg) : (s.gives t n fl).str.ffr = s.str.ffr := rfl
@[simp] theorem State.gives_str_stopRec (t : Target) (n : Nat) (fl : Flg) : (s.gives t n fl).str.stopRec = s.str.stopRec := rfl
@[simp] theorem State.gives_str_fresh (t : Target) (n : Nat) (fl : Flg) : (s.gives t n fl).str.fresh = s.str.fresh := rfl
@[simp] theorem State.gives_str_held (t : Target) (n : Nat) (fl : Flg) : (s.gives t n fl).str.held = false := rfl
@[simp] theorem State.gives_str_len (t : Target) (n : Nat) (fl : Flg) : (s.gives t n fl).str.len = s.str.len := rfl
@[simp] theorem State.gives_str_next (t : Target) (n : Nat) (fl : Flg) : (s.gives t n fl).str.next = s.str.next := rfl
@[simp] theorem State.gives_str_squash (t : Target) (n : Nat) (fl : Flg) : (s.gives t n fl).str.squash = s.str.squash := rfl
theorem State.emit_issued (t : Target) (n : Nat) (fl : Flg) : (s.emit t n fl).issued = s.gives t n fl := rfl

@[simp] theorem State.branchTo_alt (a : Word) : (s.branchTo a).alt = s.alt := rfl
@[simp] theorem State.branchTo_core (a : Word) : (s.branchTo a).core = s.core := rfl
@[simp] theorem State.branchTo_others (a : Word) : (s.branchTo a).others = s.others := rfl
@[simp] theorem State.branchTo_pkg (a : Word) : (s.branchTo a).pkg = s.pkg := rfl
@[simp] theorem State.branchTo_inbox (a : Word) : (s.branchTo a).inbox = s.inbox := rfl
@[simp] theorem State.branchTo_turn (a : Word) : (s.branchTo a).turn = s.turn := rfl
@[simp] theorem State.branchTo_str_sec (a : Word) : (s.branchTo a).str.sec = s.str.sec := rfl
@[simp] theorem State.branchTo_str_mode (a : Word) : (s.branchTo a).str.mode = s.str.mode := rfl
@[simp] theorem State.branchTo_str_pc (a : Word) : (s.branchTo a).str.pc = s.str.pc := rfl
@[simp] theorem State.branchTo_str_lcc (a : Word) : (s.branchTo a).str.lcc = s.str.lcc := rfl
@[simp] theorem State.branchTo_str_x (a : Word) : (s.branchTo a).str.x = s.str.x := rfl
@[simp] theorem State.branchTo_str_p (a : Word) : (s.branchTo a).str.p = s.str.p := rfl
@[simp] theorem State.branchTo_str_v (a : Word) : (s.branchTo a).str.v = s.str.v := rfl
@[simp] theorem State.branchTo_str_masks (a : Word) : (s.branchTo a).str.masks = s.str.masks := rfl
@[simp] theorem State.branchTo_str_loops (a : Word) : (s.branchTo a).str.loops = s.str.loops := rfl
@[simp] theorem State.branchTo_str_spb (a : Word) : (s.branchTo a).str.spb = s.str.spb := rfl
@[simp] theorem State.branchTo_str_flags (a : Word) : (s.branchTo a).str.flags = s.str.flags := rfl
@[simp] theorem State.branchTo_str_rmode (a : Word) : (s.branchTo a).str.rmode = s.str.rmode := rfl
@[simp] theorem State.branchTo_str_binds (a : Word) : (s.branchTo a).str.binds = s.str.binds := rfl
@[simp] theorem State.branchTo_str_pend (a : Word) : (s.branchTo a).str.pend = s.str.pend := rfl
@[simp] theorem State.branchTo_str_gq (a : Word) : (s.branchTo a).str.gq = s.str.gq := rfl
@[simp] theorem State.branchTo_str_gap (a : Word) : (s.branchTo a).str.gap = s.str.gap := rfl
@[simp] theorem State.branchTo_str_skip (a : Word) : (s.branchTo a).str.skip = s.str.skip := rfl
@[simp] theorem State.branchTo_str_skipTest (a : Word) : (s.branchTo a).str.skipTest = s.str.skipTest := rfl
@[simp] theorem State.branchTo_str_arrivals (a : Word) : (s.branchTo a).str.arrivals = s.str.arrivals := rfl
@[simp] theorem State.branchTo_str_svc (a : Word) : (s.branchTo a).str.svc = s.str.svc := rfl
@[simp] theorem State.branchTo_str_xlate (a : Word) : (s.branchTo a).str.xlate = s.str.xlate := rfl
@[simp] theorem State.branchTo_str_sealing (a : Word) : (s.branchTo a).str.sealing = s.str.sealing := rfl
@[simp] theorem State.branchTo_str_ffr (a : Word) : (s.branchTo a).str.ffr = s.str.ffr := rfl
@[simp] theorem State.branchTo_str_stopRec (a : Word) : (s.branchTo a).str.stopRec = s.str.stopRec := rfl
@[simp] theorem State.branchTo_str_fresh (a : Word) : (s.branchTo a).str.fresh = s.str.fresh := rfl
@[simp] theorem State.branchTo_str_held (a : Word) : (s.branchTo a).str.held = s.str.held := rfl
@[simp] theorem State.branchTo_str_len (a : Word) : (s.branchTo a).str.len = s.str.len := rfl
@[simp] theorem State.branchTo_str_next (a : Word) : (s.branchTo a).str.next = some a := rfl
@[simp] theorem State.branchTo_str_squash (a : Word) : (s.branchTo a).str.squash = s.str.squash := rfl
end Focus

end Sys2Proof.Machine
end

