-- ==== Sys2Proof/Laws/Vector.lean ====
section
/-! SUPPORT. Registers built from elements, and what a masked write gives. -/
namespace Sys2Proof.Machine

theorem ofEls_lt (w : Nat) : ∀ xs : List Nat, ofEls w xs < 2 ^ (w * xs.length)
  | [] => by simp [ofEls]
  | x :: xs => by
    have h := ofEls_lt w xs
    have hx : x % 2 ^ w < 2 ^ w := Nat.mod_lt _ (by positivity)
    have h2 : 2 ^ w * (ofEls w xs + 1) ≤ 2 ^ w * 2 ^ (w * xs.length) := Nat.mul_le_mul_left _ h
    simp only [ofEls, List.length_cons, Nat.mul_succ, Nat.pow_add]
    rw [Nat.mul_comm (2 ^ (w * xs.length))]
    rw [Nat.mul_add] at h2; omega

/-- Element `i` of a string built from elements. -/
theorem el_ofEls (w : Nat) : ∀ (xs : List Nat) (i : Nat), el (ofEls w xs) w i = xs.getD i 0 % 2 ^ w
  | [], i => by simp [ofEls, el]
  | x :: xs, 0 => by simp [ofEls, el]
  | x :: xs, i + 1 => by
    have h := el_ofEls w xs i
    have hx : x % 2 ^ w < 2 ^ w := Nat.mod_lt _ (by positivity)
    simp only [el, ofEls, List.getD_cons_succ] at h ⊢
    rw [Nat.mul_succ, Nat.add_comm (w * i), Nat.pow_add, ← Nat.div_div_eq_div_mul,
      Nat.add_mul_div_left _ _ (by positivity), Nat.div_eq_of_lt hx, Nat.zero_add, h]

theorem el_testBit (v w i k : Nat) (hk : k < w) : (el v w i).testBit k = v.testBit (w * i + k) := by
  simp [el, hk, Nat.testBit_div_two_pow, Nat.add_comm]

/-- Bit `k` of element `i` of a register built from elements. -/
theorem vreg_getLsbD (w : Nat) (xs : List Nat) (i k : Nat) (hk : k < w) (hw : w * i + k < 4096) :
    (vreg w xs).getLsbD (w * i + k) = (xs.getD i 0).testBit k := by
  simp only [vreg, BitVec.getLsbD_ofNat, hw, decide_true, Bool.true_and]
  rw [← el_testBit _ _ _ _ hk, el_ofEls]
  simp [hk]

theorem el_vreg (w : Nat) (xs : List Nat) (i : Nat) (h : w * xs.length ≤ 4096) :
    el (vreg w xs).toNat w i = xs.getD i 0 % 2 ^ w := by
  have hl : ofEls w xs < 2 ^ 4096 := Nat.lt_of_lt_of_le (ofEls_lt w xs) (Nat.pow_le_pow_right (by omega) h)
  rw [vreg, BitVec.toNat_ofNat, Nat.mod_eq_of_lt hl, el_ofEls]

theorem enables_getLsbD (w : Nat) (act : List Bool) (i k : Nat) (hk : k < w) (hw : w * i + k < 4096) :
    (enables w act).getLsbD (w * i + k) = act.getD i false := by
  have h := vreg_getLsbD w (act.map fun a => if a then 2 ^ w - 1 else 0) i k hk hw
  rw [enables, ← vreg, h]
  rw [List.getD_eq_getElem?_getD, List.getD_eq_getElem?_getD, List.getElem?_map]
  cases ha : act[i]? with
  | none => simp
  | some a => cases a <;> simp [Nat.testBit_two_pow_sub_one, hk]

theorem actives_length (w : Nat) (top : MaskEntry) : (actives w top).length = 4096 / w := by simp [actives]

theorem masked_getD (act : List Bool) (f : Nat → Nat × Flg) (i : Nat) (h : i < act.length) :
    (masked act f).1.getD i 0 = if act[i] then (f i).1 else 0 := by
  simp only [masked, List.getD_eq_getElem?_getD, List.getElem?_map, List.getElem?_zipIdx]
  rw [List.getElem?_eq_getElem h]
  cases act[i] <;> simp

theorem masked_flags (w : Nat) (s : State) (f : Nat → Nat × Flg) :
    (masked (actives w s.top) f).2 = orFlags ((List.range (4096 / w)).map fun i => if s.active w i then (f i).2 else 0) := by
  simp only [masked, List.map_map]
  congr 1
  apply List.ext_getElem
  · simp [actives]
  · intro i h1 h2
    simp only [List.getElem_map, List.getElem_zipIdx, Function.comp_apply, actives, State.active, List.getElem_range]
    simp only [Nat.zero_add]
    split <;> rfl

/-- A masked write gives its elements to the active places, and the flags of the active elements. -/
theorem vput_gives (s : State) (d : BitVec 6) (w lat : Nat) (f : Nat → Nat × Flg) (mf : Flg) :
    ∃ t, finish (.ok (s.vput d w lat f mf)) = .next t ∧ s.GivesElements d w lat f t mf := by
  refine ⟨_, rfl, enables w (actives w s.top), vreg w (masked (actives w s.top) f).1, ?_, ?_, ?_⟩
  · simp only [State.vput, State.emit, State.onStr, State.gives, State.activeFlags, masked_flags]
  · intro i k hi hk
    have hw : w * i + k < 4096 := by
      have := Nat.mul_le_mul_left w (Nat.succ_le_of_lt hi)
      have := Nat.mul_div_le 4096 w
      rw [Nat.mul_succ] at *; omega
    rw [enables_getLsbD w _ i k hk hw, List.getD_eq_getElem?_getD, List.getElem?_eq_getElem (by simpa [actives] using hi)]
    simp [actives, State.active]
  · intro i hi ha
    have hl : (masked (actives w s.top) f).1.length = 4096 / w := by simp [masked, actives]
    rw [el_vreg _ _ _ (by rw [hl]; exact Nat.mul_div_le 4096 w), masked_getD _ _ _ (by simpa [actives] using hi)]
    rw [if_pos (by simpa [actives, State.active] using ha)]

end Sys2Proof.Machine
end

