-- ==== Sys2Proof/WellFormed.lean ====
section
/-! DEFINITION. Well-formed instructions: those whose every field holds a value that the spec lets it hold.

The checks themselves stand in Machine/Legal.lean, because the machine makes the same ones at issue (03 R93). -/
namespace Sys2Proof

/-- The instruction holds no reserved code and names no forbidden register (03 R93). -/
def Instr.WellFormed (i : Instr) : Prop := Machine.legal i = true

/-- The instruction is a syllable that stands in a bundle (majors 0 to 29). -/
abbrev Instr.Checked (i : Instr) : Bool := Machine.legal i

end Sys2Proof
end

