-- ==== Sys2Proof/Tests/Slice0.lean ====
section
/-! SUPPORT. Tests of the model, each on one step or one word: ill-formed terms that the check refuses, words written out from the
encoding tables of the spec, results worked out by hand from its rules, and for every statement with hypotheses a state and
operands that meet them. -/
namespace Sys2Proof.Tests
open Sys2Proof Sys2Proof.Machine
set_option Elab.async false

/-! ### Ill-formed terms (03 R93) -/

theorem test_refuses_reserved_scalar_codes : ([.csrr 0 0x0C, .csrw 0 0x19, .csrs 0 0x0F, .csrc 0 0xFF, .fadd 1 2 3 6 0, .fsqrt 1 2 7 0,
    .fcvt 1 2 3 0 3, .fcvti 1 2 0 6 0, .mskip 0, .ld 1 2 0 7 0, .ldg 1 2 0 7 0, .st 1 2 0 1 0, .stg 1 2 5 0, .fence 6,
    .arrb 1 2 0 7, .waitph 1 2 0 6, .amadd 1 2 3 0 0 6 0, .waddF64 1 2 0 7 0, .wrd 1 2 0 0 6 0, .arrive 0, .wait 6,
    .dinjM 1 2 2, .dinjgM 1 2 3, .cpyin 1 2 3 12] : List Instr).all (fun i => !i.Checked) = true := by decide

theorem test_refuses_reserved_vector_codes : ([.vadd 1 2 32 0 1, .vcmp 6 1 2 0 0, .vcmp 0 1 40 0 1, .vfadd 1 2 3 3 0, .vfdiv 1 2 33 0 1,
    .vfsqrt 1 2 4, .vfcmp 7 1 2 0 0, .vfma 1 2 3 6 0, .vfmaw 1 2 3 0 0, .vfmaw 2 2 3 3 0, .vmacw 2 2 3 0 0, .vmacw 4 2 3 2 0,
    .vperm 1 2 4 4, .vperm 1 2 3 0, .vbcast 1 2 5, .vslideup 1 2 3 6, .vext 1 2 3 7, .vilv 1 2 3 0, .vdilv 3 2 3 1,
    .vfredsum 1 2 6, .qsadd 1 2 3, .hhadd 1 2 0, .dcadd 1 2 4, .vldB 1 2 3 0 0, .vldgB 1 2 0 5 0, .vgath 1 2 0 3 0,
    .vscat 1 2 0 2 0, .vscatg 1 2 6 0] : List Instr).all (fun i => !i.Checked) = true := by decide

theorem test_refuses_conversions : ([.vcvt 1 2 6 0 1 0 0 0, .vcvt 1 2 0 0 1 1 0 0, .vcvt 1 2 0 0 1 1 0 0, .vcvt 1 2 0 0 0 0 0 0,
    .vcvt 0 0 0 3 6 0 0 0, .vcvt 0 0 0 0 6 1 0 0, .vcvt 0 0 0 0 6 0 0 1, .vcvt 0 0 0 0 0 6 0 2, .vcvt 0 0 0 0 2 0 0 3,
    .vcvt 1 0 5 0 1 0 0 0] : List Instr).all (fun i => !i.Checked) = true := by decide

theorem test_refuses_microops_and_entries : ([.mpass 0 0 0 0 0 9 0 0, .mpass 0 0 0 0 0 4 1 0, .mpass 0 0 0 0 0 6 0 1, .mscale 0 0 0 0 0 3 0,
    .mout 0 0 6 0 0 0, .mout 0 0 0 0 6 0, .midle 0, .condSkip 0 6 0 0 0 0, .waitValue 0 7 0 0 0] : List Instr).all
    (fun i => !i.Checked) = true := by decide

/-! ### Words, field by field from the encoding of each form -/

/-- Every word of the list is read as the instruction beside it, with S = 0 and with S = 1. -/
noncomputable def reads (l : List (Nat × Instr)) : Bool :=
  l.all fun p => decodeOp p.1 == some p.2 && decodeOp (p.1 + 2 ^ 31) == some p.2

/-- 04 R136, Table 11; 03: major 7, fn 4, Pk in [19:16], the mask in [7:0]. -/
theorem test_decode_guard : reads [(7 * 2 ^ 26 + 4 * 2 ^ 8 + 9 * 2 ^ 16 + 0xA5, .guard 9 0xA5)] = true := by decide

/-- 03 R93: words of no form. -/
theorem test_decode_reserved : ([0x04000160, 0x0800C000, 0x0C000070, 0x78000000, 0x7C000000, 0x70000300, 0x00000009] : List Nat).all
    (fun w => decodeOp w == none) = true := by decide

/-- 13 Tables 5 and 6: OP in [63:59], RA [58:55], RB [54:51], XC [50:48], XP [47:45], XQ [44:42], FMT [41:38]. -/
theorem test_decode_micro_ops : ([(0, .mend), (1 * 2 ^ 59 + 3 * 2 ^ 55 + 5 * 2 ^ 51 + 6 * 2 ^ 48 + 2 * 2 ^ 45 + 1 * 2 ^ 42 + 8 * 2 ^ 38, .mpass 3 5 6 2 1 8 0 0),
    (2 * 2 ^ 59 + 4 * 2 ^ 55 + 7 * 2 ^ 51 + 1 * 2 ^ 48 + 5 * 2 ^ 38, .mscale 4 7 1 0 0 5 0), (3 * 2 ^ 59 + 7 * 2 ^ 48, .mzero 7),
    (5 * 2 ^ 59 + 4 * 2 ^ 48, .mckz 4), (7 * 2 ^ 59 + 9 * 2 ^ 55, .mpopMicroOp 9), (8 * 2 ^ 59 + 3 * 2 ^ 48 + 6 * 2 ^ 45, .macc 3 6),
    (12 * 2 ^ 59 + 2 * 2 ^ 48, .mloop 2), (13 * 2 ^ 59, .mnext)] : List (Nat × Instr)).all
    (fun p => decodeMicro (BitVec.ofNat 64 p.1) == some p.2) = true := by decide

theorem test_decode_reserved_micro_ops : ([14 * 2 ^ 59, 31 * 2 ^ 59, 1, 13 * 2 ^ 59 + 1] : List Nat).all
    (fun w => decodeMicro (BitVec.ofNat 64 w) == none) = true := by decide

/-- 09 Tables 2 and 4: OP in [7:0], ARG16 [31:16], ARG32 [63:32], A [127:64], B [191:128], C [255:192]. -/
theorem test_decode_entries : ([(0, .queueNop 5), (1 + 2 * 2 ^ 16 + 0x1000 * 2 ^ 64 + 7 * 2 ^ 128 + 9 * 2 ^ 192, .launch 5 2 0x1000 7 9),
    (2 + 1 * 2 ^ 16, .phaseEnd 5 1), (3 + 4 * 2 ^ 16 + 2 * 2 ^ 32 + 8 * 2 ^ 64 + 11 * 2 ^ 128 + 12 * 2 ^ 192, .condSkip 5 4 2 8 11 12),
    (4 + 3 * 2 ^ 64, .jump 5 3), (5 + 32 * 2 ^ 64, .queueCall 5 32), (6, .queueReturn 5),
    (7 + 1 * 2 ^ 16 + 8 * 2 ^ 64 + 2 * 2 ^ 128 + 3 * 2 ^ 192, .waitValue 5 1 8 2 3),
    (8 + 3 * 2 ^ 16 + 6 * 2 ^ 32 + 8 * 2 ^ 64 + 2 * 2 ^ 128, .writeValue 5 1 1 6 8 2), (9 + 4 * 2 ^ 32 + 64 * 2 ^ 64, .checkpoint 5 4 64),
    (10 + 64 * 2 ^ 64 + 128 * 2 ^ 128, .digest 5 64 128)] : List (Nat × Instr)).all
    (fun p => decodeEntry 5 (BitVec.ofNat 256 p.1) == some p.2) = true := by decide

theorem test_decode_reserved_entries : ([11, 255, 6 + 2 ^ 8, 6 + 2 ^ 16, 0 + 2 ^ 255] : List Nat).all
    (fun w => decodeEntry 5 (BitVec.ofNat 256 w) == none) = true := by decide

theorem test_decode_major_0 : reads
  [(0x00000000, .nop),
   (0x00000001, .endTask),
   (0x01610002, (.svc 11 1)),
   (0x00169003, (.trap 722)),
   (0x02400187, (.csrr 18 135)),
   (0x00120287, (.csrw 18 135)),
   (0x00120387, (.csrs 18 135)),
   (0x00120487, (.csrc 18 135)),
   (0x00000004, .yield),
   (0x00000005, .drain),
   (0x00350006, (.clogrd 1 21)),
   (0x00010007, (.rjmark 1)),
   (0x00200008, (.rescnt 1))] = true := by decide

theorem test_decode_major_1 : reads
  [(0x0561A800, (.add 11 1 21)),
   (0x0561A810, (.sub 11 1 21)),
   (0x0561A820, (.and 11 1 21)),
   (0x04997030, (.or 4 25 14)),
   (0x0561A840, (.xor 11 1 21)),
   (0x0647E050, (.andn 18 7 28)),
   (0x0561A860, (.sll 11 1 21)),
   (0x0561A870, (.srl 11 1 21)),
   (0x0561A880, (.sra 11 1 21)),
   (0x0561A890, (.min 11 1 21)),
   (0x0561A8A0, (.max 11 1 21)),
   (0x0647E0B0, (.minu 18 7 28)),
   (0x0647E0C0, (.maxu 18 7 28)),
   (0x0647E0D0, (.adds 18 7 28)),
   (0x0647E0E0, (.subs 18 7 28)),
   (0x0561A8FA, (.sel 11 1 21 10)),
   (0x052E1900, (.cmpeq 9 14 3)),
   (0x052E1910, (.cmpne 9 14 3)),
   (0x052E1920, (.cmplt 9 14 3)),
   (0x04355130, (.cmpltu 1 21 10)),
   (0x052E1940, (.cmple 9 14 3)),
   (0x04355150, (.cmpleu 1 21 10))] = true := by decide

theorem test_decode_major_2 : reads
  [(0x0A47083C, (.addi 18 7 2108)),
   (0x0A47183C, (.andi 18 7 2108)),
   (0x09612835, (.ori 11 1 2101)),
   (0x0A47383C, (.xori 18 7 2108)),
   (0x0A47403C, (.slli 18 7 60)),
   (0x0A47503C, (.srli 18 7 60)),
   (0x0A47603C, (.srai 18 7 60)),
   (0x0B2E7843, (.shlor 25 14 2115)),
   (0x0A408587, (.movi 18 1415)),
   (0x0835984A, (.cmpeqi 1 21 2122)),
   (0x0835A84A, (.cmplti 1 21 2122)),
   (0x08FCB851, (.cmpltui 7 28 2129))] = true := by decide

theorem test_decode_major_3 : reads
  [(0x0D61A800, (.mul 11 1 21)),
   (0x0E47E010, (.mulh 18 7 28)),
   (0x0F2E1820, (.mulhu 25 14 3)),
   (0x0D61A830, (.div 11 1 21)),
   (0x0E47E040, (.divu 18 7 28)),
   (0x0D61A850, (.rem 11 1 21)),
   (0x0E47E060, (.remu 18 7 28)),
   (0x0D610080, (.clz 11 1)),
   (0x0D610090, (.ctz 11 1)),
   (0x0E4700A0, (.popc 18 7)),
   (0x0E4700B0, (.brev 18 7)),
   (0x0F2E00C0, (.bswap 25 14)),
   (0x0D61A8D0, (.rol 11 1 21)),
   (0x0D61A8E0, (.ror 11 1 21)),
   (0x0E47E0F0, (.extu 18 7 28)),
   (0x0E47E100, (.exts 18 7 28))] = true := by decide

theorem test_decode_major_4 : reads
  [(0x1247E180, (.fadd 18 7 28 1 2)),
   (0x1247E181, (.fsub 18 7 28 1 2)),
   (0x1247E182, (.fmul 18 7 28 1 2)),
   (0x1161AAC3, (.fma 11 1 21 2 3)),
   (0x1247E544, (.fmin 18 7 28 1)),
   (0x1247E545, (.fmax 18 7 28 1)),
   (0x1247E186, (.fdiv 18 7 28 1 2)),
   (0x132E0347, (.fsqrt 25 14 3 1)),
   (0x12470988, (.fcvt 18 7 1 1 2)),
   (0x132E1949, (.fcvti 25 14 3 1 1)),
   (0x132E194A, (.fcvtn 25 14 3 1 1)),
   (0x132E194B, (.icvtf 25 14 3 1 1)),
   (0x132E194C, (.ncvtf 25 14 3 1 1)),
   (0x103555CD, (.fcmpeq 1 21 10 3)),
   (0x103555CE, (.fcmplt 1 21 10 3)),
   (0x103555CF, (.fcmple 1 21 10 3)),
   (0x12470550, (.fneg 18 7 1)),
   (0x12470551, (.fabs 18 7 1))] = true := by decide

theorem test_decode_major_5 : reads
  [(0x15610835, (.beq 11 1 2101)),
   (0x15612835, (.bne 11 1 2101)),
   (0x15614835, (.blt 11 1 2101)),
   (0x15616835, (.bge 11 1 2101)),
   (0x1647883C, (.bltu 18 7 2108)),
   (0x1647A83C, (.bgeu 18 7 2108)),
   (0x1480C579, (.bp 4 1401)),
   (0x1560E580, (.bnp 11 1408))] = true := by decide

theorem test_decode_major_6 : reads
  [(0x180002BD, (.j 701)),
   (0x180402D2, (.call 722)),
   (0x18880579, (.jr 4 1401)),
   (0x1B2C058E, (.callr 25 1422)),
   (0x1A500587, (.loop 18 1415)),
   (0x18F50851, (.loopRot 7 1 2129)),
   (0x1ABA085F, (.loopRot58 21 2 2143))] = true := by decide

theorem test_decode_major_7 : reads
  [(0x1C000000, .mpushAll),
   (0x1C000001, .mdup),
   (0x1C000002, .mpop),
   (0x1C000003, .mand),
   (0x1C000004, .mor),
   (0x1C000005, .mxor),
   (0x1C000006, .mandn),
   (0x1C000007, .mnot),
   (0x1C000008, .melse),
   (0x1C010009, (.mpushP 1)),
   (0x1E40000A, (.mcnt 18)),
   (0x1C40000B, (.many 2)),
   (0x1C476104, (.pand 2 7 12 1)),
   (0x1D612905, (.por 11 1 5 1)),
   (0x1C476106, (.pxor 2 7 12 1)),
   (0x1D2E1907, (.pandn 9 14 3 1)),
   (0x1D610200, (.pnz 11 1)),
   (0x1D600300, (.prd 11)),
   (0x1C0005D9, (.mskip 217))] = true := by decide

theorem test_decode_major_8 : reads
  [(0x204CA798, (.ld 4 25 2 3 408)),
   (0x20B0D59F, (.ldg 11 1 1 2 415))] = true := by decide

theorem test_decode_major_9 : reads
  [(0x244CA798, (.st 4 25 2 3 408)),
   (0x24B0CAEA, (.stg 11 1 5 234))] = true := by decide

theorem test_decode_major_10 : reads
  [(0x28355426, (.amswap 1 21 10 1 1 1 2)),
   (0x2B2E1C6B, (.amcas 25 14 3 1 1 2 3)),
   (0x2B2E1CAB, (.amadd 25 14 3 1 1 2 3)),
   (0x2B2E1CEB, (.amand 25 14 3 1 1 2 3)),
   (0x2A47E52D, (.amor 18 7 28 1 1 3 1)),
   (0x2B2E1D6B, (.amxor 25 14 3 1 1 2 3)),
   (0x2B2E1DAB, (.ammin 25 14 3 1 1 2 3)),
   (0x2B2E1DEB, (.ammax 25 14 3 1 1 2 3)),
   (0x28355626, (.amminu 1 21 10 1 1 1 2)),
   (0x28355666, (.ammaxu 1 21 10 1 1 1 2)),
   (0x2807E69B, (.waddF64 7 28 1 6 3)),
   (0x2807E6DB, (.waddF32 7 28 1 6 3)),
   (0x2807E71B, (.waddF16 7 28 1 6 3)),
   (0x280E1F56, (.waddBf16 14 3 1 5 2)),
   (0x2807E79B, (.waddI64 7 28 1 6 3)),
   (0x296107FD, (.wrd 11 1 1 1 7 1))] = true := by decide

theorem test_decode_major_11 : reads
  [(0x2C000004, (.fence 1)),
   (0x2C123860, (.bind 18 7 1)),
   (0x2C010080, (.unbind 1)),
   (0x2C1550E0, (.sealRange 21 10)),
   (0x2C03C120, (.unsealRange 3 24)),
   (0x2F2E1960, (.binit 25 14 3 1)),
   (0x2E4701A4, (.arrb 18 7 1 1)),
   (0x2C01A9FC, (.waitph 1 21 1 7))] = true := by decide

theorem test_decode_major_12 : reads
  [(0x3121FC30, (.vadd 18 7 60 1 1)),
   (0x3121FC31, (.vsub 18 7 60 1 1)),
   (0x31938332, (.vadds 25 14 3 1 1)),
   (0x31938333, (.vsubs 25 14 3 1 1)),
   (0x3121FC34, (.vmin 18 7 60 1 1)),
   (0x3121FC35, (.vmax 18 7 60 1 1)),
   (0x3121FC36, (.vmul 18 7 60 1 1)),
   (0x31938337, (.vmulh 25 14 3 1 1)),
   (0x3121FC38, (.vand 18 7 60 1 1)),
   (0x30B07559, (.vor 11 1 53 2 1)),
   (0x3121FC3A, (.vxor 18 7 60 1 1)),
   (0x3193833B, (.vandn 25 14 3 1 1)),
   (0x3121FC3C, (.vsll 18 7 60 1 1)),
   (0x3121FC3D, (.vsrl 18 7 60 1 1)),
   (0x3121FC3E, (.vsra 18 7 60 1 1)),
   (0x3021FC3F, (.vcmp 2 7 60 1 1))] = true := by decide

theorem test_decode_major_13 : reads
  [(0x35938330, (.vfadd 25 14 3 1 1)),
   (0x35938331, (.vfsub 25 14 3 1 1)),
   (0x35938332, (.vfmul 25 14 3 1 1)),
   (0x35938333, (.vfmin 25 14 3 1 1)),
   (0x35938334, (.vfmax 25 14 3 1 1)),
   (0x35938335, (.vfdiv 25 14 3 1 1)),
   (0x36054046, (.vfsqrt 32 21 2)),
   (0x36770027, (.vfrsqrt 39 28 1)),
   (0x36054048, (.vfexp2 32 21 2)),
   (0x36054049, (.vflog2 32 21 2)),
   (0x3593806A, (.vfneg 25 14 3)),
   (0x3593806B, (.vfabs 25 14 3)),
   (0x3413833C, (.vfcmp 1 14 3 1 1))] = true := by decide

theorem test_decode_major_14 : reads
  [(0x3921FC30, (.vfma 18 7 60 1 1)),
   (0x39938331, (.vfnma 25 14 3 1 1)),
   (0x3A054AF2, (.vfmsub 32 21 10 7 1)),
   (0x39938333, (.vfmaw 25 14 3 1 1)),
   (0x3921FC34, (.vmac 18 7 60 1 1)),
   (0x39938335, (.vmacw 25 14 3 1 1))] = true := by decide

theorem test_decode_major_15 : reads
  [(0x3D21E665, (.vcvt 18 7 4 1 2 3 1 1))] = true := by decide

theorem test_decode_major_16 : reads
  [(0x42054A00, (.vgf2mm 32 21 10)),
   (0x41938301, (.vpdep 25 14 3)),
   (0x41938302, (.vpext 25 14 3)),
   (0x42054A03, (.vbperm 32 21 10)),
   (0x41938004, (.vpopc 25 14))] = true := by decide

theorem test_decode_major_17 : reads
  [(0x45938320, (.vperm 25 14 3 1)),
   (0x46001541, (.vbcast 32 21 2)),
   (0x467711C2, (.vbcaste 39 28 17 6)),
   (0x46E8D8A3, (.vslideup 46 35 24 5)),
   (0x46E8D8A4, (.vslidedn 46 35 24 5)),
   (0x4521DC25, (.vins 18 7 28 1)),
   (0x4521DC26, (.vext 18 7 28 1)),
   (0x4521FC27, (.vilv 18 7 60 1)),
   (0x45938328, (.vdilv 25 14 3 1))] = true := by decide

theorem test_decode_major_18 : reads
  [(0x48770020, (.vredsum 7 28 1)),
   (0x48770021, (.vredmin 7 28 1)),
   (0x48770022, (.vredmax 7 28 1)),
   (0x48770023, (.vredand 7 28 1)),
   (0x48154044, (.vredor 1 21 2)),
   (0x48770025, (.vredxor 7 28 1)),
   (0x48E8C028, (.vfredsum 14 35 1)),
   (0x48E8C029, (.vfredmin 14 35 1)),
   (0x48E8C02A, (.vfredmax 14 35 1)),
   (0x495A80EB, (.vfredmaxa 21 42 7))] = true := by decide

theorem test_decode_major_19 : reads
  [(0x4C102A00, (.qsinit 1 21)),
   (0x4C000201, (.hhinit 1)),
   (0x4C102A02, (.dcinit 1 21)),
   (0x4C065CC4, (.qsadd 25 14 3)),
   (0x4C065CC5, (.hhadd 25 14 3)),
   (0x4E055546, (.hhaddw 32 21 10)),
   (0x4C065CC7, (.dcadd 25 14 3)),
   (0x4D901C08, (.qsmrg 25 14)),
   (0x4D901C09, (.hhmrg 25 14)),
   (0x4D901C0A, (.dcmrg 25 14)),
   (0x4C77220C, (.qsquant 7 28 17)),
   (0x4D93860D, (.hhtop 25 14 3)),
   (0x4D901C0E, (.dcest 25 14))] = true := by decide

theorem test_decode_major_20 : reads
  [(0x50B090EA, (.vld 11 1 1 234)),
   (0x512393A6, (.vldB 18 7 1 1 422)),
   (0x5123D0F1, (.vldg 18 7 1 241)),
   (0x519773AD, (.vldgB 25 14 3 1 429))] = true := by decide

theorem test_decode_major_21 : reads
  [(0x54B090EA, (.vst 11 1 1 234)),
   (0x5523C03C, (.vstg 18 7 60))] = true := by decide

theorem test_decode_major_22 : reads
  [(0x59973568, (.vgath 25 14 3 2 45)),
   (0x59973968, (.vscat 25 14 3 4 45)),
   (0x5A0AE5A0, (.vgathg 32 21 2 2 52)),
   (0x5A0AC9F8, (.vscatg 32 21 4 63))] = true := by decide

theorem test_decode_major_23 : reads
  [(0x5C35004A, (.mxcall 1 21 74)),
   (0x5C200105, (.mxparm 1 5)),
   (0x5C35020A, (.mxrcfg 1 21 10)),
   (0x5CE0030C, (.mxrpush 7 12)),
   (0x5CE0040C, (.mxrstat 7 12)),
   (0x5F200583, (.mxrda 25 2 3)),
   (0x5F200683, (.mxwra 25 2 3)),
   (0x5C0007E0, (.mxdset 224)),
   (0x5C0008E0, (.mxdclr 224)),
   (0x5F200900, (.mxdrd 25)),
   (0x5F2E0A00, (.mxuld 25 14))] = true := by decide

theorem test_decode_major_24 : reads
  [(0x60200005, (.ldgeom 1 5)),
   (0x60200105, (.stgeom 1 5)),
   (0x632E0238, (.cpyin 25 14 3 8)),
   (0x603503A0, (.cpyout 1 21 10)),
   (0x60FC0410, (.cpyloop 7 28 1)),
   (0x60E00500, (.wtagAll 7)),
   (0x60E00600, (.wtagAny 7)),
   (0x61600701, (.ffr 11 1)),
   (0x62400807, (.tcnt 18 7))] = true := by decide

theorem test_decode_major_25 : reads
  [(0x6647003C, (.coll 18 7 60)),
   (0x672E0100, (.crank 25 14)),
   (0x64350180, (.crankg 1 21)),
   (0x67200200, (.cplan 25))] = true := by decide

theorem test_decode_major_26 : reads
  [(0x6A400007, (.send 18 7)),
   (0x6B20010E, (.sendv 25 14)),
   (0x6847021C, (.recv 2 7 28)),
   (0x692E0303, (.recvv 9 14 3)),
   (0x68000401, (.arrive 1)),
   (0x68000502, (.wait 2)),
   (0x6A43063C, (.nstv 18 3 60))] = true := by decide

theorem test_decode_major_27 : reads
  [(0x6E470000, (.pcfg 18 7)),
   (0x6F2E0103, (.probe 25 14 3)),
   (0x6F2E0203, (.plook 25 14 3)),
   (0x6C120300, (.pinv 18)),
   (0x6C000400, .pinva),
   (0x6CFC1011, (.haulset 7 28 17)),
   (0x6C001100, .haulend),
   (0x6F201200, (.blaze 25)),
   (0x6CFC1311, (.migrate 7 28 17)),
   (0x6DC01400, (.haulstat 14))] = true := by decide

theorem test_decode_major_28 : reads
  [(0x70350000, (.tagset 1 21)),
   (0x70FC0100, (.tagsetz 7 28)),
   (0x70200215, (.tagget 1 21))] = true := by decide

theorem test_decode_major_29 : reads
  [(0x74200000, (.dtrace 1)),
   (0x7720010E, (.lpcrd 25 14)),
   (0x772E0200, (.dinjA 25 14)),
   (0x772E0303, (.dinjM 25 14 3)),
   (0x74350306, (.dinjgM 1 21 2)),
   (0x74000400, .dbrk)] = true := by decide

/-! ### States for the tests

`base` is a running primary stream of core 0 before a one-syllable bundle at 0x1000, and `regs` fills its scalar registers. -/

def base : State :=
  { State.reset with str := { State.reset.str with mode := .running, pc := 0x1000, len := 1 }
                     core := { State.reset.core with lcPart := .issue, run := .live } }

def regs (xs : List (Nat × Word)) (s : State := base) : State :=
  s.onStr fun t => { t with x := xs.foldl (fun v p => vset v p.1 p.2) t.x }

/-- The same stream as the secondary one. -/
def second (s : State) : State := s.onStr fun t => { t with sec := true }

/-- The results on their way: what each changes, in how many lc, with which flags. -/
def results (i : Instr) (s : State) : List (Target × Nat × Flg) :=
  match exec i s with
  | .next t => t.str.pend.map fun p => (p.target, p.left, p.flags)
  | _ => []

/-- The code and sub-code of the exception that `i` takes. -/
def stopOf (i : Instr) (s : State) : Option (BitVec 8 × BitVec 16) :=
  match exec i s with
  | .next t => t.str.stopRec.map fun r => (r.trap.code, r.trap.sub)
  | _ => none

/-! ### Results worked out by hand -/

/-- 04 Table 2: wraps modulo 2^64; a shift by 64 or more leaves 0 or the sign; adds clamps with SA (4). -/
theorem test_integer_forms : let s := regs [(2, 0x8000000000000000), (3, 64), (4, 0xFFFFFFFFFFFFFFFF), (5, 5)]
    results (.sub 1 5 3) s = [(.x 1 0xFFFFFFFFFFFFFFC5, 1, 0)] ∧ results (.sll 1 4 3) s = [(.x 1 0, 1, 0)] ∧
    results (.sra 1 2 3) s = [(.x 1 0xFFFFFFFFFFFFFFFF, 1, 0)] ∧ results (.adds 1 2 4) s = [(.x 1 0x8000000000000000, 1, 4)] ∧
    results (.subs 1 5 3) s = [(.x 1 0xFFFFFFFFFFFFFFC5, 1, 0)] ∧ results (.cmplt 6 4 5) s = [(.p 6 true, 1, 0)] ∧
    results (.cmpltu 6 4 5) s = [(.p 6 false, 1, 0)] := by decide

/-- 04 Table 3: i12 sign-extended in ADDI, zero-extended in ORI; SHLOR shifts by 12. -/
theorem test_immediate_forms : let s := regs [(2, 0x10)]
    results (.addi 1 2 0xFFF) s = [(.x 1 0xF, 1, 0)] ∧ results (.ori 1 2 0xFFF) s = [(.x 1 0xFFF, 1, 0)] ∧
    results (.shlor 1 2 0xABC) s = [(.x 1 0x10ABC, 1, 0)] ∧ results (.movi 1 0x800) s = [(.x 1 0xFFFFFFFFFFFFF800, 1, 0)] := by decide

/-- 04 Table 4, R119, R120: the high product, the corners of division with NV (1), a field cut at bit 63. -/
theorem test_multiply_and_divide : let s := regs [(2, 0x8000000000000000), (3, 0xFFFFFFFFFFFFFFFF), (4, 0), (5, 0x3C3C), (6, 60 + 8 * 256)]
    results (.mulh 1 2 3) s = [(.x 1 0, 3, 0)] ∧ results (.mulhu 1 2 3) s = [(.x 1 0x7FFFFFFFFFFFFFFF, 3, 0)] ∧
    results (.div 1 2 3) s = [(.x 1 0x8000000000000000, 12, 0)] ∧ results (.rem 1 2 4) s = [(.x 1 0x8000000000000000, 12, 1)] ∧
    results (.extu 1 3 6) s = [(.x 1 0xF, 3, 0)] ∧ results (.exts 1 2 6) s = [(.x 1 0xFFFFFFFFFFFFFFF8, 3, 0)] ∧
    results (.clz 1 5) s = [(.x 1 50, 3, 0)] ∧ results (.bswap 1 5) s = [(.x 1 0x3C3C000000000000, 3, 0)] := by decide

/-- 04 Table 5; 02 R55, R66: 1 + 2^-24 in binary32 rounds to even with NX (16), 0 / 0 is the canonical NaN with NV, a sum past the
range is an infinity with OF and NX (18). -/
theorem test_scalar_float : let s := regs [(2, 0x3F800000), (3, 0x33800000), (4, 0), (5, 0x7F7FFFFF)]
    results (.fadd 1 2 3 0 1) s = [(.x 1 0x3F800000, 4, 16)] ∧ results (.fadd 1 2 3 2 1) s = [(.x 1 0x3F800001, 4, 16)] ∧
    results (.fdiv 1 4 4 5 1) s = [(.x 1 0x7FC00000, 12, 1)] ∧ results (.fadd 1 5 5 0 1) s = [(.x 1 0x7F800000, 4, 18)] ∧
    results (.fcvti 1 2 0 1 1) s = [(.x 1 1, 4, 0)] ∧ results (.fneg 1 2 1) s = [(.x 1 0xBF800000, 4, 0)] := by decide

/-- 04 R128, R130: T = 0 pushes nothing; a fifth entry is fault 0x01, sub-code 1; an end before the body, sub-code 2. -/
theorem test_loop_faults :
    let l : Loop := { body := 0x1004, last := 0x1010, rem := 1, n := 1, s := 1, rot := false }
    let full := (regs [(2, 1)]).onStr fun t => { t with loops := [l, l, l, l] }
    stopOf (.loop 2 4) full = some (0x01, 1) ∧ stopOf (.loop 2 0) (regs [(2, 1)]) = some (0x01, 2) ∧
    stopOf (.loop 2 4) (regs [(2, 1)]) = none := by decide

/-- 04 R135: a push onto 16 entries and a pop at depth 1. -/
theorem test_mask_stack_faults : let deep := base.onStr fun t => { t with masks := List.replicate 16 0 }
    stopOf .mdup deep = some (0x01, 3) ∧ stopOf .mpop base = some (0x01, 4) ∧ stopOf .melse base = some (0x01, 4) ∧
    results .mpushAll base = [(.mask (.push (BitVec.allOnes 1024)), 1, 0)] := by decide +kernel

/-- 04 R141, Table 13: LCC and VCC may not be read in the secondary stream; SPB below 128. -/
theorem test_csr_limits : let s := regs [(2, 128), (3, 127)]
    stopOf (.csrr 1 0x00) (second s) = some (0x03, 0) ∧ stopOf (.csrw 2 0x08) s = some (0x04, 0) ∧
    results (.csrw 3 0x08) s = [(.csr 0x08 127, 1, 0)] ∧ results (.csrr 1 0x11) s = [(.x 1 1440, 1, 0)] := by decide

/-! ### Witnesses: for each statement, states and operands that meet its hypotheses -/

theorem wit_ZeroRegisters : (1 : BitVec 5) ≠ 0 ∧ (31 : BitVec 5) ≠ 0 ∧ (15 : BitVec 4) ≠ 0 := by decide
theorem wit_VectorLandsUnderMask : (0 : BitVec 6) ≠ 63 ∧ (63 : BitVec 6) ≠ 0 := by decide
theorem wit_MaskStackDepth : let m : List MaskEntry := List.replicate 16 0
    1 ≤ m.length ∧ m.length ≤ 16 ∧ (MaskOp.depth .pop m.length).toOption = some 15 ∧
    (MaskOp.depth .dup m.length).toOption = none ∧ (MaskOp.depth .pop ([0] : List MaskEntry).length).toOption = none := by decide
theorem wit_MaskStackEffects : ([] : List MaskEntry).length < 15 ∧ (List.replicate 14 (0 : MaskEntry)).length < 15 := by decide
theorem wit_SaturatingResults : let s := regs [(2, 0x7FFFFFFFFFFFFFFF), (3, 1), (4, 0x8000000000000000)]
    (2 ^ 63 : Int) = (s.rx 2).toInt + (s.rx 3).toInt ∧ (-2 ^ 63 - 1 : Int) = (s.rx 4).toInt - (s.rx 3).toInt := by decide
theorem wit_MultiplyAndBitResults : let s := regs [(2, 1), (3, 0x8000000000000000)]
    (∀ k, k < 64 → (s.rx 0).getLsbD (63 - k) = false) ∧ (∀ k, k < 63 → (s.rx 2).getLsbD (63 - k) = false) ∧
    (s.rx 2).getLsbD (63 - 63) = true ∧ (∀ k, k < 63 → (s.rx 3).getLsbD k = false) ∧ (s.rx 3).getLsbD 63 = true := by decide
theorem wit_DivisionResults : let s := regs [(2, BitVec.intMin 64), (3, BitVec.allOnes 64)]
    s.rx 3 ≠ 0 ∧ s.rx 0 = 0 ∧ s.rx 2 = BitVec.intMin 64 ∧ s.rx 3 = BitVec.allOnes 64 := by decide
theorem wit_BitFieldResults : let s := regs [(2, 63 + 63 * 256)]
    63 = (s.rx 2).toNat % 64 ∧ 1 = min (if (s.rx 2).toNat / 256 % 64 = 0 then 64 else (s.rx 2).toNat / 256 % 64) (64 - 63) := by decide
theorem wit_ScalarFloatResults : ((3 : BitVec 3).toNat ≤ 3 ∧ Rnd.rdn = rndOf (3 : BitVec 3).toNat) ∧ Rnd.rne = base.rnd := by decide
theorem wit_ScalarConversions : (4 : BitVec 3).toNat ≤ 5 ∧ (0 : BitVec 2) ≠ 1 ∧ (fmtOfScalar 1).width < (fmtOfScalar 0).width ∧
    (fmtOfScalar 3).width ≤ (fmtOfScalar 2).width ∧ (base.onStr fun t => { t with rmode := 4 }).str.sr = true ∧
    base.str.ent = false ∧ (fmtOfScalar 1).width ≤ (fmtOfScalar 0).width := by decide
theorem wit_FormatCodes : 0x7F80 < 2 ^ BF16.width ∧ (fdecode BF16 0x7F80).isNaN = false ∧
    (fdecode E4M3 (faddV E4M3 .rne (.inf false) (.inf true)).1).isNaN = true := by decide
theorem wit_Branches : base.str.loops.length ≤ 4 ∧
    decide ((regs [(2, 5)]).rx 2 = (regs [(2, 5)]).rx 0) = false ∧ base.rp 0 = true ∧
    ((regs [(2, 0x2000)]).rx 2 + (1 : BitVec 16).signExtend 64 * 4).toNat % 4 = 0 ∧
    ((regs [(2, 0x2001)]).rx 2 + (1 : BitVec 16).signExtend 64 * 4).toNat % 4 ≠ 0 := by decide

/-- An image of two words at 0x1000, the second of which ends its bundle. -/
def twoWords : Core → Core := fun k => { k with images := [(0x1000, [0x00000000, 0x80000000])] }
theorem wit_LoopEntry :
    let s := (regs [(2, 0x100000001), (3, 0)]).onCore twoWords
    1 = (s.rx 2).toNat % 2 ^ 32 ∧ 0 = (s.rx 3).toNat % 2 ^ 32 ∧ (0x1004 : Word) = s.str.pc + (1 : BitVec 16).signExtend 64 * 4 ∧
    s.str.loops.length < 4 ∧ s.str.pc + BitVec.ofNat 64 (4 * s.str.len) ≤ 0x1004 ∧
    s.core.word (0x1004 + BitVec.ofNat 64 (4 * 0)) = some 0x80000000 ∧ (0x80000000 : BitVec 32).getLsbD 31 = true ∧
    (0x1000 : Word) = s.str.pc + (0 : BitVec 16).signExtend 64 * 4 ∧ (0x1000 : Word) < s.str.pc + BitVec.ofNat 64 (4 * s.str.len) ∧
    4 ≤ (List.replicate 4 (loopEntry s 0x1004 1 1 1 false)).length := by decide
theorem wit_LoopControl : let l : Loop := { body := 0x1000, last := 0x1000, rem := 2, n := 2, s := 1, rot := true }
    let s := base.onStr fun t => { t with loops := [l] }
    s.str.loops = l :: [] ∧ s.str.pc ≤ l.last ∧ l.last < s.str.pc + BitVec.ofNat 64 (4 * s.str.len) ∧ 1 < l.rem ∧
    ¬((0x1004 : Word) ≤ l.last) := by decide
theorem wit_LoopRotation :
    let t := { base.str with pend := [{ target := .v 63 0 0, left := 1 }, { target := .v 31 0 0, left := 1 }] }
    (t.pend[0]?.map Pending.target) = some (.v 63 0 0) ∧ (t.pend[1]?.map Pending.target) = some (.v 31 0 0) := by decide +kernel
theorem wit_MaskStackForms : base.str.maskDepth 1 < 16 ∧ base.str.maskDepth 1 ≤ 1 ∧ base.str.pend = [] ∧
    1 < { base.str with masks := [0, 0] }.maskDepth 1 ∧ 16 ≤ { base.str with masks := List.replicate 16 0 }.maskDepth 1 := by decide
theorem wit_GuardsAndCounts : base.rp 0 = true ∧ base.rp 5 = false ∧ (255 : BitVec 8) ≠ 0 ∧
    (base.onStr fun t => { t with skipTest := some 255 }).str.skipTest = some (255 : BitVec 8).toNat ∧
    (let q : Placed := { slot := some 1, major := 1, op := some (.add 1 2 3) }
     q.good = some (.add 1 2 3) ∧ q.squashed 2 = true) := by decide
theorem wit_ControlRegisters : csrListed 0x00 = true ∧ csrListed 0x18 = true ∧ (second base).str.sec = true ∧ (1 : BitVec 8).toNat < 2 ∧
    base.csrTimed 0x08 = false ∧ base.csrTimed 0x18 = true ∧ (base.str.sec = true → 2 ≤ (0 : BitVec 8).toNat) := by decide
theorem wit_SystemForms : base.core.free = false ∧ 64 ≤ ((regs [(2, 64)]).rx 2).toNat ∧ ((regs [(2, 63)]).rx 2).toNat < 64 ∧
    base.core.clog = [] ∧ base.core.clogOvf = false ∧
    (let c : Cause := { code := 5, baddr := 0, sec := false, count := 1 }
     (base.onCore fun k => { k with clog := [c] }).core.clog[0]? = some c) := by decide
theorem wit_EndAndDrain : (∀ t < 64, (base.core.tag t).st ≠ .outstanding ∧ (base.core.tag t).fresh = false) ∧ base.core.plan = none ∧
    base.core.seq = none ∧ base.core.cmdq = [] ∧ base.core.localEnd = 0 ∧ base.unperformed = false ∧ base.str.sec = false ∧
    (base.onCore fun k => { k with localEnd := 3 }).core.localEnd ≠ 0 := by decide +kernel
theorem wit_SyllablesRoundTrip : encodeOp (.addi 5 0 3) = some 0x08A00003 ∧ legal (.addi 5 0 3) = true := by decide
theorem wit_MicroOpsAndEntriesRoundTrip : encodeMicro .mnext = some (13 * 2 ^ 59) ∧ encodeEntry (.queueReturn 63) = some 6 ∧
    entryQueue (.queueReturn 63) = some 63 := by decide
theorem wit_IllegalSyllablesTrap : (encodeOp (.mskip 0)).isSome = true ∧ legal (.mskip 0) = false := by decide

/-- A word that ends its bundle, at the PC of `base`. -/
def fetched (w : BitVec 32) : State := base.onCore fun k => { k with images := [(0x1000, [w])] }
theorem fetched_at_issue (w : BitVec 32) : (fetched w).AtIssue := by
  have h : base.dbgen = false := by decide +kernel
  constructor <;> first | rfl | exact h
theorem wit_StepRunsInstruction : let s := fetched 0x88A00003
    s.core.word s.str.pc = some 0x88A00003 ∧ (0x88A00003 : BitVec 32).getLsbD 31 = true ∧
    decodeOp (0x88A00003 : BitVec 32).toNat = some (.addi 5 0 3) ∧ legal (.addi 5 0 3) = true ∧
    (place 0xFF [decodeSyllable 0x88A00003]).isSome = true ∧ stopOf (.addi 5 0 3) s.inHand = none ∧
    s.inHand.str.held = false ∧ s.overBounds = false := by decide
theorem wit_StepTakesException : let s := fetched (BitVec.ofNat 32 ((encodeOp .dbrk).getD 0 + 2 ^ 31))
    (encodeOp .dbrk).isSome = true ∧ s.core.word s.str.pc = some (BitVec.ofNat 32 ((encodeOp .dbrk).getD 0 + 2 ^ 31)) ∧
    decodeOp ((encodeOp .dbrk).getD 0 + 2 ^ 31) = some .dbrk ∧ stopOf .dbrk s.inHand = some (0x17, 4) := by decide
theorem wit_ExceptionEntry : base.core.lock = false ∧ (0x05 : BitVec 8) ≠ 0x11 := by decide
theorem wit_StepAnswers : State.reset.inbox.head? = none ∧ isInput 255 (.linkRetry 3) = true ∧ isInput 0 (.add 1 2 3) = false := by decide +kernel
theorem wit_SyllablesWriteAtLanding : (encodeOp (.add 1 2 3)).isSome = true ∧ results (.add 1 2 3) base ≠ [] := by decide
theorem wit_StepKeepsCanonicalMemory : State.reset.canonical = true := by decide +kernel
theorem wit_MemoriesAreData : Memory.wf [(5, 1), (2 ^ 57, 255)] = true ∧ Memory.wf [] = true ∧
    (5 ≤ 6 ∧ 6 < 5 + [(1 : Byte), 2].length) := by decide

/-- Bytes 1, 2, 3 and on at the start of the pool and of device memory, and every page of function 0 below 1 GiB cached, with all
rights (leaf 0xF). -/
def ramp : Memory := (List.range 600).map fun k => (k, BitVec.ofNat 8 (k % 255 + 1))
def mapped (xs : List (Nat × Word)) (s : State := base) : State :=
  let r := regs xs s
  { r with core := { r.core with spad := ramp }
           pkg := { r.pkg with dev := ramp, tlb := [{ fn := 0, base := 0, size := 2 ^ 30, leaf := 0xF, ctr := 0 }] } }

theorem free_of {s : State} {rs : List (Nat × Nat)} (h : (s.lheld rs = false ∧ s.core.poison = [] ∧ s.core.watch = [] ∧
    ∀ r ∈ rs, s.watched false (r.1 - s.str.spb.toNat % 128 * Config.bankBytes) r.2 = none) ∧ s.core.marks = []) : s.Free rs := by
  obtain ⟨⟨h1, h2, h3, h4⟩, h5⟩ := h
  refine ⟨h1, fun _ _ _ h => ?_, fun _ _ _ h => ?_, h4, fun _ _ _ _ => ?_⟩
  · rw [h2] at h; cases h
  · rw [h3] at h; cases h
  · rw [h5]; exact List.not_mem_nil

theorem reaches_by {s : State} {n : Need} {rs : List (Word × Nat)} (hr : s.Ready n rs)
    (h : ((∀ p ∈ pagesOf rs, (s.pkg.cached s.core.fn (bits p.1.toNat 56 0)).isSome = true) ∧
    s.str.gq = [] ∧ s.pkg.rangesFault s.core.fn n rs = none ∧ (∀ r ∈ rs, s.watched true (bits r.1.toNat 56 0) r.2 = none) ∧ s.str.binds = []) ∧
    s.pkg.tlb.all (fun e => !leafBit e.leaf 7 && !leafBit e.leaf 6 && leafTier e.leaf != 2) = true ∧
    (∀ p ∈ pagesOf rs, bits p.1.toNat 59 57 = 0)) : s.Reaches n rs := by
  obtain ⟨⟨h1, h2, h3, h4, h5⟩, h6, h7⟩ := h
  have look : ∀ p ∈ pagesOf rs, ∀ e, s.pkg.translate s.core.fn p.1 = .ok e → e ∈ s.pkg.tlb := fun p hp e he => by
    have hc := h1 p hp
    unfold Package.translate at he
    rw [if_neg (by simp [h7 p hp])] at he
    cases hx : s.pkg.cached s.core.fn (bits p.1.toNat 56 0) with
    | none => rw [hx] at hc; cases hc
    | some y => rw [hx] at he; cases he; exact List.mem_of_find?_eq_some hx
  refine ⟨h1, hr, ?_, fun o ho => ?_, h3, fun p hp e he => ?_, h4, fun _ _ => ?_, fun r hr p hp => ?_⟩
  · rw [State.acquiring, Stream.acquiring, h2]; rfl
  · rw [h2] at ho; cases ho
  · have := List.all_eq_true.mp h6 e (look p hp e he)
    simp_all
  · rw [State.touchesObject, h5]; rfl
  · obtain ⟨q, hq, hp⟩ := List.mem_flatMap.mp hp
    cases he : s.pkg.translate s.core.fn q.1 with
    | error => rw [he] at hp; cases hp
    | ok e =>
      rw [he] at hp
      obtain ⟨i, -, rfl⟩ := List.mem_map.mp hp
      have := List.all_eq_true.mp h6 e (look q (List.mem_flatMap.mpr ⟨r, hr, hq⟩) e he)
      have ht : leafTier e.leaf ≠ 2 := by simp_all
      simp [Package.unreachable, PAddr.plus, Package.phys]
      exact fun h => absurd h ht

theorem reaches_of {s : State} {n : Need} {rs : List (Word × Nat)} (h : ((∀ p ∈ pagesOf rs, (s.pkg.cached s.core.fn (bits p.1.toNat 56 0)).isSome = true) ∧
    (s.str.xlate = none ∧ s.str.gq = []) ∧ s.pkg.rangesFault s.core.fn n rs = none ∧ (∀ r ∈ rs, s.watched true (bits r.1.toNat 56 0) r.2 = none) ∧ s.str.binds = []) ∧
    s.pkg.tlb.all (fun e => !leafBit e.leaf 7 && !leafBit e.leaf 6 && leafTier e.leaf != 2 && !leafBit e.leaf 5) = true ∧
    (∀ p ∈ pagesOf rs, bits p.1.toNat 59 57 = 0)) : s.Reaches n rs := by
  obtain ⟨⟨h1, ⟨hx, h2⟩, h3, h4, h5⟩, h6, h7⟩ := h
  refine reaches_by (.inl ⟨hx, fun p hp => ?_⟩) ⟨⟨h1, h2, h3, h4, h5⟩, ?_, h7⟩
  · unfold Package.lookup
    cases hy : s.pkg.cached s.core.fn (bits p.1.toNat 56 0) with
    | none => have hc := h1 p hp; rw [hy] at hc; cases hc
    | some e =>
      have := List.all_eq_true.mp h6 e (List.mem_of_find?_eq_some hy)
      simp_all [Need.keyed]
  · refine List.all_eq_true.mpr fun e he => ?_
    have := List.all_eq_true.mp h6 e he
    simp_all

/-! ### Memory, atomics and vectors -/

theorem wit_ScratchpadAccess : let s := mapped [(2, 64), (5, 65), (6, 0x400000)]
    s.Free [(64, 8)] ∧ ((s.rx 2).toNat % 8 = 0 ∧ s.core.inBounds s.str.spb (s.rx 2) 8 = true ∧ s.touchesObject false 64 8 = false ∧
      (s.rx 5).toNat % 8 ≠ 0 ∧ (s.rx 6).toNat % 8 = 0 ∧ s.core.inBounds s.str.spb (s.rx 6) 8 = false) := by
  refine ⟨free_of ?_, ?_⟩ <;> decide +kernel
theorem wit_StoreEffectWrites : let e : StoreEff := { cells := [(5, 0), (5, 2)], left := 0, seq := 0 }
    (mapped []).core.spad.wf = true ∧ e.xor = false := by decide +kernel
theorem wit_GlobalAccess : let s := mapped [(2, 64), (5, 65)]
    s.Reaches { r := true } [(s.rx 2, 8)] ∧ s.Reaches { w := true } [(s.rx 2, 8)] ∧ ((s.rx 2).toNat % 8 = 0 ∧ (s.rx 5).toNat % 8 ≠ 0) := by
  refine ⟨reaches_of ?_, reaches_of ?_, ?_⟩ <;> decide +kernel
/-- The same pages under another leaf. -/
def leafed (l : Word) (s : State) : State :=
  s.onPkg fun k => { k with tlb := [{ fn := 0, base := 0, size := 2 ^ 30, leaf := l, ctr := 0 }] }
theorem wit_GlobalAccessFaults : let s := leafed 0x1 (mapped [(2, 64)])
    (s.str.xlate = none ∧ (∀ p ∈ pagesOf [(s.rx 2, 8)], s.pkg.lookup s.core.fn { r := true } p.1 = false ∧
      s.pkg.lookup s.core.fn { w := true } p.1 = false)) ∧ s.acquiring true [(64, 8)] = false ∧
    (s.pkg.rangesFault s.core.fn { r := true } [(s.rx 2, 8)]).isSome = true ∧
    (s.pkg.rangesFault s.core.fn { w := true } [(s.rx 2, 8)]).isSome = true := by decide +kernel
theorem wit_PerformedWrites : ∀ c ∈ [(({ tier := 0, addr := 5 } : PAddr), (0 : Byte))], c.1.tier = 0 := by decide
theorem wit_AtomicFunctions : 2 ^ 32 - 1 < 2 ^ 32 ∧ 2 ^ 64 - 1 < 2 ^ 64 := by decide
theorem wit_ScratchpadAtomics : let s := mapped [(2, 64)]
    s.Free [(64, 8)] ∧ ((s.rx 2).toNat % 8 = 0 ∧ s.core.inBounds s.str.spb (s.rx 2) 8 = true ∧ s.unperformed = false ∧
      s.unacquired = false) := by
  refine ⟨free_of ?_, ?_⟩ <;> decide +kernel
theorem wit_GlobalAtomics : let s := mapped [(2, 64)]
    s.Reaches { r := true, w := true } [(s.rx 2, 8)] ∧ ((s.pkg.physOf s.core.fn (s.rx 2) 8).head? = some { tier := 0, addr := 64 } ∧
      s.unperformed = false ∧ s.unacquired = false ∧ ∀ op < 10, tierFault s.core.fn (s.rx 2) op s.pkg = none) := by
  refine ⟨reaches_of ?_, ?_⟩ <;> decide +kernel
theorem wit_AtomicTiers : let at_ (l : Word) := ((leafed l (mapped [])).pkg.translate 0 64).toOption.map fun e => (leafTier e.leaf).toNat
    at_ 0xF = some 0 ∧ at_ 0x10F = some 1 ∧ at_ 0x20F = some 2 := by decide +kernel
theorem wit_WideCells : let s := mapped [(2, 64)]
    (s.Free [(64, 16)] ∧ s.Reaches { r := true, w := true } [(s.rx 2, 16)]) ∧
    ((s.rx 2).toNat % 16 = 0 ∧ s.core.inBounds s.str.spb (s.rx 2) 16 = true ∧ s.unperformed = false ∧ s.unacquired = false ∧
      (s.pkg.physOf s.core.fn (s.rx 2) 16).head? = some { tier := 0, addr := 64 } ∧
      ∀ op < 16, tierFault s.core.fn (s.rx 2) op s.pkg = none) := by
  refine ⟨⟨free_of ?_, reaches_of ?_⟩, ?_⟩ <;> decide +kernel
theorem wit_VectorIntegerResults : vbLegal 63 0 = true ∧ vbLegal 31 1 = true ∧ legal (.vmacw 4 8 9 0 0) = true := by decide
/-- The same stream with another mask stack. -/
def masked (m : List MaskEntry) (s : State) : State := s.onStr fun t => { t with masks := m }
theorem wit_VectorCompares : vbLegal 63 0 = true ∧ vfpType 5 = true ∧ base.str.maskDepth 2 < 16 ∧ base.str.maskDepth 5 < 16 ∧
    16 ≤ (masked (List.replicate 16 0) base).str.maskDepth 2 ∧ 16 ≤ (masked (List.replicate 16 0) base).str.maskDepth 5 := by decide
theorem wit_VectorFloatResults : vbLegal 9 0 = true ∧ vfpType 2 = true ∧ (2 : BitVec 3).toNat < 3 ∧ (62 : BitVec 6).toNat % 2 = 0 := by decide
theorem wit_VectorConversions : legal (.vcvt 4 8 0 0 1 6 0 0) = true ∧ legal (.vcvt 4 8 5 0 0 0 1 0) = true ∧
    cvtExact 0 0 1 = false ∧ legal (.vcvt 4 8 5 0 0 1 0 0) = true ∧ cvtExact 0 1 0 = true ∧ legal (.vcvt 4 8 4 0 0 0 1 0) = true ∧
    base.str.ent = false := by decide
theorem wit_PermuteResults : (4 : BitVec 3).toNat < 5 ∧ 0 < (3 : BitVec 3).toNat ∧ (3 : BitVec 3).toNat < 4 ∧
    (62 : BitVec 6).toNat % 2 = 0 ∧ (63 < 4096 / permWidth 3 ∧ 63 = ((regs [(2, 63)]).rx 2).toNat) := by decide
theorem wit_ReductionResults :
    let vals (s : State) := ((List.range (4096 / fpWidth 2)).filter (s.active (fpWidth 2))).map fun i =>
      widen64 (fmtOf 2) (el (s.rv 3).toNat (fpWidth 2) i)
    vals (masked [0] base) = [] ∧ vals (masked [BitVec.allOnes 1024] base) ≠ [] := by decide +kernel
/-- The same core with the pool bytes `m`, and with the device bytes `m`. -/
def pooled (m : Memory) (s : State) : State := s.onCore fun k => { k with spad := m }
def deviced (m : Memory) (s : State) : State := s.onPkg fun k => { k with dev := m }

theorem wit_SummaryForms : let s := regs [(2, 0), (3, 4096), (4, 8192), (5, 10240), (6, 12288), (7, 14336)]
    (∀ p ∈ [(1, s.rx 2), (1, s.rx 3), (2, s.rx 4), (2, s.rx 5), (3, s.rx 6), (3, s.rx 7)], p.2.toNat % 64 = 0 ∧
      p.2.toNat % 32768 + sumSize p.1 ≤ 32768 ∧ s.core.inBounds s.str.spb p.2 (sumSize p.1) = true) ∧
    s.Free [(0, 2048), (4096, 2048)] ∧ s.Free [(8192, 1024), (10240, 1024)] ∧ s.Free [(12288, 1088), (14336, 1088)] := by
  refine ⟨?_, free_of ?_, free_of ?_, free_of ?_⟩ <;> decide +kernel
/-- A summary of each kind in the fewest bytes: its type alone (06 Tables 2, 4 and 5). -/
theorem wit_SummaryForms_parsed : let s := pooled [(0, 1), (4096, 1), (8192, 2), (10240, 2), (12288, 3), (14336, 3)] (regs [])
    (Sketch.parse (ofBytes (s.sumRead 1 8192))).toOption.isSome = false ∧
    (sumMerge 1 (s.sumRead 1 0) (s.sumRead 1 4096)).toOption.isSome = true ∧
    (sumMerge 2 (s.sumRead 2 8192) (s.sumRead 2 10240)).toOption.isSome = true ∧
    (sumMerge 3 (s.sumRead 3 12288) (s.sumRead 3 14336)).toOption.isSome = true := by decide +kernel
theorem wit_VectorScratchpad : let s := mapped [(2, 0), (3, 8), (4, 0x400000)]
    (s.Free (s.activePool 0) ∧ s.Free [(8, 8)] ∧ s.Free ((List.range 64).map fun _ => (0, 8))) ∧
    ((List.range 512).filter (s.active 8) ≠ [] ∧ (List.range 512).filter ((masked [0] s).active 8) = [] ∧ (s.rx 3).toNat % 512 ≠ 0 ∧
      s.core.inBounds s.str.spb (s.rx 2) 512 = true ∧ s.core.inBounds s.str.spb (s.rx 4) 512 = false ∧ (s.rx 4).toNat % 512 = 0 ∧
      s.activePool 0 = [(0, 512)] ∧ s.touchesObject false 0 512 = false ∧ s.touchesObject false 8 8 = false ∧ s.core.inBounds s.str.spb (s.rx 3) 8 = true ∧ (∃ i < 64, s.active 64 i = true) ∧
      (List.range 64).filter (s.active 64) = List.range 64 ∧
      ∀ i ∈ List.range 64, s.core.inBounds s.str.spb (s.rx 2 + BitVec.ofNat 64 (el (s.rv 9).toNat 64 i * 8)) 8 = true) := by
  refine ⟨⟨free_of ?_, free_of ?_, free_of ?_⟩, ?_⟩ <;> decide +kernel
theorem wit_VectorGlobal : let s := mapped [(2, 0), (3, 8)]
    (s.Reaches { r := true } (activeRanges (s.rx 2) (actives 8 s.top)) ∧ s.Reaches { w := true } (activeRanges (s.rx 2) (actives 8 s.top)) ∧
      s.Reaches { r := true } [(s.rx 3, 8)] ∧ s.Reaches { r := true } ((List.range 64).map fun _ => (s.rx 2, 8)) ∧
      s.Reaches { w := true } ((List.range 64).map fun _ => (s.rx 2, 8))) ∧
    (activeRanges (s.rx 2) (actives 8 s.top) = [(s.rx 2, 512)] ∧ (s.rx 3).toNat % 512 ≠ 0) := by
  refine ⟨⟨reaches_of ?_, reaches_of ?_, reaches_of ?_, reaches_of ?_, reaches_of ?_⟩, ?_⟩ <;> decide +kernel
theorem wit_LandingsAndReplies : let e : StoreEff := { cells := [(5, 9), (5, 7)], left := 0, seq := 0 }
    let c : SumPend := { kind := 1, addr := 64, bytes := [1, 2], left := 0, write := true, seq := 0, sec := false }
    let o : GOp := { eff := .atomic { tier := 0, addr := 8 } 2 8 1, due := 0 }
    let s := ((pooled [(5, 1)] base).onCore fun k => { k with stores := [e], chain := [c] }).onStr fun t =>
      { t with xlate := some 7, gq := [o], pend := [{ target := .x 1 5, left := 3 }] }
    s.core.spad.wf = true ∧ s.core.stores.filter (·.left == 0) = [e] ∧ s.core.chain.filter (·.left == 0) = [c] ∧
    s.str.pend[0]?.isSome = true ∧ s.str.xlate = some 7 ∧ s.str.gq = [o] := by decide +kernel
theorem wit_FenceAndBind : let s := (pooled [(2, 3), (8, 4), (17, 1)] (regs [(2, 0), (3, 1), (4, 2 ^ 16), (5, 17)]))
    let g := deviced [(2, 3), (8, 4), (17, 1)] (mapped [(2, 0), (3, 1)])
    (s.Free [(0, 32)] ∧ g.Reaches { r := true } [(g.rx 2, 32)] ∧ g.Reaches { r := true } [(g.rx 2, 512)]) ∧
    (s.str.xlate = none ∧ g.readFault (g.rx 2) (g.pkg.physOf g.core.fn (g.rx 2) 32) = none ∧ s.core.inBounds s.str.spb (s.rx 2) 512 = true ∧ s.unperformed = false ∧ (s.rx 2).toNat < 2 ^ 16 ∧ 2 ^ 16 ≤ (s.rx 4).toNat ∧ 16 < (s.rx 5).toNat ∧
      s.core.inBounds s.str.spb (s.rx 2) 32 = true ∧ (let recs := els 256 1 (ofBytes (s.core.spad.readN 0 32))
        recs.all bindingLegal = true ∧ (∀ r ∈ recs.map bindingOf, ¬ r.kind.toNat < 2) ∧ distinct ((recs.map bindingOf).map (·.slot)) = true ∧
        noOverlap (recs.map bindingOf) = true) ∧ s.str.binds = [] ∧ els 256 1 (ofBytes (g.gbytes 0 32)) = els 256 1 (ofBytes (s.core.spad.readN 0 32))) := by
  refine ⟨⟨free_of ?_, reaches_of ?_, reaches_of ?_⟩, ?_⟩ <;> decide +kernel
/-- `mapped`, with one range of function 0 sealed, and the stream waiting for it if `w`. -/
def sealedAs (st : SealSt) (w : Bool) : State := ((mapped [(2, 0x10000), (3, 0x10000)]).onPkg fun pk =>
  pk.onFn 0 fun f => { f with seals := [⟨0x10000, 0x10000, st⟩] }).onStr fun t => { t with sealing := if w then some 0x10000 else none }
theorem wit_SealAndUnseal : let s := mapped [(2, 0x10000), (3, 0x10000)]
    s.Reaches { w := true, plain := true } [(s.rx 2, 0x10000)] ∧ (sealedAs .sealed false).Reaches { w := true, plain := true } [(0x10000, 0x10000)] ∧
    (s.core.fn < 17 ∧ (∀ p ∈ pageParts (s.rx 2) 0x10000, s.pkg.tierOf 0 p.1 = 0) ∧ s.str.sealing = none ∧ (s.pkg.fnOf 0).seals = [] ∧
      s.unperformed = false ∧ ⟨0x10000, 0x10000, .sealed⟩ ∈ ((sealedAs .sealed false).pkg.fnOf 0).seals ∧
      (((sealedAs .sealed true).pkg.fnOf 0).sealAt 0x10000).map (·.st) = some .sealed ∧ (sealedAs .sealed true).str.sealing = some 0x10000 ∧
      (((sealedAs .taking true).pkg.fnOf 0).sealAt 0x10000).map (·.st) = some .taking ∧ (sealedAs .taking true).alt.sec ≠ (sealedAs .taking true).str.sec ∧ (s.pkg.fnOf 0).sealAt 0x10000 = none) := by
  refine ⟨reaches_of ?_, reaches_of ?_, ?_⟩ <;> decide +kernel
theorem wit_BarrierObjects : let s := pooled [(96, 2), (124, 1), (128, 2), (152, 2)] (mapped [(2, 96), (3, 0), (4, 128), (5, 1)])
    let g := deviced [(96, 2), (124, 1)] s
    (s.Free [(96, 32)] ∧ s.Free [(128, 32)] ∧ g.Reaches { r := true, w := true } [(g.rx 2, 32)] ∧ g.Reaches { r := true } [(g.rx 2, 32)]) ∧
    ((s.rx 2).toNat % 32 = 0 ∧ s.core.inBounds s.str.spb (s.rx 2) 32 = true ∧ s.unperformed = false ∧ s.unacquired = false ∧ s.str.xlate = none ∧
      g.readFault (g.rx 2) (g.pkg.physOf g.core.fn (g.rx 2) 32) = none ∧ (s.rx 3).toNat = 0 ∧ 1 ≤ (s.rx 5).toNat ∧
      (s.core.spad.num 96 32).testBit 193 = false ∧ (s.core.spad.num 128 32).testBit 193 = true ∧
      (s.core.spad.num 96 32 / 2 ^ 224 + 2 ^ 32 - (s.rx 3).toNat % 2 ^ 32) % 2 ^ 32 = 1 ∧
      (s.core.spad.num 96 32 / 2 ^ 224 + 2 ^ 32 - (s.rx 5).toNat % 2 ^ 32) % 2 ^ 32 = 0 ∧ g.pkg.tierOf 0 96 = 0 ∧
      (ofBytes (g.gbytes 96 32)).testBit 193 = false ∧ (ofBytes (g.gbytes 96 32) / 2 ^ 224 + 2 ^ 32 - 0) % 2 ^ 32 = 1) := by
  refine ⟨⟨free_of ?_, free_of ?_, reaches_of ?_, reaches_of ?_⟩, ?_⟩ <;> decide +kernel
theorem wit_BarrierUpdate : 2 ^ 256 - 1 < 2 ^ 256 ∧ (base.core.spad.wf = true) ∧
    (let o := 2 ^ 128 + 7
     o / 2 ^ 193 % 2 = 0 ∧ o / 2 ^ 160 % 2 ^ 32 + 1 = o / 2 ^ 128 % 2 ^ 32 ∧ o / 2 ^ 64 % 2 ^ 64 + 7 = o % 2 ^ 64) := by decide

/-! ### The engines -/

def ringOf (st : StageSt) : Ring := { base := 0, sb := 1536, cc := 2, stages := [(st, 2), (.full, 1), (.empty, 2)], head := 0, tail := 2 }
def mxCmd : MxCmd := { start := 7, mp := [0, 4096, 0, 0, 0, 0, 0, 0], dep := 0xA05, mode := 1, first := 256, spb := 0, baddr := 4 }
def mxSeq : Seqr := { cmd := mxCmd, upc := 300, ix := [0, 0, 2, 3, 300, 5, 6, 7], stack := [(9, 2)], wait := 0 }
/-- A core with an accumulator bank, two rings and the sequencer `q`. -/
def engine (xs : List (Nat × Word)) (q : Option Seqr) : State := (regs xs).onCore fun k =>
  { k with part := 0x11, rings := (k.rings.set 3 (some (ringOf .full))).set 4 (some (ringOf .empty)), seq := q, dslots := 0x81
           ustore := [(8, BitVec.ofNat 64 (2 ^ 63 + 256)), (301, BitVec.ofNat 64 (13 * 2 ^ 59))], partial_ := some (4, []) }
theorem wit_MatrixForms : let s := engine [(2, 0), (3, 1), (4, 300), (5, 0x00600103), (6, 0x20005)] none
    s.Free [(0, 16)] ∧ ((second s).str.sec = true ∧ s.str.sec = false ∧ s.core.badAcc (s.rx 3).toNat = false ∧ s.core.badAcc (s.rx 4).toNat = true ∧
      s.core.accFault 2 (s.rx 3).toNat 0 512 = none ∧ s.core.ring 0 = none ∧ s.core.ring 3 = some (ringOf .full) ∧ (ringOf .full).count .filling = 0 ∧
      (ringOf .full).nst < (s.rx 4).toNat ∧ (ringOf .full).emptyFrom 1 = true ∧ (ringOf .full).emptyFrom 2 = false ∧ (ringOf .full).nst = 3 ∧
      ((s.core.ringsAtClose s.pkg.clock s.pkg.delays).ring 3).map (·.emptyFrom 1) = some true ∧
      (let xb := (s.rx 5).toNat
       xb / 2 ^ 16 % 2 ^ 20 = 96 ∧ xb / 2 ^ 8 % 2 ^ 8 = 1 ∧ xb % 2 ^ 5 = 3 ∧ xb / 2 ^ 5 % 8 = 0 ∧ xb < 2 ^ 36) ∧
      s.core.mxBusy = false ∧ s.core.feeds 3 = false ∧ s.core.inBounds s.str.spb (s.rx 2) (3 * 96) = true ∧ s.core.inBounds s.str.spb (s.rx 2) (8 * 2) = true ∧
      (s.rx 6).toNat / 2 ^ 16 % 2 ^ 13 = 2 ∧ (s.rx 6).toNat < 2 ^ 29 ∧ (s.rx 6).toNat / 2 ^ 12 % 16 = 0) := by
  refine ⟨free_of ?_, ?_⟩ <;> decide +kernel
theorem wit_MatrixCommands : let s := engine [(2, 10), (3, 0x81), (4, 4)] none
    let w := engine [] none |>.onCore fun k => { k with cmdq := [{ mxCmd with dep := 1 }] }
    let x := engine [] none |>.onCore fun k => { k with cmdq := [{ mxCmd with dep := 2 }] }
    let l := s.onStr fun t => { t with lcc := 5 }
    s.str.sec = false ∧ (s.rx 3).toNat < 2 ^ 12 ∧ s.core.uword 8 / 2 ^ 63 = 1 ∧ s.core.uword 8 / 2 ^ 12 % 2 ^ 51 = 0 ∧ 256 ≤ s.core.uword 8 % 2 ^ 12 ∧
    s.core.lastStart = none ∧ s.core.cmdq = [] ∧ s.core.seq = none ∧ s.core.mxpend = [] ∧ s.str.lcc.toNat = 0 ∧ s.str.lcc.toNat < (s.rx 2).toNat ∧
    (∀ j < 8, (s.rx 3).getLsbD j = true → s.core.dslots.getLsbD j = true) ∧ (s.rx 4).toNat < l.str.lcc.toNat ∧
    w.core.cmdq ≠ [] ∧ (∀ j < 8, (1 : Word).getLsbD j = true → w.core.dslots.getLsbD j = true) ∧ w.core.seq = none ∧
    (∃ j < 8, (2 : Word).getLsbD j = true ∧ x.core.dslots.getLsbD j = false) := by decide +kernel
theorem wit_MatrixMicroOps : let s := engine [] (some mxSeq)
    (s.Free [(0, 1536)] ∧ s.Free [(0, 96)] ∧ s.Free [(4096, 128)] ∧ s.Free [(4096, 2048)]) ∧
    (s.core.seq = some mxSeq ∧ s.core.mxpend = [] ∧ s.core.badAcc 0 = false ∧ s.core.badAcc 300 = true ∧ s.core.accRead 0 = none ∧
      matchNext s.core 4096 301 0 = some 301 ∧ matchNext s.core 4096 302 0 = none ∧ mxSeq.stack = (9, 2) :: [] ∧ s.core.ring 0 = none ∧
      s.core.ring 3 = some (ringOf .full) ∧ ((ringOf .full).stage 0).1 = .full ∧ 0 + 1536 ≤ (ringOf .full).sb ∧ fmtLegal 0 = true ∧ fmtIsMx 0 = false ∧
      fmtIsMx 4 = true ∧ s.core.partial_ = some (4, []) ∧ (s.onCore fun k => { k with partial_ := none }).core.partial_ = none ∧
      (BitVec.ofNat 64 (4096 % 2 ^ 22 + 64 * 0)).toNat % 64 = 0 ∧ s.core.inBounds 0 4096 2048 = true) := by
  refine ⟨⟨free_of ?_, free_of ?_, free_of ?_, free_of ?_⟩, ?_⟩ <;> decide +kernel
theorem wit_MatrixUpdates : let s := engine [] none
    (List.replicate 256 (1 : Word)).length = 256 ∧ s.core.rings[(3 : Fin 16)] = some (ringOf .full) ∧ (ringOf .full).head < (ringOf .full).nst ∧
    ((ringOf .full).stage (ringOf .full).head).1 = .full ∧ (ringOf .full).tail < (ringOf .full).nst := by decide +kernel

/-- Tags 1 and 2 in the states given. -/
def tagged (a b : Tag) (s : State) : State := s.onCore fun k => { k with tags := (k.tags.set 1 a).set 2 b }
theorem wit_ShapesAndTags : let e : Trap := { code := 0x0C }
    let s := tagged { st := .done, fresh := true, flags := 4 } { st := .done } (regs [(2, 0), (3, 6), (4, 64), (5, 128), (6, 1)])
    let w := tagged { st := .outstanding } { st := .outstanding } s
    let f := tagged { st := .done, fresh := true, err := some e } { st := .done } s
    s.Free [(128, 128)] ∧ ((s.rx 5).toNat % 128 = 0 ∧ s.core.inBounds s.str.spb (s.rx 5) 128 = true ∧
      (List.range 64).filter (fun t => (s.rx 3).getLsbD t) = [1, 2] ∧ (List.range 64).filter (fun t => (s.rx 2).getLsbD t) = [] ∧
      (s.core.tag 1).st = .done ∧ (s.core.tag 1).err = none ∧ (s.core.tag 2).fresh = false ∧ (w.core.tag 1).st = .outstanding ∧ (w.core.tag 2).st = .outstanding ∧
      (f.core.tag 1).fresh = true ∧ (f.core.tag 1).err = some e ∧ (s.core.tag 0).st = .idle ∧ 64 ≤ (s.rx 4).toNat ∧ (s.rx 6).toNat = 1) := by
  refine ⟨free_of ?_, ?_⟩ <;> decide +kernel

/-- A record of BOX 2, 1, 1, 1 and EXT 4, 1, 1, 1 with base 64 (14 Table 1); `sp`: in global space. -/
def shapeWord (sp : Bool) : BitVec 1024 := BitVec.ofNat 1024 (64 * 2 ^ 896 + (4 + 2 ^ 32 + 2 ^ 64 + 2 ^ 96) * 2 ^ 624 +
  (2 + 2 ^ 16 + 2 ^ 32 + 2 ^ 48) * 2 ^ 560 + 2 * 2 ^ 480 + 3 * 2 ^ 456 + if sp then 4 else 0)
def shaped (sp : Bool) (s : State) : State := s.onCore fun k => { k with g := k.g.set 1 (shapeWord sp) }
theorem wit_LocalCopies : let s := shaped false (regs [(2, 0), (3, 128)])
    let g := Shape.of (vget s.core.g 1 0)
    g.sp = false ∧ s.str.sec = false ∧ s.core.localEnd ≤ 1 ∧ s.core.watch = [] ∧ 128 % g.esz = 0 ∧ ctlBad 128 false = false ∧
    (g.elems (s.rx 2).toNat 0).map (fun e => (e.row, e.off, e.ga)) = [(0, 0, 64), (0, 1, 65)] ∧ g.pitch = 2 ∧ g.beats = 1 ∧
    (∀ x ∈ [64, 65, 128, 129], s.core.inBounds s.str.spb (BitVec.ofInt 64 x) g.esz = true) ∧ g.fates false = [] ∧ g.fates true = [] := by decide +kernel
theorem wit_TaggedCopies : let s := shaped true (mapped [(2, 0), (3, 128), (4, 0)])
    let s := s.onCore fun k => { k with rings := k.rings.set 3 (some (ringOf .full)) }
    let g := Shape.of (vget s.core.g 1 0)
    (s.Reaches { r := true } [(64, 2)] ∧ s.Reaches { w := true } [(64, 2)] ∧ s.Reaches { r := true } [(64, 2), (64, 2)]) ∧
    (g.sp = true ∧ g.cnten = false ∧ s.pkg.poison = [] ∧ s.core.poison = [] ∧ (s.core.tag 0).st ≠ .outstanding ∧ (s.core.tag 0).fresh = false ∧
      ctlBad 128 true = false ∧ ctlBad 0 true = false ∧ (g.runs 0 0).map (fun r => (r.ga, r.off, r.n)) = [(64, 0, 2)] ∧
      s.core.inBounds s.str.spb 128 2 = true ∧ s.core.mustWait [(128, 2)] = false ∧ s.core.mustWait [(3072, 1536)] = false ∧ s.acquiring false [(128, 2)] = false ∧
      s.early true 0 128 [(128, 2)] = none ∧ s.early false 0 128 [(128, 2)] = none ∧ s.early true 0 0 [(3072, 1536)] = none ∧
      g.fates false = [] ∧ g.fates true = [] ∧ g.noop = false ∧ g.niter = 2 ∧ (g.runs 0 1).map (fun r => (r.ga, r.off, r.n)) = [(64, 0, 2)] ∧
      g.ring = 3 ∧ s.core.feeds g.ring = false ∧ g.rows = 1 ∧ g.span = 2) := by
  refine ⟨⟨reaches_of ?_, reaches_of ?_, reaches_of ?_⟩, ?_⟩ <;> decide +kernel
theorem wit_CopyEvents : let b : Beat := { pairs := [(64, 128)], left := 0, baddr := 0 }
    let r (st : Option (Nat × Nat)) : CopyRun := { cells := [(128, 7)], stage := st, bytes := 1, rows := [], due := 0 }
    let c (t : BitVec 6) (ring : Option Nat) (st : Option (Nat × Nat)) : Copy :=
      { tag := t, sec := false, baddr := 0, rcd := 0, red := 0, cnt := none, ring := ring, todo := [], runs := [r st], err := none }
    let s := (engine [] none).onCore fun k => { k with beats := [b], copies := [c 5 none none, c 6 (some 3) (some (3, 0))] }
    s.core.spad.wf = true ∧ s.core.poison = [] ∧ s.core.marks = [] ∧ s.core.beats.filter (·.left == 0) = [b] ∧ s.core.mustWait [(64, 1)] = false ∧
    s.str.held = false ∧ s.core.engTrap = none ∧ c 5 none none ∈ s.core.copies ∧
    (∀ x ∈ s.core.copies, x.tag = 5 → x = c 5 none none) ∧ (∀ x ∈ s.core.copies, x.tag = 6 → x = c 6 (some 3) (some (3, 0))) ∧
    s.str.gq = [] ∧ s.alt.gq = [] ∧ vget s.core.rings 3 none = some (ringOf .full) ∧ 0 < (ringOf .full).nst := by decide +kernel
theorem wit_RanksAndPlans : let s := pooled [(1024, 2), (1044, 64)] (mapped [(2, 1024), (3, 2048)])
    let g := deviced [(1024, 2), (1044, 64)] s
    let p : PodPlan := { hdr := 0, route := [], map := [] }
    (s.Free [(1024, 16)] ∧ s.Free [(1024, 24)] ∧ s.Free [(2048, 16)] ∧ g.Reaches { r := true } [(g.rx 2, 16)] ∧ g.Reaches { r := true } [(g.rx 2, 24)]) ∧
    ((s.rx 2).toNat % 16 = 0 ∧ s.core.inBounds s.str.spb (s.rx 2) 24 = true ∧ s.core.spad.num 1024 16 = 2 ∧ s.core.spad.num 2048 16 = 0 ∧
      s.core.inBounds s.str.spb (s.rx 3) 16 = true ∧ ofBytes (g.gbytes 1024 16) = 2 ∧
      s.str.xlate = none ∧ g.readFault 1024 (g.pkg.physOf g.core.fn 1024 24) = none ∧ s.pkg.pauses = 0 ∧
      (s.onPkg fun pk => { pk with active := some p, pauses := 3 }).pkg.pauses ≠ 0) := by
  refine ⟨⟨free_of ?_, free_of ?_, free_of ?_, reaches_of ?_, reaches_of ?_⟩, ?_⟩ <;> decide +kernel

/-- A nest of one level and two chunks of 32 bytes, from L-address 512 (21 Tables 4 and 5), and a table of this core and tile 1. -/
def nestBytes : List Byte := toBytes 256 (1 + 32 * 2 ^ 288 + 512 * 2 ^ 448 + (2 * 2 ^ 96 + 32 * 2 ^ 192) * 2 ^ 512)
def collState (cs : List Coll) (ch : List Chunk) : State :=
  ((pooled ((Memory.writeN [] 0 nestBytes).writeN 1024 (toBytes 24 (2 + 2 ^ 160))) (regs [(2, 0), (3, 1024)])).onCore fun k =>
    { k with colls := cs }).onPkg fun pk => { pk with chunks := ch, slots := pk.slots.set 0 { Slot.reset with st := .running } }
def iterOf : CollIter := { j := 0, src := 512, data := none, peer := 1, ra := 0, step := 0, rows := [] }
def collOf (is : List CollIter) (settled : Nat) : Coll := { tag := 5, sec := false, baddr := 0, rcd := BitVec.ofNat 2048 (ofBytes nestBytes), members := [0, 1]
                                                            total := 2, iters := is, settled := settled, flags := 0, err := none, due := 0 }
def chunkOf (p : BitVec 10) : Chunk := { pkg := p, lid := 0, phnum := 0, fn := 0, gang := 0, tile := 0, bytes := [1, 2], ra := 2048, step := 0, flag := 4096, red := 0
                                         rsp := false, fsp := false, j := 0, last := true, src := some 0, tag := 5, member := 0, due := 0 }
def nestWord : BitVec 2048 := BitVec.ofNat 2048 (ofBytes nestBytes)
theorem wit_Collectives : let s := collState [] [chunkOf 0, chunkOf 9]
    s.Free [(0, 256)] ∧ s.Free [(1024, 16)] ∧ s.Free [(1024, 24)] ∧
    (BitVec.ofNat 2048 (s.core.spad.num 0 256) = nestWord ∧ s.core.spad.num 1024 16 = 2 ∧ [0, 1].map (fun i => s.core.spad.num (1040 + 4 * i) 4) = [0, 1] ∧
      s.rankIn [0, 1] = some 0 ∧ (s.core.tag 5).st ≠ .outstanding ∧ (s.core.tag 5).fresh = false ∧ s.core.colls.length < 4 ∧
      s.core.inBounds s.str.spb (s.rx 2) 256 = true ∧ s.core.inBounds s.str.spb (s.rx 3) 24 = true ∧
      (∀ a ∈ ([512, 544] : List Nat), s.sourceFault 32 (a : Int) = none ∧ s.early false 0 (BitVec.ofNat 64 a) [(a, 32)] = none) ∧
      s.lheld [(512, 32), (544, 32)] = false ∧ s.pkg.podn = 0) := by
  refine ⟨free_of ?_, free_of ?_, free_of ?_, ?_⟩ <;> decide +kernel
theorem wit_Collectives_nest : let h := Nest.of nestWord
    h.ok = true ∧ h.redBad = false ∧ h.gsp = false ∧ h.lsp = false ∧ h.total = 2 ∧ h.chunk = 32 ∧ h.stepbase + h.srank * 0 + 1 < 2 ^ 32 ∧
    (h.iterations 2 0).map (·.1) = [512, 544] := by decide +kernel
theorem wit_Collectives_chunks : let s := collState [] [chunkOf 0, chunkOf 9]
    let w := collState [collOf [iterOf] 0] []
    w.core.colls = [collOf [iterOf] 0] ∧ w.str.mode ≠ .stopped ∧ w.str.sec = false ∧ w.core.poison = [] ∧ (collOf [] 2).settled = (collOf [] 2).total ∧
    (chunkOf 0).held = false ∧ (chunkOf 0).pkg.toNat = s.pkg.podn ∧ (chunkOf 9).pkg.toNat ≠ s.pkg.podn ∧ s.core.fn = 0 ∧ s.member (chunkOf 0) = some s.core.id ∧
    s.core.spad.wf = true ∧ s.core.stores = [] ∧ s.core.inBounds 0 2048 2 = true ∧ s.core.inBounds 0 4096 32 = true := by decide +kernel
/-- A core alone in its gang, whose channel 1 holds `ms`. -/
def channel (xs : List (Nat × Word)) (ms : List Msg) : State := (regs xs).onCore fun k => { k with gw := 1, gh := 1, chans := k.chans.set 1 ms }
def msgOf (v : Bool) (ts : BitVec 48) : Msg := { fx := 0, fy := 0, ts := ts, vec := v, data := 7, arrive := 0 }
theorem wit_Messages : let s := channel [(2, 0x10000), (3, 2 ^ 20), (4, 9)] [msgOf false 9]
    let f := channel [(2, 0x10000)] (List.replicate 4 (msgOf false 9))
    s.str.sec = false ∧ (s.rx 2).toNat < 2 ^ 20 ∧ (s.rx 2).toNat % 256 < s.core.gw.toNat ∧ (s.rx 2).toNat / 256 % 256 < s.core.gh.toNat ∧
    (s.rx 2).toNat / 2 ^ 16 = 1 ∧ (s.mate 0 0).map (fun c => (c.core.chan 1).length) = some 1 ∧ (f.mate 0 0).map (fun c => (c.core.chan 1).length) = some 4 ∧
    2 ^ 20 ≤ (s.rx 3).toNat ∧ BitVec.ofNat 48 (s.rx 4).toNat = 9 ∧ (s.rx 4).toNat / 2 ^ 48 % 256 < s.core.gw.toNat ∧ (s.rx 4).toNat / 2 ^ 56 < s.core.gh.toNat ∧
    (s.core.chan 1)[0]? = some (msgOf false 9) ∧ (msgOf false 9).arrive ≤ s.pkg.clock := by decide +kernel
theorem wit_Messages_receive : ([(false, 9), (false, 8), (true, 9)] : List (Bool × BitVec 48)).all (fun m =>
    ((channel [] [msgOf m.1 m.2]).core.chan 1).find? (fun m => decide (m.fx.toNat = 0 ∧ m.fy.toNat = 0)) == some (msgOf m.1 m.2)) = true := by
  decide +kernel
theorem wit_BarriersAndNeighbours : let b : Bar := { scope := 1, key := 0, gen := 0, arrived := [0] }
    let s := (regs [(2, 512)]).onCore fun k => { k with lock := true }
    let o := base.onStr fun t => { t with arrivals := [(1, 0)] }
    let f := base.onPkg fun pk => { pk with bars := [b] }
    s.Free [(512, 512)] ∧ (base.arrivalOpen 1 = false ∧ base.unperformed = false ∧ o.arrivalOpen 1 = true ∧ base.core.bcount = 0 ∧
      (f.pkg.bar 1 0).arrived ≠ [] ∧ f.barFull (f.pkg.bar 1 0) = true ∧ base.core.lock = false ∧ s.core.lock = true ∧ s.str.sec = false ∧
      (s.rx 2).toNat % 512 = 0 ∧ s.core.inBounds s.str.spb (s.rx 2) 512 = true ∧ s.ctxs = [s.ctx] ∧ s.ctx.core.id = s.core.id / 4 * 4 + 0 ∧
      s.ctx.core.mustWait [(512, 512)] = false ∧ s.watched false 512 512 = none) := by
  refine ⟨free_of ?_, ?_⟩ <;> decide +kernel
/-- A probe cache of one set of two ways, the first with block 1. -/
def probing (f : Option (Nat × List Byte)) (s : State) : State :=
  s.onCore fun k => { k with probe := { region := 0, pool := 0, nslot := 2, ways := 2, tab := [{ block := some 1, fill := f }, {}], stamp := 0 } }
theorem wit_ProbesAndKeys : let s := probing none (mapped [(2, 0), (3, 0x10004), (4, 256), (5, 0), (6, 64)])
    (s.Reaches { r := true } [(s.rx 5, 256)] ∧ (leafed 0x2F s).Reaches { w := true, tagOp := true } [(s.rx 2, 64)] ∧
      ((leafed 0x2F s).onStr fun t => { t with xlate := some 0 }).Reaches { r := true, tagOp := true } [(s.rx 2, 1)]) ∧
    ((s.rx 3).toNat % 2 ^ 13 = 4 ∧ (s.rx 3).toNat / 2 ^ 16 = 1 ∧ (s.rx 3).toNat / 2 ^ 13 % 8 = 0 ∧ (s.rx 2).toNat % 256 = 0 ∧
      s.core.inBounds s.str.spb (s.rx 2) (256 * 4) = true ∧ s.core.probe.filling = false ∧ base.core.probe.nslot = 0 ∧
      s.core.probe.find ((s.rx 4).toNat / 256 % 2 ^ 49) = some 0 ∧ (s.core.probe.way 0).fill = none ∧ s.core.probe.find ((s.rx 5).toNat / 256 % 2 ^ 49) = none ∧
      s.core.probe.victim 0 = 1 ∧ 1 < s.core.probe.tab.length ∧ s.core.mustWait [(256, 256)] = false ∧ s.rx 5 >>> 8 <<< 8 = s.rx 5 ∧
      s.readFault 0 (s.pkg.physOf s.core.fn 0 256) = none ∧ ((probing (some (0, [1])) s).core.probe.way 0).fill = some (0, [1]) ∧ s.core.spad.wf = true ∧
      (s.rx 2).toNat % 32 = 0 ∧ (s.rx 6).toNat % 32 = 0 ∧ 1 ≤ (s.rx 6).toNat ∧ s.str.gq = [] ∧ (s.pkg.fnOf s.core.fn).retag = 0 ∧ s.core.fn < 17 ∧
      swf (0 : BitVec 4) 0 s.pkg.keys = true ∧ s.pkg.dev.wf = true ∧ s.pkg.physOf s.core.fn (s.rx 2) 1 = [{ tier := 0, addr := 0 }]) := by
  refine ⟨⟨reaches_of ?_, reaches_by (.inl ⟨rfl, ?_⟩) ?_, reaches_by (.inr ⟨0, rfl, Nat.le_refl _⟩) ?_⟩, ?_⟩ <;> decide +kernel

/-! ### The haul plan, migration, debug and stream events -/

/-- One entry: a load of 32 bytes from global address 0 to L-address 0, with START `st` and NEED `nd` (15 Table 2). -/
def haulEntry (st nd : Nat) : BitVec 256 := BitVec.ofNat 256 (2 ^ 8 + st * 2 ^ 32 + nd * 2 ^ 64 + 32 * 2 ^ 96)
def actOf (done : Bool) : HaulAct := { idx := 0, due := 0, done := done, fault := none, rows := [], begun := true, cells := [(5, 7)] }
def planOf (es : List (BitVec 256)) (acts : List HaulAct) : Plan :=
  { addr := 0x10000, count := es.length, window := 512 * 2 ^ 32, spb := 0, sec := false, last := 2, entries := es, acts := acts }
def planned (p : Plan) (s : State) : State := s.onCore fun k => { k with plan := some p }
/-- An array of that entry in a sealed range, with X2 to X4 as HAULSET takes them. -/
def hauling : State := deviced (Memory.writeN [] 0x10000 (toBytes 32 (haulEntry 0 1).toNat)) ((sealedAs .sealed false).onStr fun t =>
  { t with x := (t.x.set 3 1).set 4 (512 * 2 ^ 32) })
theorem wit_HaulPlan_array : hauling.Reaches { r := true } [(hauling.rx 2, 32)] ∧ hauling.readFault 0x10000 (hauling.pkg.physOf 0 0x10000 32) = none := by
  refine ⟨reaches_of ?_, ?_⟩ <;> decide +kernel
theorem wit_HaulPlan_entries : (els 256 1 (ofBytes (hauling.gbytes (hauling.rx 2) 32))).map (BitVec.ofNat 256) = [haulEntry 0 1] ∧
    entryLegal 0 512 (haulEntry 0 1) = true := by decide +kernel
theorem wit_HaulPlan : let s := hauling
    (s.rx 2).toNat % 32 = 0 ∧ (s.rx 3).toNat = 1 ∧ windowLegal (s.rx 4).toNat = true ∧
    s.core.inBounds s.str.spb (BitVec.ofNat 64 ((s.rx 4).toNat % 2 ^ 22)) ((s.rx 4).toNat / 2 ^ 32 % 2 ^ 23) = true ∧
    (s.pkg.fnOf s.core.fn).seals = [⟨0x10000, 0x10000, .sealed⟩] ∧ s.core.plan = none ∧
    (planned (planOf [haulEntry 0 1] [actOf true]) s).core.plan.isSome = true := by decide +kernel
theorem wit_HaulPlan_blaze : let p (d : Bool) := planOf [haulEntry 0 3, haulEntry 3 5] [actOf d]
    ([true, false].all fun d => (p d).acts.all fun y => y.fault == none && y.stuck == false) = true ∧ (p true).sec = base.str.sec ∧
    (p true).sec ≠ (second base).str.sec ∧ (p true).acts.map (·.done) = [true] ∧ (p false).acts.map (·.done) = [false] ∧
    ((p true).last < 3 ∧ eNeed ((p true).entry 0) = 3 ∧ eNeed ((p true).entry 1) = 5 ∧ eStart ((p true).entry 0) = 0) ∧
    (p true).waiting ≠ some 3 ∧ (base.onCore fun k => { k with hpb := 1 }).core.hpb.getLsbD 0 = true ∧ base.core.hpb.getLsbD 0 = false := by
  decide +kernel
/-- The translation of the 64 KiB page at `b`, number `i` of a table of leaves at 0xA0000, in the frame at 64 KiB times `f`. -/
def pageOf (b i f : Nat) : TlbEnt := { fn := 0, base := b, size := 2 ^ 16, leaf := BitVec.ofNat 64 (0xF + f * 65536), ctr := 0xA0100 + 2 * i }
def migrationOf (st : Nat) : Migration :=
  { tag := some 5, core := 0, fn := 0, a := pageOf 0x10000 1 8, b := pageOf 0x20000 2 9, step := st, due := 0 }
def migrating : State := (mapped [(2, 0x10000), (3, 0x20000)]).onPkg fun pk => { pk with
  tlb := [pageOf 0x10000 1 8, pageOf 0x20000 2 9], migrations := [migrationOf 0, migrationOf 1, migrationOf 2]
  dev := Memory.writeN [] 0xA0008 (toBytes 8 0x8000F ++ toBytes 8 0x9000F) }
theorem wit_ActionsAndMigrations : let s := migrating
    let a := pageOf 0x10000 1 8
    let b := pageOf 0x20000 2 9
    s.Reaches { r := true, w := true, plain := true } [(s.rx 2, 1), (s.rx 3, 1)] ∧
    ((s.pkg.translate 0 (s.rx 2)).toOption = some a ∧ (s.pkg.translate 0 (s.rx 3)).toOption = some b ∧ (s.core.tag 5).st ≠ .outstanding ∧ (s.core.tag 5).fresh = false ∧
      (s.pkg.fnOf 0).seals = [] ∧ leafBit a.leaf 5 = false ∧ leafBit b.leaf 5 = false ∧ s.pkg.leafNow a = 0x8000F ∧ s.pkg.leafNow b = 0x9000F ∧
      a.leafAt + 8 ≤ b.leafAt ∧ s.pkg.dev.wf = true ∧ s.pkg.poison = [] ∧ overlap (9 * 65536) a.size a.leafAt 8 = false ∧
      overlap (9 * 65536) a.size b.leafAt 8 = false ∧ leafPfn (s.pkg.leafNow b) = 9 ∧ leafTier (s.pkg.leafNow a) = 0 ∧
      [0, 1, 2].map (s.migration 5) = [0, 1, 2].map fun k => some (migrationOf k)) ∧
    (∀ c ∈ s.ctxs, c.core.plan = none) ∧ s.alt.sec ≠ s.str.sec ∧ s.others = [] := by
  refine ⟨reaches_of ?_, ?_, ?_⟩ <;> decide +kernel
theorem wit_ActionsAndMigrations_action : let p := planOf [haulEntry 0 3] [actOf false]
    let o : GOp := { eff := .bytes [], due := 0, act := some 0 }
    let s := planned p base
    p.acts.find? (·.idx == 0) = some (actOf false) ∧ p.before 0 = [] ∧ (actOf false).err = none ∧ (actOf false).begun = true ∧
    s.core.spad.wf = true ∧ s.str.gq = [] ∧ s.alt.gq = [] ∧ (s.onStr fun t => { t with gq := [o] }).str.gq = [o] ∧ o.place = false := by decide +kernel
/-- The same machine with DBGEN set for function 0. -/
def debugging (s : State) : State := s.onPkg fun pk => pk.onFn 0 fun f => { f with dbg := 1 }
theorem wit_DebugForms : let s := debugging ((mapped [(2, 40), (3, 5), (4, 64)]).onCore fun k => { k with part := 0x11 })
    (s.Free [(40, 1)] ∧ s.Reaches { r := true, w := true } [(s.rx 2, 1)] ∧ s.Reaches { r := true, w := true } [(s.rx 2 >>> 3 <<< 3, 8)]) ∧
    (s.dbgen = true ∧ base.dbgen = false ∧ s.str.sec = false ∧ (second s).str.sec = true ∧ s.core.badAcc ((s.rx 2).toNat % 256) = false ∧
      64 ≤ (s.rx 4).toNat ∧ (s.rx 2).toNat < 256 ∧ (s.rx 3).toNat < 8 ∧ (s.rx 3).toNat / 4 ≤ 9 ∧ s.core.inBounds s.str.spb (s.rx 2) 1 = true ∧
      tierFault 0 (s.rx 2) 15 s.pkg = none ∧ tierFault 0 (s.rx 2) 5 s.pkg = none ∧ tierFault 0 (s.rx 2 >>> 3 <<< 3) 5 s.pkg = none ∧
      ((s.pkg.physOf 0 (s.rx 2 >>> 3 <<< 3) 8).head?).isSome = true ∧ s.str.mode = .running ∧ s.alt.mode = .idle) := by
  refine ⟨⟨free_of ?_, reaches_of ?_, reaches_of ?_⟩, ?_⟩ <;> decide +kernel
theorem wit_StreamEvents : let e := base.onStr fun t => { t with mode := .ended }
    let done (s : State) : State := s.onStr fun t => { t with mode := .done }
    let two : State := { e with alt := { e.alt with mode := .running } }
    let p (free : Bool) : Phase := { lid := 7, num := 3, free := free, fn := 0, queue := 0, wanted := [], live := [] }
    base.str.mode = .running ∧ e.drained = true ∧ two.drained = true ∧ e.ctx.a.mode = .ended ∧ e.core.slot < 256 ∧
    ((done e).gangOf 0).map (·.over) = [true] ∧ ((done two).gangOf 0).map (·.over) = [false] ∧
    [p true, p false].find? (fun x => x.fn == 0 && x.lid == 7 && x.num == 3) = some (p true) ∧ (p false).free = false := by decide +kernel
/-! ### Command queues and slots -/

/-- A phase of queue 5 that has not committed, with gangs still to bind. -/
def phaseOf (wanted : List (BitVec 16)) : Phase := { lid := 7, num := 3, free := false, fn := 0, queue := 5, wanted := wanted, live := [] }
def phased (wanted : List (BitVec 16)) (s : State) : State := s.onPkg fun pk => { pk with phases := [phaseOf wanted] }
def queued (f : Queue → Queue) (s : State) : State := s.onQueue 5 f
theorem wit_QueueControl : let s := mapped []
    let c := queued (fun u => { u with calls := [64] }) s
    s.pkg.uncommitted 5 = false ∧ (phased [] s).pkg.uncommitted 5 = true ∧ ((s.pkg.qread 0 8 8).toOption.map ofBytes) = some 0x100F0E0D0C0B0A09 ∧
    (s.pkg.qread 0 (2 ^ 40) 8).toOption = none ∧ s.pkg.qwritable 0 8 8 = true ∧ s.pkg.qblocked 0 8 8 = false ∧
    s.pkg.qwritable 0 (2 ^ 40) 8 = false ∧ (leafed 0x8F s).pkg.qwritable 0 8 8 = true ∧ (leafed 0x8F s).pkg.qblocked 0 8 8 = true ∧
    (s.pkg.queue 5).calls = [] ∧ (c.pkg.queue 5).calls = [64] ∧ (s.pkg.queue 5).fn = 0 ∧
    ((s.pkg.fnOf 0).widx + 2 ^ 64 - (s.pkg.fnOf 0).ridx) % 2 ^ 64 < 1024 := by decide +kernel
/-- A launch descriptor at address 0 with phase 3 and one gang, whose record is all zeros (09 R247). -/
def launching : State := deviced (Memory.writeN [] 0 (toBytes 64 (1 + 2 ^ 32 + 64 * 2 ^ 64 + 128 * 2 ^ 128) ++ toBytes 16 (3 + 2 ^ 64))) (mapped [])
def gangRcd : BitVec 1024 := fillRecord 0 7 0 9 3 0 0 0
/-- A task on core 0 of slot 0, not yet started. -/
def idleTask : CoreCtx := { core := Core.reset 0, a := Stream.reset false, b := Stream.reset true }
/-- The same machine with slot `i` in the state given. -/
def slotted (i : Nat) (f : Slot → Slot) (s : State) : State := s.onPkg fun pk => pk.onSlot i f
theorem wit_Launches : let s := launching
    let a := slotted 0 (fun sl => { sl with st := .armed, rcd := gangRcd, ctxs := [idleTask] }) s
    (s.pkg.launchRead (s.pkg.queue 5) 3 0 7 9).toOption = some (false, [gangRcd]) ∧ (s.pkg.launchRead (s.pkg.queue 5) 4 0 7 9).toOption = none ∧
    s.pkg.armedFor gangRcd = none ∧ a.pkg.armedFor gangRcd = some 0 ∧ (a.pkg.slot 0).ctxs.map (fun y => (y.a.sec, y.b.sec)) = [(false, true)] ∧
    s.pkg.requests = [] ∧ (s.pkg.queue 5).wait ≠ .binds ∧ s.pkg.uncommitted 5 = false ∧ (phased [0] s).pkg.uncommitted 5 = true ∧
    ((phased [0] s).pkg.phases.find? fun x => x.fn == 0 && x.lid == 7 && x.num == 3) = some (phaseOf [0]) := by decide +kernel
/-- A region list at address 0: 4 KiB at 64 KiB, with their copy at 128 KiB, or at `dst` (18 R431). -/
def regions (dst : Nat) : State :=
  deviced (Memory.writeN [] 0 (toBytes 64 1 ++ toBytes 32 (0x10000 + 4096 * 2 ^ 64 + dst * 2 ^ 128))) (mapped [])
theorem wit_PointsAndDigests : let s := regions 0x20000
    (s.pkg.regionList 0 0).toOption = some [(0x10000, 4096, 0x20000)] ∧ (s.pkg.regionList 0 64).toOption = none ∧
    s.pkg.buddy 0 (0x10000, 4096, 0x20000) = true ∧ ((regions (2 ^ 40)).pkg.regionList 0 0).toOption = some [(0x10000, 4096, 0x10000000000)] ∧
    s.pkg.buddy 0 (0x10000, 4096, 0x10000000000) = false ∧ s.pkg.qwritable 0 0x30000 72 = true ∧ s.pkg.qwritable 0 (2 ^ 40) 72 = false ∧
    (s.pkg.queue 5).wait = .none ∧ s.pkg.uncommitted 5 = false ∧ s.pkg.rangesFault 0 { r := true } [(0x10000, 4096)] = none ∧
    s.pkg.rangesFault 0 { w := true } [(0x20000, 4096)] = none ∧ (s.pkg.copyRegion 0 0x10000 0x20000 4096).2 = true ∧
    (s.pkg.digestMessage 0 []).toOption = some [] := by decide +kernel
theorem wit_PointsAndDigests_message : (((regions 0x20000).pkg.digestMessage 0 [(0x10000, 4096, 0x20000)]).toOption.map List.length) = some 4104 := by
  decide +kernel
/-- A machine that has booted. -/
def booted (s : State) : State := s.onPkg fun pk => { pk with bootst := 1 }
theorem wit_HostRegisters : let s := booted (mapped [])
    let w (h : HostHeld) : State := s.onPkg fun pk => { pk with waiting := [h] }
    base.pkg.bootst ≠ 1 ∧ s.pkg.bootst = 1 ∧ s.pkg.waiting = [] ∧ (w (.tail 0 5 1)).pkg.waiting = [.tail 0 5 1] ∧ (0 : BitVec 5).toNat = (s.pkg.queue 5).fn ∧
    (s.pkg.queue 5).head.toNat = 0 ∧ 2 ^ (s.pkg.queue 5).log2n = 16 ∧ (s.pkg.queue 5).halt = false ∧ (s.pkg.queue 5).en = false ∧
    ((queued (fun u => { u with en := true }) s).pkg.queue 5).en = true ∧ s.pkg.fnWrite 0 (2 ^ 40) (List.replicate 64 0) = none ∧
    pageParts 64 64 = [(64, 64)] ∧ s.pkg.fnWritable 0 64 64 = true ∧ s.pkg.fnBlocked 0 64 64 = false ∧ s.pkg.dev.wf = true ∧
    (s.pkg.fnOf 0).msixPending = false ∧ ((s.onPkg fun pk => pk.onFn 0 fun f => { f with msixPending := true }).pkg.fnOf 0).msixPending = true ∧
    (s.pkg.fnOf 0).mbState ≠ 1 ∧ s.pkg.active = none ∧ s.pkg.paused = false := by decide +kernel
theorem wit_HostRegisters_migrate : let s := booted migrating
    (s.pkg.translate 0 0x10000).toOption = some (pageOf 0x10000 1 8) ∧ (s.pkg.translate 0 0x20000).toOption = some (pageOf 0x20000 2 9) ∧
    s.pkg.rangesFault 0 { r := true, w := true, plain := true } [(0x10000, 1), (0x20000, 1)] = none ∧
    migrateFault s.pkg 0 0x10000 0x20000 = none ∧ (s.pkg.translate 0 (2 ^ 40)).toOption = none := by decide +kernel
/-- A record of one tile: PART 1, PLEN 4, PENTRY at 64 KiB and CSAVE at 1 MiB, of a machine that has its code in a sealed range. -/
def goodRcd : BitVec 1024 := BitVec.ofNat 1024 (2 ^ 224 + 4 * 2 ^ 256 + 0x10000 * 2 ^ 320 + 0x100000 * 2 ^ 512)
def ready : State := leafed 0x1F (sealedAs .sealed false)
/-- One that runs on the cores of die 1. -/
def slot64 (f : Slot → Slot) : State := slotted 64 f ready
theorem wit_SlotCommands : let s := ready
    let at_ (st : SlotSt) : State := slotted 0 (fun sl => { sl with st := st }) s
    (s.pkg.slot 64).st = .free ∧ s.pkg.bindCase goodRcd [] = none ∧ s.pkg.bindCase (BitVec.ofNat 1024 (2 ^ 1000)) [] = some 1 ∧ recCores 64 goodRcd = [64] ∧
    recCores 0 goodRcd = [0] ∧ s.coreBlocked 64 64 = false ∧ s.coreBlocked 0 0 = true ∧ ((at_ .armed).pkg.slot 0).st = .armed ∧
    ((at_ .running).gangOf 0).map (·.over) = [false] ∧ (((at_ .running).onStr fun t => { t with mode := .done }).gangOf 0).map (·.over) = [true] ∧
    (at_ .running).faulted 0 = false ∧ ((at_ .running).onStr fun t => { t with mode := .stopped }).faulted 0 = true ∧ s.core.slot ≠ 64 := by decide +kernel
theorem wit_SlotCommands_resume : let i (p : List Nat) : State := (slot64 fun sl => { sl with st := .saved, rcd := goodRcd, ctxs := [idleTask] }).onPkg fun pk =>
      { pk with poison := p }
    let n := slot64 fun sl => { sl with st := .saved, rcd := goodRcd }
    (n.pkg.slot 64).st = .saved ∧ n.pkg.poisonedImage (n.pkg.slot 64) = none ∧ movedRecord goodRcd none = some goodRcd ∧
    (n.pkg.loadImages (n.pkg.slot 64)).map List.length = some 0 ∧ (((i [3]).pkg.poisonedImage ((i [3]).pkg.slot 64)).map (·.2)) = some 96 ∧
    movedRecord (setRec goodRcd 143 128 1) (some 1) = none := by decide +kernel
theorem wit_PlacementAndSaves : let s := slot64 fun sl => { sl with st := .pending, rcd := goodRcd }
    let r := slot64 fun sl => { sl with st := .pending, rcd := goodRcd, resumed := true, ctxs := [idleTask] }
    let t := (slotted 0 (fun sl => { sl with st := .stopping }) ready).onStr fun t => { t with mode := .stopped }
    s.placeable 64 = true ∧ s.pkg.bindCase goodRcd [] = none ∧ (s.pkg.slot 64).resumed = false ∧ s.placeable 0 = false ∧
    r.placeable 64 = true ∧ (r.pkg.slot 64).ctxs.map (fun y => (y.a.sec, y.b.sec)) = [(false, true)] ∧ (t.pkg.slot 0).st = .stopping ∧
    (t.gangOf 0).map (·.drained t.pkg) = [true] ∧ recDiscard goodRcd = false ∧ recDiscard (setRec goodRcd 147 147 1) = true := by decide +kernel
theorem wit_PlacementAndSaves_rivals : let s := slot64 fun sl => { sl with st := .pending, rcd := goodRcd }
    ((List.range 256).all fun j => decide (j / 64 ≠ 1) || j == 64 || !s.placeable j) = true := by decide +kernel
/-! ### The mailbox, ports, keys and resets -/

/-- A plan image of 16 slots at address 0x1000 (21 Tables 1 and 2), in a machine that has booted. -/
def planning : State := booted (deviced (Memory.writeN [] 0x1000 (toBytes 64 (16 * 2 ^ 48 + 32 * 2 ^ 32 + 2 ^ 80))) (mapped []))
/-- A stream of core 0 that waits in X5 for the answer to request 9. -/
def asking (t : Stream) : Stream := { t with svc := some (9, 5) }
theorem wit_MailboxCommands : let s := planning
    let q := (s.onStr asking).onPkg fun pk => { pk with service := [(9, 0, false)] }
    let p : Point := { num := 9, list := 0, queue := 5, head := 3, depth := 0 }
    let r := s.onPkg fun pk => pk.onFn 0 fun f => { f with point := some p, tdi := .run }
    s.pkg.bootst = 1 ∧ (s.pkg.fnOf 0).mbState ≠ 1 ∧ (s.pkg.fnOf 1).mbState ≠ 1 ∧ s.pkg.service.any (·.1 == 9) = false ∧
    q.pkg.service.any (·.1 == 9) = true ∧ q.askedBy 9 = some 0 ∧ q.str.svc = some (9, 5) ∧ ((r.pkg.fnOf 0).point).map (·.num.toNat) = some 9 ∧
    (s.pkg.slot 0).st = .free ∧ (s.pkg.planAt 0x1000).isSome = true ∧ s.pkg.planAt (2 ^ 40) = none ∧ (r.pkg.fnOf 0).tdi = .run ∧ (s.pkg.fnOf 0).tdi ≠ .run ∧
    ((s.onPkg fun pk => { pk with planSlots := pk.planSlots.set 2 (s.pkg.planAt 0x1000) }).pkg.planSlots[2]).isSome = true := by decide +kernel
theorem wit_MailboxCommands_slots : let n := booted (slot64 fun sl => { sl with st := .saved, rcd := goodRcd })
    let r := booted (slotted 0 (fun sl => { sl with st := .running }) ready)
    let y : CoreCtx := { idleTask with a := asking idleTask.a }
    let k := booted (slot64 fun sl => { sl with st := .saved, rcd := goodRcd, ctxs := [y] }) |>.onPkg fun pk => { pk with service := [(9, 0, false)] }
    (n.pkg.slot 64).st = .saved ∧ (n.pkg.slot 64).fn = 0 ∧ n.pkg.poisonedImage (n.pkg.slot 64) = none ∧ movedRecord goodRcd none = some goodRcd ∧
    (n.pkg.loadImages (n.pkg.slot 64)).isSome = true ∧ (r.gangOf 0).map (·.over) = [false] ∧ y.a.svc = some (9, 5) ∧ y.b.svc = none ∧
    (k.pkg.slot 64).ctxs.length = 1 ∧ k.pkg.service.any (·.1 == 9) = true ∧
    ((List.range 256).all fun j => j == 64 || (k.pkg.slot j).st != .saved) = true := by decide +kernel
theorem wit_RecoveryAndNotices : let p : Point := { num := 9, list := 0, queue := 5, head := 3, depth := 0 }
    let s := (regions 0x20000).onPkg fun pk => pk.onFn 0 fun f => { f with mbState := 1, point := some p }
    let f := (regions 0x20000).onPkg fun pk => pk.onFn 0 fun f => { f with widx := 1024 }
    (s.pkg.fnOf 0).mbState = 1 ∧ (s.pkg.fnOf 0).point = some p ∧ (s.pkg.regionList 0 0).toOption = some [(0x10000, 4096, 0x20000)] ∧
    (s.pkg.copyBack 0 [(0x10000, 4096, 0x20000)]).2 = true ∧ p.queue < 64 ∧
    ((s.pkg.fnOf 0).widx + 2 ^ 64 - (s.pkg.fnOf 0).ridx) % 2 ^ 64 < 1024 ∧
    1024 ≤ ((f.pkg.fnOf 0).widx + 2 ^ 64 - (f.pkg.fnOf 0).ridx) % 2 ^ 64 := by decide +kernel
theorem wit_StacksAndPorts : let p : PodPlan := { hdr := 0, route := [], map := [] }
    let s := base.onPkg fun pk => { pk with active := some p, paused := true, ports := pk.ports.set 3 { debt := 1, failed := false, retry := false, slack := 0, errors := 0 } }
    let y : Pending := { target := .x 1 5, left := 0, arrive := 9, peers := [(32, 2), (64, 3)] }
    (11 : BitVec 4).toNat < 12 ∧ 11 ∉ base.pkg.hot ∧ 5 < Config.devBytes ∧ base.pkg.active = none ∧ s.pkg.active = some p ∧ s.pkg.paused = true ∧
    (s.pkg.portAt 3).debt ≠ 0 ∧ (s.onStr fun t => { t with pend := [y] }).usesPort 0 3 = true ∧ s.core.fn < 17 ∧ s.ctx.a.mode ≠ .idle := by decide +kernel
theorem wit_OutsideRequests : let s := (mapped []).onPkg fun pk => { pk with peerWins := [(0, 4096, 2 * 32 + 1)] }
    let y : Pending := { target := .x 1 5, left := 0, arrive := 9, peers := [(32, 2), (64, 3)] }
    let b := booted s
    ([(0, 4096, 2 * 32 + 1)] = s.pkg.peerWins ∧ (2 : BitVec 10).toNat * 32 + (1 : BitVec 5).toNat = 65 ∧ 0 ≤ 64 ∧ 64 + 8 ≤ 0 + 4096 ∧ 64 + 8 ≤ Config.devBytes) ∧
    s.pkg.poison = [] ∧ 64 % 8 = 0 ∧ y.peers.find? (fun z => z.2 == 3) = some (64, 3) ∧ s.pkg.clock < y.arrive ∧ y.fault = none ∧ (s.pkg.translate 0 64).toOption.isSome = true ∧
    (s.onStr fun t => { t with pend := [y] }).str.pend = [y] ∧ s.str.pend = [] ∧ s.pkg.bootst ≠ 1 ∧ b.pkg.bootst = 1 ∧ pageParts 64 8 = [(64, 8)] ∧
    b.pkg.rangesFault 0 { w := true, plain := true } [(64, 8)] = none ∧ b.pkg.rangesFault 0 { r := true, plain := true } [(64, 8)] = none ∧
    ((leafed 0x5 b).pkg.rangesFault 0 { w := true, plain := true } [(64, 8)]).map (·.code) = some 0x0C ∧ (b.pkg.fnOf 0).seals = [] ∧
    ((b.pkg.translate 0 64).toOption.map fun e => (leafKey e.leaf, leafBit e.leaf 7)) = some (0, false) ∧
    (((leafed 0x8F b).pkg.translate 0 64).toOption.map fun e => leafBit e.leaf 7) = some true ∧
    (∀ p ∈ b.pkg.physOf 0 64 8, b.pkg.unreachable p = false) := by decide +kernel
/-- Key slot 5 belongs to function 1, whose page is in it (22 R497). -/
def keyedPage : State := booted ((mapped []).onPkg fun pk => { pk with
  tlb := [{ fn := 1, base := 0, size := 2 ^ 30, leaf := 0xF + 5 * 1024, ctr := 0 }], keySlots := pk.keySlots.set 5 { owner := 1, valid := true } })
theorem wit_OutsideRequests_keyed : ((keyedPage.pkg.translate 1 64).toOption.map fun e => leafKey e.leaf) = some 5 ∧ (keyedPage.pkg.fnOf 1).tdi ≠ .run ∧
    keyedPage.pkg.rangesFault 1 { w := true, plain := true } [(64, 8)] = none ∧ keyedPage.pkg.rangesFault 1 { r := true, plain := true } [(64, 8)] = none := by
  decide +kernel
/-- Page tables of function 1 at 1 MiB, with the page of 1 GiB at 1 GiB (10 Tables 2 to 4). -/
def walking : State := (deviced (Memory.writeN (Memory.writeN [] 0x100000 (toBytes 8 0x200001)) 0x200008 (toBytes 8 0x4000000F)) base).onPkg fun pk =>
  pk.onFn 1 fun f => { f with root := 0x100000, tdi := .locked }
theorem wit_KeysAndTdis : let s := walking
    ((walk s.pkg 1 0x40000000).toOption.map fun e => (leafTier e.leaf, e.base, e.size, e.leafAt, overlap (leafPfn e.leaf * 65536) e.size e.leafAt 8)) =
      some (0, 2 ^ 30, 2 ^ 30, 0x200008, false) ∧
    (s.pkg.fnOf 1).tdi = .locked ∧ ((s.onPkg fun pk => pk.onFn 1 fun f => { f with tdi := .run }).pkg.fnOf 1).tdi = .run ∧
    (base.pkg.fnOf 1).tdi = .unlocked ∧ (s.pkg.keySlots[5]).valid = false ∧ s.pkg.dev.wf = true ∧ (∀ c ∈ s.ctxs, c.a.gq = [] ∧ c.b.gq = []) ∧
    s.alt.sec ≠ s.str.sec ∧ s.others = [] := by decide +kernel
theorem wit_ResetsAndBoard : (1 : BitVec 5) ≠ 0 ∧ (1 : BitVec 5).toNat < 17 ∧ (base.pkg.queue 5).fn = (0 : BitVec 5).toNat := by decide +kernel

/-! ### Witnesses of single clauses -/

theorem wit_SystemForms_free :
    let s := (base.onCore fun k => { k with free := true }).onPkg fun pk => pk.onFn 0 fun f => { f with journal := 64, journalCap := 4096 }
    s.core.free = true ∧ s.core.events = [] ∧ s.core.fn < 17 ∧ s.core.replay = false ∧ (s.pkg.fnOf 0).journal ≠ 0 ∧ (s.pkg.fnOf 0).dropped = false ∧
    (s.pkg.fnOf 0).journalIdx < (s.pkg.fnOf 0).journalCap := by decide +kernel
theorem wit_SummaryFaults : let s := regs [(2, 0), (3, 32), (4, 30784), (5, 0x400000), (6, 4096)]
    let m := pooled ((Memory.writeN [] 0 [3]).writeN 4096 (toBytes 16 (3 + 2 ^ 64))) (regs [(2, 0), (3, 4096)])
    (s.Free [(0, 2048)] ∧ m.Free [(0, 1088), (4096, 1088)]) ∧
    ((s.rx 3).toNat % 64 ≠ 0 ∧ 32768 < (s.rx 4).toNat % 32768 + sumSize 1 ∧ (s.rx 2).toNat % 64 = 0 ∧
      s.core.inBounds s.str.spb (s.rx 5) (sumSize 1) = false ∧ (s.rx 5).toNat % 64 = 0 ∧ s.core.inBounds s.str.spb (s.rx 2) (sumSize 1) = true ∧
      sumBad 1 (s.sumRead 1 0) = some 0x20 ∧ (match sumMerge 3 (m.sumRead 3 0) (m.sumRead 3 4096) with | .error e => e | .ok _ => 0) = 0x23 ∧
      (0 : Byte).toNat ≠ 1) := by
  refine ⟨⟨free_of ?_, free_of ?_⟩, ?_⟩ <;> decide +kernel
theorem wit_SketchLaws : let q := Sketch.empty 5
    let full : Sketch := { q with count := 56, mn := 0x3F800000, mx := 0x3F800000, lv := q.lv.set 0 (List.replicate 56 0x3F800000) }
    let one : Sketch := { full with count := 1, lv := q.lv.set 0 [0x3F800000] }
    f32NaN 0x7FC00000 = true ∧ f32NaN 0x3F800000 = false ∧ q.base = 0 ∧ (∀ l ∈ q.lv, l.length < 56) ∧ (q.lv.getD 0 []).length < 55 ∧
    full.lv.length = 8 ∧ (full.lv.getD 0 []).length = 56 ∧ (∀ l < 8, 1 ≤ l → (full.lv.getD l []).length < 28) ∧ q.lv.getD 0 [] = [] ∧
    f32NaN full.mn = false ∧ q.count = 0 ∧ one.count ≠ 0 ∧ fdecode F32 0x3F000000 = .fin false (2 ^ 23) (-(24 : Nat)) ∧ 2 ^ 23 < 2 ^ 24 ∧
    fdecode F32 0xBF000000 = .fin true (2 ^ 23) (-(24 : Nat)) ∧ fdecode F32 0x7F800000 = .inf false ∧
    (∀ l ∈ List.zipWith (· ++ ·) q.lv one.lv, l.length < 56) := by decide +kernel
theorem wit_SketchLaws_zero : ∃ b e, fdecode F32 0 = .fin b 0 e := ⟨false, _, rfl⟩
theorem wit_HittersLaws : let e (k : Nat) : Hitter := { key := k, count := 2 ^ 32 - 1, err := 0 }
    let full : Hitters := { total := 0, es := (List.range 63).map e }
    e 5 ∈ full.es ∧ (e 5).key = 5 ∧ (∀ x ∈ full.es, x.key = 5 → x = e 5) ∧ (∀ x ∈ full.es, x.key ≠ 99) ∧ 63 ≤ full.es.length ∧
    ({ full with es := [e 5] } : Hitters).es.length < 63 := by decide +kernel
/-- A key whose hash under SALT 0 ends in 54 zeros: the inverse of the coin of 02 R69 gives it. -/
theorem wit_DistinctLaws : let d (salt r : Nat) : Distinct := { salt := salt, adds := 0, reg := List.replicate 1024 r }
    (d 0 0).reg.length = 1024 ∧ (d 0 0).salt ≠ (d 1 0).salt ∧ (d 0 0).salt = (d 0 1).salt ∧
    (coin (0 ^^^ 0x5851F42D4C957F2D) 0x24fc40e25330d03).toNat % 2 ^ 54 = 0 ∧
    (let x := (coin (0 ^^^ 0x5851F42D4C957F2D) 1).toNat % 2 ^ 54
     2 ^ (54 - (55 - bitLen x)) ≤ x ∧ x < 2 ^ (55 - (55 - bitLen x)) ∧ 1 ≤ 55 - bitLen x) := by decide +kernel
theorem wit_SummaryMerges : (Sketch.parse (ofBytes (Sketch.empty 5).bytes)).toOption.isSome = true ∧
    (Hitters.parse (ofBytes (toBytes 1024 2))).toOption.isSome = true ∧ (Distinct.parse (ofBytes (toBytes 1088 3))).toOption.isSome = true := by
  decide +kernel
theorem wit_VectorScratchpad_faults : let s := mapped [(2, 0), (3, 8), (4, 0x400000), (5, 1)]
    (∃ i < 64, s.active 64 i = true) ∧ (∀ i < 64, (masked [0] s).active 64 i = false) ∧ (s.rx 5).toNat % 8 ≠ 0 ∧ (s.rx 4).toNat % 8 = 0 ∧
    s.core.inBounds s.str.spb (s.rx 4) 8 = false ∧ (List.range 64).filter ((masked [0] s).active 64) = [] ∧
    (s.rx 4 + BitVec.ofNat 64 (el (s.rv 9).toNat 64 0 * 8)) = s.rx 4 := by decide +kernel
theorem wit_VectorGlobal_faults : let s := leafed 0x1 (mapped [(2, 0), (3, 1)])
    (s.str.xlate = none ∧ (∀ p ∈ pagesOf [(s.rx 2, 512)], s.pkg.lookup s.core.fn { r := true } p.1 = false ∧
      s.pkg.lookup s.core.fn { w := true } p.1 = false)) ∧ s.acquiring true [(0, 512)] = false ∧
    activeRanges (s.rx 2) (actives 8 s.top) = [(s.rx 2, 512)] ∧ (s.pkg.rangesFault s.core.fn { r := true } [(s.rx 2, 512)]).isSome = true ∧
    (s.pkg.rangesFault s.core.fn { w := true } [(s.rx 2, 512)]).isSome = true ∧ (s.rx 3).toNat % 8 ≠ 0 ∧
    activeRanges (s.rx 2) (actives 8 (masked [0] s).top) = [] := by decide +kernel
theorem wit_LandingsAndReplies_invalidation : let inv : Nat × Nat × Nat := (0, 64, 0)
    let s := base.onPkg fun pk => { pk with invals := [inv] }
    let c : Copy := { tag := 5, sec := false, baddr := 0, rcd := 0, red := 0, cnt := some (.fixed 64 { tier := 0, addr := 64 }), ring := none, todo := [], runs := [], err := none }
    inv ∈ s.pkg.invals ∧ s.objOutstanding 0 0 (2 ^ 16) = false ∧ inv ∉ base.pkg.invals ∧
    (s.onCore fun k => { k with copies := [c] }).objOutstanding 0 0 (2 ^ 16) = true ∧
    ({ eff := .bytes [], due := 0, place := true } : GOp).place = true := by decide +kernel
theorem wit_SealAndUnseal_migrating : let s := sealedAs .taking true
    let m : Migration := { tag := none, core := 0, fn := 0, a := { fn := 0, base := 0x10000, size := 2 ^ 16, leaf := 0xF, ctr := 0 }
                           b := { fn := 0, base := 0x30000, size := 2 ^ 16, leaf := 0xF, ctr := 0 }, step := 1, due := 0 }
    s.pkg.migrating 0 0x10000 0x10000 = false ∧ (s.onPkg fun pk => { pk with migrations := [m] }).pkg.migrating 0 0x10000 0x10000 = true ∧
    s.Seated ∧ (s.ctxs.map fun c => c.core.id).Nodup := by
  refine ⟨?_, ?_, ⟨?_, ?_⟩, ?_⟩ <;> decide +kernel
theorem wit_BarrierObjects_global : let s := deviced [(96, 2), (120, 2)] (mapped [(2, 96), (3, 0)])
    let q : GOp := { eff := .bytes [], due := 9, lc := 7, acq := some 64 }
    s.Reaches { r := true } [(s.rx 2, 32)] ∧ ((ofBytes (s.gbytes 96 32)).testBit 193 = true ∧ s.pkg.tierOf 0 96 = 0 ∧ s.str.xlate = none ∧
      (s.onStr fun t => { t with gq := [q] }).unacquired = true ∧ (s.rx 3).toNat = 0) := by
  refine ⟨reaches_of ?_, ?_⟩ <;> decide +kernel
theorem wit_MatrixCommands_faults : let s := engine [(2, 10), (3, 0x81), (4, 2 ^ 48), (5, 0x1002)] none
    let q (n : Nat) (c : MxCmd) : State := s.onCore fun k => { k with cmdq := List.replicate n c }
    s.str.lcc.toNat < (s.rx 2).toNat ∧ (q 4 mxCmd).core.cmdq.length = 4 ∧ (q 1 { mxCmd with start := 10 }).core.cmdq.length < 4 ∧
    (q 1 { mxCmd with start := 10 }).core.lastStart = some 10 ∧ ¬ s.core.uword 9 / 2 ^ 63 = 1 ∧ s.core.uword 8 / 2 ^ 63 = 1 ∧
    2 ^ 48 ≤ (s.rx 4).toNat ∧ (s.rx 4).toNat % 2 ^ 48 = s.str.lcc.toNat ∧ 2 ^ 12 ≤ (s.rx 5).toNat ∧
    (∃ j < 8, (s.rx 5).getLsbD j = true ∧ s.core.dslots.getLsbD j = false) ∧ (engine [] (some mxSeq)).core.seq ≠ none := by decide +kernel
theorem wit_ShapesAndTags_ffr : let e : Trap := { code := 0x0C }
    let s := tagged { st := .outstanding } { st := .done, fresh := true, err := some e } (regs [(3, 6), (4, 2)])
    (s.onStr fun t => { t with ffr := some 1 }).str.ffr = some (BitVec.ofNat 6 1) ∧ s.str.ffr = none ∧
    (List.range 64).filter (fun t => (s.rx 3).getLsbD t) = [1, 2] ∧ (s.core.tag 1).st ≠ .idle ∧ (s.rx 4).toNat < 64 ∧
    (s.core.tag 2).st = .done ∧ (s.core.tag 2).fresh = true ∧ (s.core.tag 2).err = some e ∧ (s.core.tag 1).st = .outstanding := by decide +kernel
theorem wit_ShapeElements : let g := Shape.of (shapeWord true)
    let c : Shape := Shape.of (shapeWord true ||| BitVec.ofNat 1024 (2 ^ 3))
    g.esz ≠ 0 ∧ g.noop = false ∧ g.conv = false ∧ (g.runs 0 0)[0]?.isSome = true ∧ (c.conv = true → c.esz ≠ 0) := by decide +kernel
theorem wit_CopyEvents_out : let r : CopyRun := { cells := [], stage := none, bytes := 1, rows := [], due := 0 }
    let c : Copy := { tag := 5, sec := false, baddr := 0, rcd := 0, red := 0, cnt := none, ring := none, todo := [], runs := [r], err := none }
    let o : GOp := { eff := .bytes [], due := 0, tag := some 5 }
    let s := (base.onCore fun k => { k with copies := [c] }).onStr fun t => { t with gq := [{ eff := .bytes [], due := 0 }, o] }
    c ∈ s.core.copies ∧ (∀ x ∈ s.core.copies, x.tag = 5 → x = c) ∧ c.sec = s.str.sec ∧ s.str.gq = [{ eff := .bytes [], due := 0 }] ++ o :: [] ∧
    (∀ x ∈ [({ eff := .bytes [], due := 0 } : GOp)], x.tag ≠ some 5 ∧ x.place = false) ∧ o.place = false := by decide +kernel
theorem wit_LoopNests : let h := Nest.of nestWord
    1 < min (2 : Nat) 6 ∧ [1].length = h.lv.length ∧ (∀ x ∈ h.lv.zip [1], x.2 < x.1.bound) := by decide +kernel
theorem wit_Collectives_far : let s := collState [] []
    let f : FarChunk := { lid := 0, phnum := 0, fn := 0, gang := 0, tile := 0, bytes := [1, 2], ra := 2048, step := 0, flag := 4096, red := 0
                          rsp := false, fsp := false, last := true, pkg := 9, ref := 3 }
    let c := Chunk.ofFar s.pkg.podn s.pkg.clock f
    s.str.sec = false ∧ s.member c = some s.core.id ∧ c.red = 0 ∧ c.rsp = false ∧ c.fsp = false ∧ s.core.spad.wf = true ∧ s.core.poison = [] ∧
    s.core.stores = [] ∧ 0 ≤ c.ra ∧ c.ra < 2 ^ 64 ∧ s.core.inBounds 0 (BitVec.ofInt 64 c.ra) c.bytes.length = true ∧
    s.core.inBounds 0 c.flag 32 = true ∧ c.ra.toNat + c.bytes.length ≤ c.flag.toNat ∧
    s.core.filling [(c.ra.toNat, c.bytes.length), (c.flag.toNat, 32)] = false ∧ iterOf.bad = none ∧ (collOf [] 2).note = false := by decide +kernel
theorem wit_Messages_waits : let s := channel [(2, 2 ^ 48), (3, 0)] [{ msgOf false 9 with arrive := 5 }]
    s.core.gw.toNat ≤ (s.rx 2).toNat / 2 ^ 48 % 256 ∧ (s.rx 3).toNat / 2 ^ 48 % 256 < s.core.gw.toNat ∧
    (s.core.chan 2).find? (fun m => decide (m.fx.toNat = 0 ∧ m.fy.toNat = 0)) = none ∧
    (s.core.chan 1).find? (fun m => decide (m.fx.toNat = 0 ∧ m.fy.toNat = 0)) = some { msgOf false 9 with arrive := 5 } ∧ s.pkg.clock < 5 := by
  decide +kernel
theorem wit_BarriersAndNeighbours_scopes : let p : PodPlan := { hdr := 0, route := [], map := [] }
    let s := base.onCore fun k => { k with bcount := 2 }
    let q : GOp := { eff := .bytes [], due := 9, lc := 7, acq := some 64 }
    s.core.bcount ≠ 0 ∧ s.pkg.active = none ∧ (s.onPkg fun pk => { pk with active := some p }).pkg.active ≠ none ∧ base.core.bcount = 0 ∧
    (base.onStr fun t => { t with gq := [q] }).unacquired = true ∧ (base.onStr fun t => { t with gq := [q] }).unperformed = true := by decide +kernel
theorem wit_ProbesAndKeys_enc : let s := leafed 0x2F (mapped [(2, 0), (6, 64)])
    ∀ l ∈ s.pkg.physOf s.core.fn (s.rx 2) 64, sget 0 s.pkg.enc (l.addr / 32) = l.kid := by decide +kernel
theorem wit_ActionsAndMigrations_waits : let c : Copy := { tag := 5, sec := false, baddr := 0, rcd := 0, red := 0, cnt := some (.fixed 0x10000 { tier := 0, addr := 0x10000 })
                                                           ring := none, todo := [], runs := [], err := none }
    (migrating.onCore fun k => { k with copies := [c] }).objOutstanding 0 0x10000 (2 ^ 16) = true ∧ migrating.objOutstanding 0 0x10000 (2 ^ 16) = false ∧
    migrating.objOutstanding 0 0x20000 (2 ^ 16) = false ∧ swf 0 0 migrating.pkg.enc = true ∧
    migrating.pkg.keyOk 0 { pageOf 0x10000 1 8 with leaf := 0x8000F } = true ∧ (planOf [] []).sec = migrating.str.sec := by decide +kernel
theorem wit_StreamEvents_stopping : let s := slotted 0 (fun sl => { sl with st := .stopping }) (base.onStr fun t => { t with mode := .ended })
    (s.pkg.slot s.core.slot).st = .stopping ∧ s.drained = true ∧ (base.pkg.slot base.core.slot).st ≠ .stopping ∧
    (phased [0] base).pkg.phases.map (·.wanted) = [[0]] := by decide +kernel
theorem wit_LaunchDescriptors : let u := launching.pkg.queue 5
    let bad (pk : Package) (at_ v : Nat) : Package := { pk with dev := pk.dev.writeN at_ (toBytes 1 v) }
    let pk := launching.pkg
    (0x1001 : Word).toNat % 64 ≠ 0 ∧ ({ u with lid := some 7, last := some 3 } : Queue).last = some 3 ∧ u.lid = none ∧
    (pk.qread u.fn 0 64).toOption.isSome = true ∧ (pk.qread u.fn (2 ^ 40) 64).toOption.isSome = false ∧
    (ofBytes ((pk.qread u.fn 0 64).toOption.getD []) % 2 ^ 32, ofBytes ((pk.qread u.fn 0 64).toOption.getD []) / 2 ^ 64 % 2 ^ 64) = (1, 64) ∧
    ofBytes (((bad pk 24 1).qread u.fn 0 64).toOption.getD []) / 2 ^ 192 % 2 ^ 320 = 1 ∧
    ofBytes ((pk.qread u.fn 64 16).toOption.getD []) = 3 + 2 ^ 64 ∧ (pk.qread u.fn 128 128).toOption.map ofBytes = some 0 ∧
    ofBytes (((bad pk 67 1).qread u.fn 64 16).toOption.getD []) / 2 ^ 17 % 2 ^ 15 = 128 ∧
    rcdF (BitVec.ofNat 1024 (ofBytes (((bad pk 128 1).qread u.fn 128 128).toOption.getD []))) 80 0 = 1 := by decide +kernel
theorem wit_DigestFunction : (List.replicate 136 (0 : Byte)).length = 136 ∧ (List.replicate 25 (0 : Word)).length = 25 := by simp
theorem wit_HostRegisters_more : let s := booted (mapped [])
    (s.pkg.queue 5).fn ≠ (1 : BitVec 5).toNat ∧ (s.pkg.queue 5).fn = (0 : BitVec 5).toNat ∧ base.pkg.bootStep < 5 ∧ base.pkg.bootst ≠ 1 ∧
    HostReg.qbase 0 5 ≠ .boardRead ∧ HostReg.qbase 0 5 ≠ .configRead 0 ∧ s.pkg.bytesWait 0 = false ∧ (s.pkg.fnOf 0).seals = [] ∧
    30 ≤ (30 : Word).toNat ∧ (40 : Word).toNat ≤ 40 := by decide +kernel
theorem wit_BindCases : let b (r : BitVec 1024) : Option Nat := ready.pkg.bindCase r []
    let other := ready.onPkg fun pk => ({ pk with tlb := pk.tlb ++ [{ fn := 1, base := 0, size := 2 ^ 30, leaf := 0x1F, ctr := 0 }] } : Package).onFn 1
      fun f => { f with seals := [⟨0x10000, 0x10000, .sealed⟩] }
    [b goodRcd, b (setRec goodRcd 700 700 1), b (setRec (setRec goodRcd 114 112 7) 120 118 1), b (setRec goodRcd 143 128 1), b (setRec goodRcd 225 224 3),
      b (setRec goodRcd 287 256 3), b (setRec goodRcd 147 147 1), other.pkg.bindCase (setRec goodRcd 153 149 1) [], b (setRec goodRcd 575 512 (2 ^ 40)),
      ready.pkg.bindCase goodRcd [BitVec.ofNat 192 (2 ^ 95)]] =
      [none, some 1, some 2, some 3, some 4, some 5, some 6, some 7, some 8, some 9] := by
  decide +kernel
theorem wit_PlacementAndSaves_over : let y : CoreCtx := { idleTask with a := { idleTask.a with mode := .done } }
    let r := slot64 fun sl => { sl with st := .pending, rcd := goodRcd, resumed := true, ctxs := [y] }
    y.over = true ∧ idleTask.over = false ∧ r.placeable 64 = true ∧ (∀ c ∈ r.ctxs, c.a.mode ≠ .idle → c.core.slot ≠ 64) := by decide +kernel
theorem wit_MailboxCommands_results : let p : Point := { num := 9, list := 0, queue := 5, head := 3, depth := 0 }
    let s := planning.onPkg fun pk => pk.onFn 2 fun f => { f with point := some p }
    let n := booted (slot64 fun sl => { sl with st := .saved, rcd := setRec goodRcd 143 128 1 })
    (s.pkg.fnOf 2).point = some p ∧ (s.pkg.fnOf 1).point = none ∧ p.num.toNat = 9 ∧ (2 : BitVec 5) ≠ 0 ∧ (n.pkg.slot 64).st = .saved ∧
    n.pkg.poisonedImage (n.pkg.slot 64) = none ∧ movedRecord (n.pkg.slot 64).rcd (some 1) = none := by decide +kernel
theorem wit_RecoveryAndNotices_copy : let b : BitVec 2048 := 0
    let s := base.onPkg fun pk => { pk with puppet := [.stop 0 false { trap := { code := 4 }, baddr := 0, lc := 0 } 7 b] }
    s.pkg.puppet = [] ++ .stop 0 false { trap := { code := 4 }, baddr := 0, lc := 0 } 7 b :: [] ∧ b.toNat / 2 ^ 541 % 32 = (0 : BitVec 5).toNat ∧
    (7 : BitVec 32).toNat = 7 := by decide +kernel
theorem wit_OutsideRequests_window : let b := booted (mapped [])
    2 ^ (b.pkg.fnOf 0).bar2 < 2 ^ 40 + 8 ∧ (keyedPage.pkg.rangesFault 0 { w := true, plain := true } [(64, 8)]).map (·.code) ≠ some 0x16 ∧
    ((keyedPage.onPkg fun pk => { pk with keySlots := pk.keySlots.set 5 { owner := 2, valid := true } }).pkg.rangesFault 1
      { w := true, plain := true } [(64, 8)]).map (·.code) = some 0x16 := by decide +kernel
theorem wit_RegionEncryption : let pk := { base.pkg with enc := [(2, 5)] }
    let p : PAddr := { tier := 0, addr := 64, key := 1, kid := 5 }
    pk.dev.wf = true ∧ swf 0 0 pk.enc = true ∧ pk.here p = some 64 ∧ p.kid = 5 ∧ sget 0 pk.enc (64 / 32) = 5 ∧ sget 0 pk.enc (96 / 32) ≠ 5 ∧
    leafTier (0xF : Word) = 0 ∧ leafKey (0xF : Word) = 0 ∧ leafKey (0x140F : Word) = 5 := by decide +kernel
theorem wit_KeysAndTdis_reads : let y : Pending := { target := .x 1 5, left := 0, arrive := 9, keys := [(5, 64)] }
    let s := keyedPage.onStr fun t => { t with pend := [y] }
    (s.pkg.keySlots[5]).valid = true ∧ (s.pkg.keySlots[5]).owner = 1 ∧ (∀ j : Fin 64, (s.pkg.keySlots[j]).valid = true → j = 5) ∧ s.str.pend = [y] ∧
    s.pkg.clock < y.arrive ∧ y.fault = none ∧ s.pkg.dev.wf = true ∧ walking.objOutstanding 1 (2 ^ 30) (2 ^ 30) = false ∧ s.pkg.bootst = 1 ∧
    base.pkg.bootst ≠ 1 := by decide +kernel
theorem wit_KeysAndTdis_waits : let c : Copy := { tag := 5, sec := false, baddr := 0, rcd := 0, red := 0, cnt := some (.fixed (2 ^ 30) { tier := 0, addr := 2 ^ 30 }), ring := none
                                                  todo := [], runs := [], err := none }
    (walking.onCore fun k => { k with fn := 1, copies := [c] }).objOutstanding 1 (2 ^ 30) (2 ^ 30) = true := by decide +kernel
theorem wit_ResetsAndBoard_function : (booted base).pkg.bootst = 1 ∧ base.pkg.bootst ≠ 1 ∧ (1 : BitVec 5) ≠ 0 ∧ (16 : BitVec 5).toNat < 17 := by decide +kernel

end Sys2Proof.Tests
end

section
/-! SUPPORT. What a code of a floating format denotes, and which codes a rounding can give (02 R53 to R57, R65, R66): the facts
about `fdecode` and `fround` on which the statements about the formats rest. -/
namespace Sys2Proof.Machine

/-! ### Lengths -/

theorem bitLen_le {m n : Nat} (h : m < 2 ^ n) : bitLen m ≤ n := by
  unfold bitLen
  split
  · exact Nat.zero_le n
  · next hm => exact (Nat.log2_lt hm).2 h

theorem lt_bitLen {m n : Nat} (h : 2 ^ n ≤ m) : n < bitLen m := by
  have hm : m ≠ 0 := by have := Nat.two_pow_pos n; omega
  rw [bitLen, if_neg hm]
  exact Nat.lt_succ_of_le ((Nat.le_log2 hm).2 h)

theorem log2_mul_two_pow {m : Nat} (hm : m ≠ 0) (k : Nat) : Nat.log2 (m * 2 ^ k) = Nat.log2 m + k := by
  induction k with
  | zero => simp
  | succ k ih =>
    rw [pow_succ, ← Nat.mul_assoc, Nat.log2_eq_log_two,
      Nat.log_mul_base Nat.one_lt_two (Nat.mul_ne_zero hm (Nat.two_pow_pos k).ne'), ← Nat.log2_eq_log_two, ih, Nat.add_assoc]

theorem bitLen_mul_two_pow {m : Nat} (hm : m ≠ 0) (k : Nat) : bitLen (m * 2 ^ k) = bitLen m + k := by
  rw [bitLen, bitLen, if_neg hm, if_neg (Nat.mul_ne_zero hm (Nat.two_pow_pos k).ne'), log2_mul_two_pow hm, Nat.add_right_comm]

/-! ### Codes and their values -/

theorem Fmt.infCode_add_two_pow (f : Fmt) : f.infCode + 2 ^ f.fb = 2 ^ (f.eb + f.fb) := by
  have := Nat.two_pow_pos f.eb
  rw [Fmt.infCode, pow_add, ← Nat.succ_mul]
  congr 1
  omega

theorem Fmt.max_codes_lt (f : Fmt) : max f.maxCode f.infCode < 2 ^ (f.eb + f.fb) := by
  have h := f.infCode_add_two_pow
  have := Nat.two_pow_pos f.fb
  have : f.maxCode < 2 ^ (f.eb + f.fb) := by
    unfold Fmt.maxCode
    split
    · change f.infCode - 1 < _; omega
    · omega
  omega

/-- A code is a sign over a magnitude (02 R52). -/
theorem exists_signBit_add {f : Fmt} {x : Nat} (hx : x < 2 ^ f.width) :
    ∃ neg c, c < 2 ^ (f.eb + f.fb) ∧ x = f.signBit neg + c := by
  have hw : 2 ^ f.width = 2 ^ (f.eb + f.fb) + 2 ^ (f.eb + f.fb) := by
    rw [Fmt.width, Nat.add_assoc, Nat.add_comm, pow_succ]; omega
  by_cases h : x < 2 ^ (f.eb + f.fb)
  · exact ⟨false, x, h, by simp [Fmt.signBit]⟩
  · exact ⟨true, x - 2 ^ (f.eb + f.fb), by omega, by simp [Fmt.signBit]; omega⟩

theorem fdecode_mod (f : Fmt) (x : Nat) : fdecode f (x % 2 ^ f.width) = fdecode f x := by
  simp [fdecode]

theorem Fmt.two_pow_width (f : Fmt) : 2 ^ f.width = 2 ^ (f.eb + f.fb) + 2 ^ (f.eb + f.fb) := by
  rw [Fmt.width, Nat.add_assoc, Nat.add_comm 1, pow_succ, Nat.mul_two]

theorem Fmt.div_two_pow_lt {f : Fmt} {c : Nat} (hc : c < 2 ^ (f.eb + f.fb)) : c / 2 ^ f.fb < 2 ^ f.eb :=
  Nat.div_lt_of_lt_mul (by rwa [← pow_add, Nat.add_comm])

/-- A magnitude is finite when its exponent field is not that of the infinity, or, in a format without one, when it is not
all ones (02 R54). -/
theorem Fmt.le_maxCode {f : Fmt} {c : Nat} (hc : c < 2 ^ (f.eb + f.fb)) (hinf : f.hasInf = true → c / 2 ^ f.fb ≠ 2 ^ f.eb - 1)
    (hnan : f.hasInf = false → c ≠ 2 ^ (f.eb + f.fb) - 1) : c ≤ f.maxCode := by
  unfold Fmt.maxCode
  split
  · next h =>
    have hlt := Fmt.div_two_pow_lt hc
    exact Nat.le_sub_one_of_lt (Nat.lt_mul_of_div_lt (by have := hinf h; omega) (Nat.two_pow_pos _))
  · next h =>
    have := hnan (by simpa using h)
    omega

/-- What a code denotes, by its magnitude c: an infinity, a NaN, or a finite value in units of the last place k places above
that of a subnormal, where k = 0 or the leading bit is set (02 R53, R54). A magnitude up to the largest finite one or the code of
infinity is no NaN. -/
theorem fdecode_signBit_add {f : Fmt} (hf : 0 < f.fb) {c : Nat} (neg : Bool) (hc : c < 2 ^ (f.eb + f.fb)) :
    (c = f.infCode ∧ fdecode f (f.signBit neg + c) = .inf neg) ∨
    (max f.maxCode f.infCode < c ∧ (fdecode f (f.signBit neg + c)).isNaN = true) ∨
    (c ≤ f.maxCode ∧ ∃ m k : Nat, m < 2 ^ (f.fb + 1) ∧ (k = 0 ∨ 2 ^ f.fb ≤ m) ∧ c = k * 2 ^ f.fb + m ∧
      fdecode f (f.signBit neg + c) = .fin neg m (f.emin + k)) := by
  have hlt : f.signBit neg + c < 2 ^ f.width := by
    rw [f.two_pow_width]; cases neg <;> simp [Fmt.signBit] <;> omega
  have hneg : decide (2 ^ (f.eb + f.fb) ≤ f.signBit neg + c) = neg := by
    cases neg <;> simp [Fmt.signBit, hc]
  have hmag : (f.signBit neg + c) % 2 ^ (f.eb + f.fb) = c := by
    cases neg <;> simp [Fmt.signBit, Nat.mod_eq_of_lt hc]
  have hsplit := Nat.div_add_mod' c (2 ^ f.fb)
  have hlow := Nat.mod_lt c (Nat.two_pow_pos f.fb)
  have hcodes := f.infCode_add_two_pow
  have htwo : 2 ^ 1 ≤ 2 ^ f.fb := Nat.pow_le_pow_right Nat.two_pos hf
  unfold fdecode
  simp only [Nat.mod_eq_of_lt hlt, hneg, hmag, Bool.and_eq_true, beq_iff_eq, Bool.not_eq_true']
  split
  · next h =>
    have hc' : f.infCode + c % 2 ^ f.fb = c := by rw [Fmt.infCode, ← h.2, hsplit]
    split
    · exact .inl ⟨by omega, rfl⟩
    · have : f.maxCode = f.infCode - 1 := by simp [Fmt.maxCode, Fmt.infCode, h.1]
      exact .inr (.inl ⟨by omega, rfl⟩)
  · next hfield =>
    split
    · next h =>
      have : f.maxCode = 2 ^ (f.eb + f.fb) - 2 := by simp [Fmt.maxCode, h.1]
      exact .inr (.inl ⟨by omega, rfl⟩)
    · next hones =>
      refine .inr (.inr ⟨Fmt.le_maxCode hc (fun h1 h2 => hfield ⟨h1, h2⟩) (fun h1 h2 => hones ⟨h1, h2⟩), ?_⟩)
      rw [pow_succ]
      split
      · next he =>
        rw [he] at hsplit
        exact ⟨c % 2 ^ f.fb, 0, by omega, .inl rfl, hsplit.symm, by simp⟩
      · next he =>
        refine ⟨c % 2 ^ f.fb + 2 ^ f.fb, c / 2 ^ f.fb - 1, by omega, .inr (by omega), ?_, ?_⟩
        · rw [Nat.sub_one_mul]
          have := Nat.le_mul_of_pos_left (2 ^ f.fb) (Nat.pos_of_ne_zero he)
          omega
        · rw [Nat.cast_sub (Nat.pos_of_ne_zero he), Nat.cast_one]

/-- The magnitude of an infinity, a finite value or an overflow denotes no NaN. -/
theorem isNaN_fdecode_signBit_add {f : Fmt} (hf : 0 < f.fb) {c : Nat} (neg : Bool) (hc : c ≤ max f.maxCode f.infCode) :
    (fdecode f (f.signBit neg + c)).isNaN = false := by
  rcases fdecode_signBit_add hf neg (hc.trans_lt f.max_codes_lt) with ⟨-, h⟩ | ⟨h, -⟩ | ⟨-, m, k, -, -, -, h⟩
  · rw [h]; rfl
  · omega
  · rw [h]; rfl

/-! ### Rounding a value that the format holds -/

/-- Nothing cut off rounds nothing up, whatever the mode or the coin (02 R65, R70). -/
@[simp] theorem roundsUp_zero (r : Rnd) (neg odd : Bool) (sh : Nat) : roundsUp r neg odd 0 sh false = false := by
  cases r with
  | sr u => cases neg <;> simp [roundsUp]
  | rne | rtz | rup | rdn => simp [roundsUp]

/-- A significand of at most fb + 1 bits at a place of the format, whose code is finite, rounds to that code without
a flag: `fround` cuts off just the zeros that it has padded the significand with. -/
theorem fround_exact {f : Fmt} {m k : Nat} (hm : m < 2 ^ (f.fb + 1)) (hk : k = 0 ∨ 2 ^ f.fb ≤ m)
    (hc : k * 2 ^ f.fb + m ≤ f.maxCode) (r : Rnd) (sat neg : Bool) :
    fround f r sat neg m (f.emin + k) = (f.signBit neg + (k * 2 ^ f.fb + m), 0) := by
  obtain rfl | hm0 := Nat.eq_zero_or_pos m
  · obtain rfl : k = 0 := hk.resolve_right (by have := Nat.two_pow_pos f.fb; omega)
    simp [fround]
  have hlen : bitLen m ≤ f.fb + 1 := bitLen_le hm
  have hk' : k = 0 ∨ f.fb < bitLen m := hk.imp_right lt_bitLen
  obtain ⟨pad, hpad⟩ : ∃ pad, f.fb + 4 = pad + bitLen m := ⟨f.fb + 4 - bitLen m, by omega⟩
  have hplace : max (f.emin + k - pad + (bitLen m + pad : Nat) - (f.fb + 1)) f.emin = f.emin + k := by omega
  have hsh : (f.emin + k - (f.emin + k - pad)).toNat = pad := by omega
  have hlift : (f.emin + k - pad - (f.emin + k)).toNat = 0 := by omega
  have hcode : (if m < 2 ^ f.fb then m else k * 2 ^ f.fb + m) = k * 2 ^ f.fb + m := by
    split
    · obtain rfl : k = 0 := hk.resolve_right (by omega)
      simp
    · simp
  unfold fround
  rw [Nat.min_eq_right (by omega), show f.fb + 4 - bitLen m = pad by omega]
  rw [if_neg (by simp [hm0.ne'])]
  simp only [bitLen_mul_two_pow hm0.ne', hplace, hsh, hlift, pow_zero, Nat.mul_one, Nat.mul_mod_left,
    Nat.mul_div_cancel _ (Nat.two_pow_pos pad), Nat.lt_irrefl, decide_false, Bool.or_false, roundsUp_zero]
  simp [hcode, hc.not_gt, show k * 2 ^ f.fb + m ≠ f.maxCode + 1 by omega]

/-- A code that is no NaN stands for itself (02 R53, R56, R65). -/
theorem fput_fdecode {f : Fmt} (hf : 0 < f.fb) (r : Rnd) {x : Nat} (hx : x < 2 ^ f.width) (hn : (fdecode f x).isNaN = false) :
    fput f r (fdecode f x) = (x, 0) := by
  obtain ⟨neg, c, hc, rfl⟩ := exists_signBit_add hx
  rcases fdecode_signBit_add hf neg hc with ⟨rfl, h⟩ | ⟨-, h⟩ | ⟨hmax, m, k, hm, hk, rfl, h⟩
  · rw [h]; rfl
  · rw [hn] at h; contradiction
  · rw [h]; exact fround_exact hm hk hmax r false neg

/-! ### The NaN of a result -/

/-- A result that denotes a NaN is the canonical NaN of the format (02 R55). -/
def CanonicalIfNaN (f : Fmt) (v : Nat × Flg) : Prop := (fdecode f v.1).isNaN = true → v.1 = f.nan

section
variable {f : Fmt} {r : Rnd} {neg sat : Bool} {fl : Flg}

theorem canonicalIfNaN_nan : CanonicalIfNaN f (f.nan, fl) := fun _ => rfl

theorem canonicalIfNaN_finvalid : CanonicalIfNaN f (finvalid f) := canonicalIfNaN_nan

theorem canonicalIfNaN_fnanOf {xs : List FVal} : CanonicalIfNaN f (fnanOf f xs) := canonicalIfNaN_nan

theorem canonicalIfNaN_of_isNaN_eq_false {x : Nat} (h : (fdecode f x).isNaN = false) : CanonicalIfNaN f (x, fl) := by
  simp [CanonicalIfNaN, h]

theorem canonicalIfNaN_ite {p : Prop} [Decidable p] {v w : Nat × Flg} (hv : p → CanonicalIfNaN f v) (hw : ¬ p → CanonicalIfNaN f w) :
    CanonicalIfNaN f (if p then v else w) := by
  split
  · next h => exact hv h
  · next h => exact hw h

/-- Minimum and maximum give an operand, which is a NaN only where both are (04 R123). -/
theorem canonicalIfNaN_fminmax {mx : Bool} {x y : Nat} : CanonicalIfNaN f (fminmax f mx x y) := by
  have hkeep (z : Nat) (fl : Flg) (h : ¬ (fdecode f z).isNaN = true) : CanonicalIfNaN f (z % 2 ^ f.width, fl) :=
    canonicalIfNaN_of_isNaN_eq_false (by rw [fdecode_mod]; simpa using h)
  fun_cases fminmax f mx x y with
  | case1 => exact canonicalIfNaN_nan
  | case2 a b fl hboth ha => exact hkeep y _ fun hb => hboth (by rw [Bool.and_eq_true]; exact ⟨ha, hb⟩)
  | case3 a b fl hboth ha => exact hkeep x _ ha
  | case4 a b fl hboth ha hb => exact hkeep y _ hb
  | case5 a b fl hboth ha => exact hkeep x _ ha

variable (hf : 0 < f.fb)
include hf

theorem canonicalIfNaN_signBit_add {c : Nat} (hc : c ≤ max f.maxCode f.infCode) : CanonicalIfNaN f (f.signBit neg + c, fl) :=
  canonicalIfNaN_of_isNaN_eq_false (isNaN_fdecode_signBit_add hf neg hc)

theorem canonicalIfNaN_inf : CanonicalIfNaN f (f.signBit neg + f.infCode, fl) :=
  canonicalIfNaN_signBit_add hf (le_max_right ..)

theorem canonicalIfNaN_max : CanonicalIfNaN f (f.signBit neg + f.maxCode, fl) :=
  canonicalIfNaN_signBit_add hf (le_max_left ..)

theorem canonicalIfNaN_zero : CanonicalIfNaN f (f.signBit neg, fl) :=
  canonicalIfNaN_signBit_add (c := 0) hf (Nat.zero_le _)

theorem canonicalIfNaN_posInf : CanonicalIfNaN f (f.infCode, fl) := by
  simpa [Fmt.signBit] using canonicalIfNaN_inf (neg := false) (fl := fl) hf

theorem canonicalIfNaN_posZero : CanonicalIfNaN f (0, fl) := canonicalIfNaN_zero (neg := false) hf

/-- An overflow in a format without infinity gives its canonical NaN; else an infinity or the largest finite magnitude (02 R66). -/
theorem canonicalIfNaN_overflowCode : CanonicalIfNaN f (overflowCode f r neg sat) := by
  unfold overflowCode
  refine canonicalIfNaN_ite (fun _ => canonicalIfNaN_max hf) fun _ =>
    canonicalIfNaN_ite (fun _ => ?_) fun _ => canonicalIfNaN_max hf
  split
  · exact canonicalIfNaN_inf hf
  · exact canonicalIfNaN_nan

theorem canonicalIfNaN_fround {m : Nat} {e : Int} {sticky : Bool} : CanonicalIfNaN f (fround f r sat neg m e sticky) := by
  unfold fround
  refine canonicalIfNaN_ite (fun _ => canonicalIfNaN_zero hf) fun _ =>
    canonicalIfNaN_ite (fun _ => canonicalIfNaN_max hf) fun _ =>
    canonicalIfNaN_ite (fun _ => canonicalIfNaN_overflowCode hf) fun hc =>
    canonicalIfNaN_signBit_add hf (le_max_of_le_left (Nat.le_of_not_lt hc))

theorem canonicalIfNaN_fput {v : FVal} : CanonicalIfNaN f (fput f r v) := by
  cases v with
  | nan s => exact canonicalIfNaN_nan
  | inf neg => exact canonicalIfNaN_inf hf
  | fin neg m e => exact canonicalIfNaN_fround hf

theorem canonicalIfNaN_froundSum {n1 n2 : Bool} {s : Int × Int} : CanonicalIfNaN f (froundSum f r n1 n2 s) :=
  canonicalIfNaN_ite (fun _ => canonicalIfNaN_zero hf) fun _ => canonicalIfNaN_fround hf

theorem canonicalIfNaN_faddV {a b : FVal} : CanonicalIfNaN f (faddV f r a b) := by
  fun_cases faddV f r a b with
  | case1 | case2 => exact canonicalIfNaN_fnanOf
  | case3 | case5 | case6 => exact canonicalIfNaN_inf hf
  | case4 => exact canonicalIfNaN_finvalid
  | case7 => exact canonicalIfNaN_froundSum hf

theorem canonicalIfNaN_fmulR {a b : FVal} : CanonicalIfNaN f (fmulR f r a b) :=
  canonicalIfNaN_ite (fun _ => canonicalIfNaN_finvalid) fun _ => canonicalIfNaN_fput hf

theorem canonicalIfNaN_ffmaR {a b c : FVal} : CanonicalIfNaN f (ffmaR f r a b c) :=
  canonicalIfNaN_ite (fun _ => canonicalIfNaN_finvalid) fun _ =>
    canonicalIfNaN_ite (fun _ => canonicalIfNaN_fnanOf) fun _ => canonicalIfNaN_faddV hf

theorem canonicalIfNaN_fdivR {a b : FVal} : CanonicalIfNaN f (fdivR f r a b) := by
  fun_cases fdivR f r a b with
  | case1 | case2 => exact canonicalIfNaN_fnanOf
  | case3 | case6 => exact canonicalIfNaN_finvalid
  | case4 | case7 => exact canonicalIfNaN_inf hf
  | case5 => exact canonicalIfNaN_zero hf
  | case8 => exact canonicalIfNaN_fround hf

theorem canonicalIfNaN_fsqrtR {a : FVal} : CanonicalIfNaN f (fsqrtR f r a) := by
  fun_cases fsqrtR f r a with
  | case1 => exact canonicalIfNaN_fnanOf
  | case2 | case5 => exact canonicalIfNaN_finvalid
  | case3 => exact canonicalIfNaN_posInf hf
  | case4 => exact canonicalIfNaN_zero hf
  | case6 => exact canonicalIfNaN_fround hf

theorem canonicalIfNaN_frsqrtR {a : FVal} : CanonicalIfNaN f (frsqrtR f r a) := by
  fun_cases frsqrtR f r a with
  | case1 => exact canonicalIfNaN_fnanOf
  | case2 | case5 => exact canonicalIfNaN_finvalid
  | case3 => exact canonicalIfNaN_posZero hf
  | case4 => exact canonicalIfNaN_inf hf
  | case6 => exact canonicalIfNaN_fround hf

theorem canonicalIfNaN_fexp2R {a : FVal} : CanonicalIfNaN f (fexp2R f r a) := by
  fun_cases fexp2R f r a with
  | case1 => exact canonicalIfNaN_fnanOf
  | case2 => exact canonicalIfNaN_posZero hf
  | case3 => exact canonicalIfNaN_posInf hf
  | case4 | case5 | case6 | case7 | case8 | case9 | case10 => exact canonicalIfNaN_fround hf

theorem canonicalIfNaN_flog2R {a : FVal} : CanonicalIfNaN f (flog2R f r a) := by
  fun_cases flog2R f r a with
  | case1 => exact canonicalIfNaN_fnanOf
  | case2 | case5 => exact canonicalIfNaN_finvalid
  | case3 => exact canonicalIfNaN_posInf hf
  | case4 => exact canonicalIfNaN_inf hf
  | case6 | case7 | case8 => exact canonicalIfNaN_fround hf

theorem canonicalIfNaN_fconvert {src : Fmt} {x : Nat} : CanonicalIfNaN f (fconvert src f r sat x) := by
  fun_cases fconvert src f r sat x with
  | case1 | case4 => exact canonicalIfNaN_nan
  | case2 => exact canonicalIfNaN_max hf
  | case3 => exact canonicalIfNaN_inf hf
  | case5 => exact canonicalIfNaN_fround hf

theorem canonicalIfNaN_fofInt {i : Int} : CanonicalIfNaN f (fofInt f r sat i) := canonicalIfNaN_fround hf

end

end Sys2Proof.Machine
end

section
/-! The obligation about the codes of the formats (02 R53 to R57, R65). -/
namespace Sys2Proof
open Machine

theorem fb_pos_of_mem : ∀ f ∈ [F64, F32, F16, BF16, E5M2, E4M3], 0 < f.fb := by decide

theorem roundingKeepsCodes : Rules.RoundingKeepsCodes :=
  fun f hf r _ hx hn => fput_fdecode (fb_pos_of_mem f hf) r hx hn

theorem canonicalNaN : Rules.CanonicalNaN := by
  refine ⟨by decide, fun f hmem g _ r a b c sat x y i => ?_⟩
  have hf := fb_pos_of_mem f hmem
  simp only [List.forall_mem_cons]
  exact ⟨canonicalIfNaN_faddV hf, canonicalIfNaN_fmulR hf, canonicalIfNaN_ffmaR hf, canonicalIfNaN_fdivR hf, canonicalIfNaN_fsqrtR hf,
    canonicalIfNaN_frsqrtR hf, canonicalIfNaN_fexp2R hf, canonicalIfNaN_flog2R hf, canonicalIfNaN_fminmax, canonicalIfNaN_fminmax,
    canonicalIfNaN_fconvert hf, canonicalIfNaN_fofInt hf, by simp⟩

/-- Settles O8: a code's magnitude splits by its exponent field, a finite one has its last place on the format's grid, so that
nothing is cut off; and every arm of an operation ends in a magnitude up to the largest finite one or infinity, or in the
canonical NaN. -/
theorem formatCodes : Obligations.FormatCodes := ⟨roundingKeepsCodes, canonicalNaN⟩

end Sys2Proof
end

section
/-! SUPPORT. The results of the scalar divisions and bit fields (04 R118 to R120): what each quotient, remainder and field is, and that
its form lands it. -/
namespace Sys2Proof.Machine

/-- A scalar form that lands its result completes with that one result on its way. -/
theorem landX_eq_next_gives (s : State) (d : BitVec 5) (lat : Nat) (v : Word) (fl : Flg) :
    landX s d lat v fl = .next (s.gives (.x d v) lat fl) := rfl

/-! ### Division and remainder -/

section
variable (s : State) (d a b : BitVec 5)

theorem completes_div : Completes (.div d a b) s
    (s.gives (.x d (divS (s.rx a) (s.rx b)).1) 12 (divS (s.rx a) (s.rx b)).2) := landX_eq_next_gives ..

theorem completes_divu : Completes (.divu d a b) s
    (s.gives (.x d (divU (s.rx a) (s.rx b)).1) 12 (divU (s.rx a) (s.rx b)).2) := landX_eq_next_gives ..

theorem completes_rem : Completes (.rem d a b) s
    (s.gives (.x d (remS (s.rx a) (s.rx b)).1) 12 (remS (s.rx a) (s.rx b)).2) := landX_eq_next_gives ..

theorem completes_remu : Completes (.remu d a b) s
    (s.gives (.x d (remU (s.rx a) (s.rx b)).1) 12 (remU (s.rx a) (s.rx b)).2) := landX_eq_next_gives ..

end

section
variable (x : Word)

@[simp] theorem divS_zero : divS x 0 = (BitVec.allOnes 64, flNV) := rfl
@[simp] theorem divU_zero : divU x 0 = (BitVec.allOnes 64, flNV) := rfl
@[simp] theorem remS_zero : remS x 0 = (x, flNV) := rfl
@[simp] theorem remU_zero : remU x 0 = (x, flNV) := rfl

variable {x} {y : Word} (hy : y ≠ 0)
include hy

theorem divS_of_ne_zero : divS x y = (BitVec.ofInt 64 (x.toInt.tdiv y.toInt), 0) := if_neg hy

theorem divU_of_ne_zero : divU x y = (BitVec.ofNat 64 (x.toNat / y.toNat), 0) := if_neg hy

/-- The remainder of a division that truncates is what the quotient leaves (04 Table 4, op 5). -/
theorem remS_of_ne_zero : remS x y = (BitVec.ofInt 64 (x.toInt - y.toInt * x.toInt.tdiv y.toInt), 0) := by
  rw [remS, if_neg hy, Int.tmod_def]

theorem remU_of_ne_zero : remU x y = (BitVec.ofNat 64 (x.toNat % y.toNat), 0) := if_neg hy

end

/-- The quotient 2^63 of the signed overflow wraps to -2^63, without a flag (04 R119). -/
theorem divS_intMin_allOnes : divS (BitVec.intMin 64) (BitVec.allOnes 64) = (BitVec.intMin 64, 0) := by decide

theorem remS_intMin_allOnes : remS (BitVec.intMin 64) (BitVec.allOnes 64) = (0, 0) := by decide

/-! ### Bit fields -/

theorem bits_eq_extractLsb' {n : Nat} (x : BitVec n) (lo : Nat) {w : Nat} (hw : 0 < w) :
    bits x.toNat (lo + w - 1) lo = (x.extractLsb' lo w).toNat := by
  have hlen : lo + w - 1 - lo + 1 = w := by omega
  rw [bits, hlen, BitVec.extractLsb'_toNat, Nat.shiftRight_eq_div_pow]

/-- Reading a string of bits as a two's complement integer is the library's reading. -/
theorem toSigned_toNat {w : Nat} (hw : 0 < w) (x : BitVec w) : toSigned w x.toNat = x.toInt := by
  have htwo : 2 * 2 ^ (w - 1) = 2 ^ w := mul_pow_sub_one hw.ne' 2
  have hhalf : x.toNat < 2 ^ (w - 1) ↔ 2 * x.toNat < 2 ^ w := by omega
  simp only [toSigned, BitVec.toInt, hhalf, Nat.cast_pow, Nat.cast_ofNat]

section
variable {s : State} {d a b : BitVec 5} {lo w : Nat} (hlo : lo = (s.rx b).toNat % 64)
  (hw : w = min (if (s.rx b).toNat / 256 % 64 = 0 then 64 else (s.rx b).toNat / 256 % 64) (64 - lo))
include hlo hw

/-- The cut at bit 63 leaves a field of at least one bit, as it starts below bit 64. -/
theorem fieldWidth_pos : 0 < w := by
  split at hw <;> omega

theorem extField_eq_extractLsb' : extField (s.rx a) (s.rx b) = (((s.rx a).extractLsb' lo w).toNat, w) := by
  have hstart : bits (s.rx b).toNat 5 0 = lo := by simp [bits, hlo]
  have hcode : bits (s.rx b).toNat 13 8 = (s.rx b).toNat / 256 % 64 := rfl
  rw [← bits_eq_extractLsb' _ _ (fieldWidth_pos hlo hw), hw, extField, hstart, hcode]

/-- EXTU lands the field, zero-extended (04 R120). -/
theorem completes_extu : Completes (.extu d a b) s (s.gives (.x d (((s.rx a).extractLsb' lo w).setWidth 64)) 3) := by
  have hv : BitVec.ofNat 64 (extField (s.rx a) (s.rx b)).1 = ((s.rx a).extractLsb' lo w).setWidth 64 := by
    rw [extField_eq_extractLsb' hlo hw, BitVec.ofNat_toNat]
  rw [← hv]
  exact landX_eq_next_gives ..

/-- EXTS lands the field, sign-extended from its highest bit (04 R120). -/
theorem completes_exts : Completes (.exts d a b) s (s.gives (.x d (((s.rx a).extractLsb' lo w).signExtend 64)) 3) := by
  have hv : BitVec.ofInt 64 (toSigned (extField (s.rx a) (s.rx b)).2 (extField (s.rx a) (s.rx b)).1) =
      ((s.rx a).extractLsb' lo w).signExtend 64 := by
    rw [extField_eq_extractLsb' hlo hw, toSigned_toNat (fieldWidth_pos hlo hw), BitVec.signExtend]
  rw [← hv]
  exact landX_eq_next_gives ..

end

theorem getLsbD_setWidth_extractLsb' (x : Word) (lo w : Nat) {k : Nat} (hk : k < 64) :
    ((x.extractLsb' lo w).setWidth 64).getLsbD k = if k < w then x.getLsbD (lo + k) else false := by
  simp [BitVec.getLsbD_extractLsb', hk]

/-- Beyond the field a sign extension repeats the field's bit w - 1. -/
theorem getLsbD_signExtend_extractLsb' (x : Word) (lo : Nat) {w k : Nat} (hw : 0 < w) (hk : k < 64) :
    ((x.extractLsb' lo w).signExtend 64).getLsbD k = x.getLsbD (lo + min k (w - 1)) := by
  rw [BitVec.getLsbD_signExtend, BitVec.msb_eq_getLsbD_last, BitVec.getLsbD_extractLsb', BitVec.getLsbD_extractLsb']
  by_cases h : k < w
  · simp [hk, h, Nat.min_eq_left (Nat.le_sub_one_of_lt h)]
  · simp [hk, h, hw, Nat.min_eq_right (show w - 1 ≤ k by omega)]

end Sys2Proof.Machine
end

section
/-! The obligations about divisions and bit fields (04 R118 to R120). -/
namespace Sys2Proof
open Machine

/-- Settles O6: EXTU lands the zero extension and EXTS the sign extension of the field, whose bits are those of xa from lo on. -/
theorem bitFieldResults : Obligations.BitFieldResults := fun s _ a _ lo w hlo hw =>
  ⟨⟨_, completes_extu hlo hw, fun _ hk => getLsbD_setWidth_extractLsb' (s.rx a) lo w hk⟩,
    ⟨_, completes_exts hlo hw, fun _ hk => getLsbD_signExtend_extractLsb' (s.rx a) lo (fieldWidth_pos hlo hw) hk⟩⟩

/-- Settles O5: each form lands the value and the flags of its quotient or remainder, by a divisor other than 0, by 0, and in the
signed overflow. -/
theorem divisionResults : Obligations.DivisionResults := by
  intro s d a b
  have hdiv := completes_div s d a b
  have hdivu := completes_divu s d a b
  have hrem := completes_rem s d a b
  have hremu := completes_remu s d a b
  refine ⟨fun hb => ?_, fun hb => ?_, fun ha hb => ?_⟩
  · rw [divS_of_ne_zero hb] at hdiv
    rw [divU_of_ne_zero hb] at hdivu
    rw [remS_of_ne_zero hb] at hrem
    rw [remU_of_ne_zero hb] at hremu
    exact ⟨hdiv, hdivu, hrem, hremu⟩
  · rw [hb, divS_zero] at hdiv
    rw [hb, divU_zero] at hdivu
    rw [hb, remS_zero] at hrem
    rw [hb, remU_zero] at hremu
    exact ⟨hdiv, hdivu, hrem, hremu⟩
  · rw [ha, hb, divS_intMin_allOnes] at hdiv
    rw [ha, hb, remS_intMin_allOnes] at hrem
    exact ⟨hdiv, hrem⟩

end Sys2Proof
end

section
/-! SUPPORT. Accesses that nothing stands in the way of: a read of the pool (01 R34 to R40) and a read of global memory (10 R270 to
R284) go on, and what each leaves behind. -/
namespace Sys2Proof.Machine

theorem Try.ok_bind {α β : Type} (a : α) (f : α → Try β) : (Except.ok a : Try α) >>= f = f a := rfl

/-! ### The pool -/

section
variable {s : State} {rs : List (Nat × Nat)} (hfree : s.Free rs)
include hfree

theorem State.Free.poisonUnder_eq_none : s.core.poisonUnder rs = none := by
  simp only [Core.poisonUnder, List.find?_eq_none, List.any_eq_true, not_exists, not_and, Bool.not_eq_true]
  exact fun q hq r hr => hfree.clean r hr q hq

/-- No copy on its way writes a byte of the ranges, so that the checker of 14 R371 finds no early read. -/
theorem State.Free.early_eq_none (la : Word) : s.early false 0 la rs = none := by
  have hnone : (s.core.watch.findSome? fun w =>
      (w.dst.find? fun b => decide (0 < b.2) && rs.any fun r => overlap r.1 r.2 b.1 1).map fun b => (w, b)) = none := by
    simp only [List.findSome?_eq_none_iff, Option.map_eq_none_iff, List.find?_eq_none, Bool.and_eq_true, List.any_eq_true,
      not_and, not_exists, Bool.not_eq_true]
    exact fun w hw b hb _ r hr => hfree.unread r hr w hw b (List.mem_append_right _ hb)
  exact congrArg (Option.map _) hnone

theorem State.Free.laccFault_eq_none (la : Word) : s.laccFault false 0 la rs = none := by
  simp [State.laccFault, hfree.poisonUnder_eq_none, hfree.early_eq_none, lowTrap]

/-- No row of the ranges is marked, so that the read is counted and writes no cause (08 R218). -/
theorem State.Free.lcount_eq_sampled : s.lcount false rs = s.sampled rs := by
  have hmarks : (rs.flatMap fun r => rowsOf r.1 r.2).any s.core.marks.contains = false := by
    simp only [List.any_eq_false, List.mem_flatMap, List.contains_iff_mem]
    rintro q ⟨r, hr, hq⟩
    exact hfree.unmarked r hr q hq
  simp [State.lcount, hmarks, State.sampled]

end

/-- A range within bounds holds each shorter one from its first byte on. -/
theorem Core.inBounds_of_le {k : Core} {spb la : Word} {m n : Nat} (hmn : m ≤ n) (h : k.inBounds spb la n = true) :
    k.inBounds spb la m = true := by
  simp only [Core.inBounds, Bool.and_eq_true, decide_eq_true_eq] at h ⊢
  omega

/-! ### Global memory -/

theorem lowTrap_none_right : ∀ t : Option Trap, lowTrap t none = t
  | none | some _ => rfl

theorem lowTrap_none_left : ∀ t : Option Trap, lowTrap none t = t
  | none | some _ => rfl

/-- An access without a range passes every check once no translation is waited for. -/
theorem State.reaches_nil {s : State} (need : Need) (hx : s.str.xlate = none) : s.Reaches need [] where
  cached := by simp [pagesOf]
  ready := .inl ⟨hx, by simp [pagesOf]⟩
  acquired := by simp [State.acquiring, Stream.acquiring]
  settled := by
    intro o _
    unfold GOp.combines
    split <;> simp
  allowed := rfl
  pages := by simp [pagesOf]
  unwatched := by simp
  unbound := by simp
  reachable := by simp

/-- The translation of a page that is cached is in the cache already. -/
theorem Package.fill_of_translate {pk : Package} {fn : Nat} {va : Word} {e : TlbEnt}
    (hcached : (pk.cached fn (bits va.toNat 56 0)).isSome = true) (he : pk.translate fn va = .ok e) : pk.fill e = pk := by
  obtain ⟨c, hc⟩ := Option.isSome_iff_exists.1 hcached
  rw [Package.translate, hc] at he
  have hce : c = e := by
    split at he
    · cases he
    · exact Except.ok.inj he
  have hmem : e ∈ pk.tlb := hce ▸ List.mem_of_find?_eq_some hc
  exact if_pos (List.any_eq_true.2 ⟨e, hmem, by simp⟩)

theorem Package.foldl_fill_eq_self {α : Type} {pk : Package} (f : α → TlbEnt) :
    ∀ {es : List α}, (∀ e ∈ es, pk.fill (f e) = pk) → es.foldl (fun pk e => pk.fill (f e)) pk = pk
  | [], _ => rfl
  | e :: es, h => by
    rw [List.foldl_cons, h e List.mem_cons_self]
    exact foldl_fill_eq_self f fun x hx => h x (List.mem_cons_of_mem e hx)

theorem State.onPkg_eq_self {s : State} {f : Package → Package} (h : f s.pkg = s.pkg) : s.onPkg f = s := by
  rw [State.onPkg, h]

/-- The translations that an access with need `need` finds for its pages. -/
def State.found (s : State) (need : Need) (rs : List (Word × Nat)) : List (Need × TlbEnt) :=
  (pagesOf rs).filterMap fun p => match s.pkg.translate s.core.fn p.1 with
    | .ok e => some (need, e)
    | .error _ => none

theorem State.mem_found {s : State} {need : Need} {rs : List (Word × Nat)} {x : Need × TlbEnt} :
    x ∈ s.found need rs ↔ x.1 = need ∧ ∃ p ∈ pagesOf rs, s.pkg.translate s.core.fn p.1 = .ok x.2 := by
  obtain ⟨n, e⟩ := x
  simp only [State.found, List.mem_filterMap]
  constructor
  · rintro ⟨p, hp, h⟩
    split at h
    next e' he => cases h; exact ⟨rfl, p, hp, he⟩
    next => cases h
  · rintro ⟨rfl, p, hp, he⟩
    exact ⟨p, hp, by rw [he]⟩

/-- What is left of the checks of an access once its translations are at hand (10 R270, R272). -/
def State.checkFound (s : State) (need : Need) (rs : List (Word × Nat)) (extra : Package → Option Trap) : Try State := do
  trapOpt s (lowTrap (extra s.pkg) (s.pkg.rangesFault s.core.fn need rs))
  let s' := s.onPkg fun pk => (s.found need rs).foldl (fun pk e => pk.fill e.2) pk
  holdIf s' ((s.found need rs).any fun e => e.1.w && !e.1.plain && leafBit e.2.leaf 7)
  .ok s'

theorem State.Ready.gcheckFn_eq_checkFound {s : State} {need : Need} {rs : List (Word × Nat)} (hready : s.Ready need rs)
    (extra : Package → Option Trap) : s.gcheckFn s.core.fn need rs extra = s.checkFound need rs extra := by
  unfold State.gcheckFn State.gcheckAll
  simp only [List.flatMap_singleton, List.filterMap_map, List.any_map]
  obtain ⟨hx, hlookup⟩ | ⟨c, hx, hc⟩ := hready
  · have hnone : (pagesOf rs).any ((fun p : Need × Word => s.pkg.lookup s.core.fn p.1 p.2) ∘ fun p => (need, p.1)) = false := by
      simpa using hlookup
    rw [hx]
    simp only [hnone]
    rfl
  · have hpassed : decide (s.pkg.clock < c) = false := decide_eq_false (Nat.not_lt.2 hc)
    rw [hx]
    simp only [hpassed]
    rfl

/-- Without an atomic of the stream on the bytes, a read performs nothing first. -/
theorem State.settleG_eq_self {s : State} {pas : List PAddr} (h : ∀ o ∈ s.str.gq, o.combines pas = false) : s.settleG pas = s := by
  have hnone : (List.range s.str.gq.length).reverse.find? (fun i =>
      (s.str.gq[i]?.map fun o => o.combines pas).getD false) = none := by
    simp only [List.find?_eq_none, List.mem_reverse, List.mem_range]
    intro i hi
    rw [List.getElem?_eq_getElem hi, Option.map_some, Option.getD_some, h _ (List.getElem_mem hi)]
    exact Bool.false_ne_true
  rw [State.settleG, hnone]

theorem State.gloadCause_eq_self {s : State} {rs : List (Word × Nat)}
    (h : ∀ r ∈ rs, s.touchesObject true (bits r.1.toNat 56 0) r.2 = false) : s.gloadCause rs = s := by
  have hnone : (rs.any fun r => s.touchesObject true (bits r.1.toNat 56 0) r.2) = false := by
    simpa only [List.any_eq_false, Bool.not_eq_true] using h
  simp [State.gloadCause, hnone]

/-- Write tracking records nothing of a read but the cause of a block that another gang wrote first (08 R210). -/
theorem State.track_read (s : State) (pas : List PAddr) : s.track false pas = s ∨ s.track false pas = s.cause 0x04 := by
  unfold State.track State.trackBy
  split
  · exact .inl rfl
  · simp only [Bool.not_false, if_true]
    split
    · exact .inr rfl
    · exact .inl rfl

section
variable {s : State} {need : Need} {rs : List (Word × Nat)} (hreach : s.Reaches need rs)
include hreach

/-- An access that goes through fills no translation and is held by no page: the instruction's own fault alone is left. -/
theorem State.Reaches.gcheckFn_eq (extra : Package → Option Trap) :
    s.gcheckFn s.core.fn need rs extra = (do trapOpt s (extra s.pkg); .ok s) := by
  have hfill : s.onPkg (fun pk => (s.found need rs).foldl (fun pk e => pk.fill e.2) pk) = s := by
    refine State.onPkg_eq_self (Package.foldl_fill_eq_self Prod.snd fun x hx => ?_)
    obtain ⟨-, p, hp, he⟩ := State.mem_found.1 hx
    exact Package.fill_of_translate (hreach.cached p hp) he
  have hopen : ((s.found need rs).any fun e => e.1.w && !e.1.plain && leafBit e.2.leaf 7) = false := by
    refine List.any_eq_false.2 fun x hx => ?_
    obtain ⟨-, p, hp, he⟩ := State.mem_found.1 hx
    simp [(hreach.pages p hp x.2 he).1]
  rw [hreach.ready.gcheckFn_eq_checkFound]
  simp only [State.checkFound, hreach.allowed, lowTrap_none_right, hfill, hopen]
  rfl

/-- No page counts accesses. -/
theorem State.Reaches.gcount_eq_self : s.gcount rs = s := by
  unfold State.gcount
  refine State.onPkg_eq_self ?_
  rw [List.filterMap_eq_nil_iff.2]
  · rfl
  · intro p hp
    split
    next e he => rw [(hreach.pages p hp e he).2]; rfl
    next => rfl

/-- A global read leaves the state as it is, but for the cause of a block that another gang wrote first (08 R210). -/
theorem State.Reaches.gcounted_gloadCause (hr : need.w = false) :
    (s.gcounted need rs).gloadCause rs = s ∨ (s.gcounted need rs).gloadCause rs = s.cause 0x04 := by
  have hrest : ∀ t : State, t.str = s.str →
      (if need.r then t.settleG (rs.flatMap fun r => s.pkg.physOf s.core.fn r.1 r.2) else t).gloadCause rs = t := by
    intro t hstr
    have hbound : ∀ r ∈ rs, t.touchesObject true (bits r.1.toNat 56 0) r.2 = false := by
      simpa only [State.touchesObject, hstr] using hreach.unbound
    rw [State.settleG_eq_self (by rw [hstr]; exact hreach.settled), ite_self, State.gloadCause_eq_self hbound]
  simp only [State.gcounted, hreach.gcount_eq_self, hr]
  rcases s.track_read (rs.flatMap fun r => s.pkg.physOf s.core.fn r.1 r.2) with h | h <;> rw [h]
  · exact .inl (hrest s rfl)
  · exact .inr (hrest _ rfl)

end

end Sys2Proof.Machine
end

section
/-! SUPPORT. Group tables as CRANK and CRANKG find them, and the ranks and plans that land (21 R476, R490 to R492). -/
namespace Sys2Proof.Machine

/-! ### Strings of bytes and elements -/

theorem els_eq_map_el (w : Nat) : ∀ n v : Nat, els w n v = (List.range n).map (el v w)
  | 0, _ => rfl
  | n + 1, v => by
    rw [els, els_eq_map_el w n, List.range_succ_eq_map, List.map_cons, List.map_map]
    simp [el, Function.comp_def, Nat.mul_succ, Nat.pow_add, Nat.div_div_eq_div_mul, Nat.mul_comm]

theorem ofBytes_lt (bs : List Byte) : ofBytes bs < 2 ^ (8 * bs.length) := by
  simpa [ofBytes] using ofEls_lt 8 (bs.map BitVec.toNat)

theorem ofBytes_cons (b : Byte) (bs : List Byte) : ofBytes (b :: bs) = b.toNat + 2 ^ 8 * ofBytes bs := by
  rw [ofBytes, List.map_cons, ofEls, Nat.mod_eq_of_lt b.isLt, ofBytes]

/-- The bytes from the k-th on are the value above its 8 k low bits (00 R4). -/
theorem ofBytes_drop : ∀ (k : Nat) (bs : List Byte), ofBytes (bs.drop k) = ofBytes bs / 2 ^ (8 * k)
  | 0, bs => by simp
  | k + 1, [] => by simp [ofBytes, ofEls]
  | k + 1, b :: bs => by
    have hb : b.toNat < 2 ^ 8 := b.isLt
    rw [List.drop_succ_cons, ofBytes_drop k bs, ofBytes_cons, Nat.mul_succ, Nat.add_comm (8 * k), Nat.pow_add,
      ← Nat.div_div_eq_div_mul, Nat.add_mul_div_left _ _ (by positivity), Nat.div_eq_of_lt hb, Nat.zero_add]

/-- In the list of the numbers from 0 on, a place is what stands there. -/
theorem findIdx?_range (p : Nat → Bool) (n : Nat) : (List.range n).findIdx? p = (List.range n).find? p := by
  induction n with
  | zero => rfl
  | succ n ih =>
    rw [List.range_succ, List.findIdx?_append, List.find?_append, ih]
    cases hp : p n <;> simp [hp]

/-! ### Group tables -/

/-- The entries of a table of `g` whose bytes, the header's first, are `raw` (21 R476). -/
def tableEntries (g raw : Nat) : List (BitVec 32) :=
  (List.range g).map fun i => BitVec.ofNat 32 (raw / 2 ^ (128 + 32 * i) % 2 ^ 32)

theorem entries_drop_eq (g : Nat) (bs : List Byte) :
    (els 32 g (ofBytes (bs.drop 16))).map (BitVec.ofNat 32) = tableEntries g (ofBytes bs) := by
  rw [els_eq_map_el, ofBytes_drop, List.map_map, tableEntries]
  simp [el, Function.comp_def, Nat.div_div_eq_div_mul, Nat.pow_add]

/-- The issuer's rank is the lowest index of its own package, gang and tile (21 R476, R491). -/
theorem State.rankIn_tableEntries (s : State) (g raw : Nat) : s.rankIn (tableEntries g raw) =
    (List.range g).find? fun i => raw / 2 ^ (128 + 32 * i) % 2 ^ 32 ==
      s.pkg.podn % 1024 * 2 ^ 22 + s.core.gang.toNat * 2 ^ 6 + s.core.tile.toNat % 64 := by
  simp [State.rankIn, tableEntries, findIdx?_range, Function.comp_def]

theorem tableSize_eq_some {g : Nat} (hpos : 1 ≤ g) (hmax : g ≤ 1024) : tableSize g = some g := by
  have hlow : bits g 31 0 = g := by simp only [bits]; omega
  have hhigh : bits g 127 32 = 0 := by simp only [bits]; omega
  simp [tableSize, hlow, hhigh, hpos, hmax]

/-- A header of another size is malformed, its low word or one of the words above it. -/
theorem tableSize_eq_none {hdr : Nat} (hlt : hdr < 2 ^ 128) (hbad : hdr = 0 ∨ 1024 < hdr) : tableSize hdr = none := by
  refine if_neg fun ⟨hpos, hmax, hhigh⟩ => ?_
  simp only [bits] at hpos hmax hhigh
  omega

section
variable {s : State} {va : Word} {g : Nat}

theorem State.tableAt_local (hin : s.core.inBounds s.str.spb va (16 + 4 * g) = true)
    (hdr : s.core.spad.num (poolAddr s.str.spb va) 16 = g) (hpos : 1 ≤ g) (hmax : g ≤ 1024) :
    s.tableAt false va = { range := (va, 16 + 4 * g)
                           fault := s.laccFault false 0 va [(poolAddr s.str.spb va, 16 + 4 * g)]
                           entries := some (tableEntries g (s.core.spad.num (poolAddr s.str.spb va) (16 + 4 * g))) } := by
  have hhead := Core.inBounds_of_le (Nat.le_add_right 16 (4 * g)) hin
  rw [Memory.num] at hdr
  simp [State.tableAt, hhead, hdr, tableSize_eq_some hpos hmax, hin, entries_drop_eq, Memory.num]

theorem State.tableAt_local_malformed (hin : s.core.inBounds s.str.spb va 16 = true)
    (hdr : s.core.spad.num (poolAddr s.str.spb va) 16 = g) (hbad : g = 0 ∨ 1024 < g) :
    s.tableAt false va = { range := (va, 16), fault := s.laccFault false 0 va [(poolAddr s.str.spb va, 16)], entries := none } := by
  have hlt : g < 2 ^ 128 := by
    rw [← hdr]
    simpa [Memory.num, Memory.readN_length] using ofBytes_lt (s.core.spad.readN (poolAddr s.str.spb va) 16)
  simp [State.tableAt, hin, hdr, tableSize_eq_none hlt hbad]

theorem State.tableAt_global (hallowed : s.pkg.rangesFault s.core.fn { r := true } [(va, 16)] = none)
    (hdr : ofBytes (s.gbytes va 16) = g) (hpos : 1 ≤ g) (hmax : g ≤ 1024) :
    s.tableAt true va = { range := (va, 16 + 4 * g)
                          fault := s.readFault va (s.pkg.physOf s.core.fn va (16 + 4 * g))
                          entries := some (tableEntries g (ofBytes (s.gbytes va (16 + 4 * g)))) } := by
  simp [State.tableAt, hallowed, hdr, tableSize_eq_some hpos hmax, entries_drop_eq]

end

/-- A table in the pool that nothing stands in the way of is read at once; the instruction's own fault alone is left. -/
theorem State.tableReady_local {s : State} {va : Word} {t : TableRead} (ht : s.tableAt false va = t) (hx : s.str.xlate = none)
    (hfree : s.Free [(poolAddr s.str.spb va, t.range.2)]) (hfault : t.fault = none) (more : Option Trap) :
    s.tableReady false va [] more = (do trapOpt s more; .ok (s.sampled [(poolAddr s.str.spb va, t.range.2)])) := by
  have hnil := State.reaches_nil { r := true } hx
  have hidle : s.acquiring true [] = false := hnil.acquired
  simp only [State.tableReady, ht, Bool.false_eq_true, if_false, List.append_nil, List.map_nil, hidle, hfree.idle, hfault, Bool.and_false,
    Bool.or_false, lowTrap_none_left, hnil.gcheckFn_eq]
  simp [holdIf, Try.ok_bind, hfree.lcount_eq_sampled]

theorem State.tableReady_global {s : State} {va : Word} {t : TableRead} (ht : s.tableAt true va = t)
    (hreach : s.Reaches { r := true } [t.range]) (hfault : t.fault = none) (more : Option Trap) :
    s.tableReady true va [] more = (do trapOpt s more; .ok ((s.gcounted { r := true } [t.range]).gloadCause [t.range])) := by
  simp only [State.tableReady, ht, if_true, List.append_nil, hreach.acquired, hfault, Bool.not_true, Bool.false_and, Bool.or_false,
    lowTrap_none_left, hreach.gcheckFn_eq]
  simp [holdIf, Try.ok_bind]

/-! ### CRANK and CRANKG -/

/-- What CRANK lands of a rank: all ones for an issuer that is not in the table (21 R491). -/
def rankWord : Option Nat → Word
  | some i => BitVec.ofNat 64 i
  | none => BitVec.allOnes 64

section
variable {s : State} {b : BitVec 5} {glob : Bool} (hal : (s.rx b).toNat % 16 = 0) (d : BitVec 5)
include hal

theorem rankForm_of_entries {es : List (BitVec 32)} (hes : (s.tableAt glob (s.rx b)).entries = some es) : rankForm s d b glob =
    finish (do let u ← s.tableReady glob (s.rx b) [] none; .ok (u.emitX d 2 (rankWord (u.rankIn es)))) := by
  simp only [rankForm, misaligned, trapWith, hal, hes, ne_eq, not_true_eq_false, decide_false, Bool.false_eq_true, if_false,
    Option.isNone_some, Option.bind_some, Try.ok_bind]
  rfl

theorem rankForm_of_malformed (hes : (s.tableAt glob (s.rx b)).entries = none) : rankForm s d b glob =
    finish (do
      let u ← s.tableReady glob (s.rx b) [] (some { code := 0x14, sub := 3, cmd := some s.str.pc })
      .ok (u.emitX d 2 (BitVec.allOnes 64))) := by
  simp only [rankForm, misaligned, trapWith, hal, hes, ne_eq, not_true_eq_false, decide_false, Bool.false_eq_true, if_false,
    Option.isNone_none, Option.bind_none, if_true, Try.ok_bind]

variable {g : Nat}

/-- CRANK reads its table in the pool and lands the rank (21 R491). -/
theorem completes_crank (hx : s.str.xlate = none) (hpos : 1 ≤ g) (hmax : g ≤ 1024)
    (hin : s.core.inBounds s.str.spb (s.rx b) (16 + 4 * g) = true)
    (hdr : s.core.spad.num (poolAddr s.str.spb (s.rx b)) 16 = g)
    (hfree : s.Free [(poolAddr s.str.spb (s.rx b), 16 + 4 * g)]) :
    Completes (.crank d b) s ((s.sampled [(poolAddr s.str.spb (s.rx b), 16 + 4 * g)]).gives (.x d (rankWord
      (s.rankIn (tableEntries g (s.core.spad.num (poolAddr s.str.spb (s.rx b)) (16 + 4 * g)))))) 2) := by
  have htable := State.tableAt_local hin hdr hpos hmax
  change rankForm s d b false = _
  rw [rankForm_of_entries hal d (congrArg TableRead.entries htable),
    State.tableReady_local htable hx hfree (hfree.laccFault_eq_none _)]
  rfl

/-- CRANK stops at a table whose header is malformed (21 R490, R491). -/
theorem completes_crank_malformed (hx : s.str.xlate = none) (hin : s.core.inBounds s.str.spb (s.rx b) 16 = true)
    (hdr : s.core.spad.num (poolAddr s.str.spb (s.rx b)) 16 = g) (hbad : g = 0 ∨ 1024 < g)
    (hfree : s.Free [(poolAddr s.str.spb (s.rx b), 16)]) :
    Completes (.crank d b) s (s.takeTrap { code := 0x14, sub := 3, cmd := some s.str.pc }) := by
  have htable := State.tableAt_local_malformed hin hdr hbad
  change rankForm s d b false = _
  rw [rankForm_of_malformed hal d (congrArg TableRead.entries htable),
    State.tableReady_local htable hx hfree (hfree.laccFault_eq_none _)]
  rfl

/-- CRANKG reads its table in global memory and lands the rank; the read may leave a cause (21 R491; 08 R210). -/
theorem completes_crankg (hpos : 1 ≤ g) (hmax : g ≤ 1024) (hdr : ofBytes (s.gbytes (s.rx b) 16) = g)
    (hhead : s.Reaches { r := true } [(s.rx b, 16)]) (hreach : s.Reaches { r := true } [(s.rx b, 16 + 4 * g)])
    (hclean : s.readFault (s.rx b) (s.pkg.physOf s.core.fn (s.rx b) (16 + 4 * g)) = none) :
    ∃ u, (u = s ∨ u = s.cause 0x04) ∧ Completes (.crankg d b) s (u.gives (.x d (rankWord
      (s.rankIn (tableEntries g (ofBytes (s.gbytes (s.rx b) (16 + 4 * g))))))) 2) := by
  have htable := State.tableAt_global hhead.allowed hdr hpos hmax
  have hform : exec (.crankg d b) s = _ := rankForm_of_entries hal d (congrArg TableRead.entries htable)
  rw [State.tableReady_global htable hreach hclean] at hform
  refine ⟨_, hreach.gcounted_gloadCause rfl, hform.trans ?_⟩
  rcases hreach.gcounted_gloadCause rfl with h | h <;> rw [h] <;> rfl

end

/-! ### CPLAN -/

/-- The word of CPLAN: the plan, the package and the pauses (21 R492). -/
def State.planWord (s : State) : Word :=
  BitVec.ofNat 64 ((match s.pkg.active with | some p => p.hdr.toNat / 2 ^ 64 % 2 ^ 16 | none => 0) +
    s.pkg.podn % 1024 * 2 ^ 16 + s.pkg.pauses.toNat * 2 ^ 32)

section
variable {s : State} (d : BitVec 5)

theorem completes_cplan_of_no_pause (h : s.pkg.pauses = 0) : Completes (.cplan d) s (s.gives (.x d s.planWord) 1) := by
  have hform : exec (.cplan d) s = finish (.ok (s.emitX d 1 s.planWord)) := congrArg finish (if_pos h)
  exact hform

/-- A counted pause is an event of the cause log, whose value a replay takes from the journal (18 R437, R440). -/
theorem completes_cplan_of_pause (h : s.pkg.pauses ≠ 0) :
    Completes (.cplan d) s ((s.cause 0x05 s.planWord).gives (.x d (s.replayed s.planWord)) 1) := by
  have hform : exec (.cplan d) s = finish (.ok ((s.cause 0x05 s.planWord).emitX d 1 (s.replayed s.planWord))) :=
    congrArg finish (if_neg h)
  exact hform

end

end Sys2Proof.Machine
end

section
/-! The obligation about ranks and plans (21 R476, R490 to R492). -/
namespace Sys2Proof
open Machine

/-- Settles O49: a table that nothing stands in the way of is read at once, and its entries are the words of its bytes after the
header, so that the lowest of them that names the issuer is its rank; a header of another size leaves no entries but fault 0x14. -/
theorem ranksAndPlans : Obligations.RanksAndPlans := by
  intro s d b va q me rank
  have hrank : ∀ g raw, rank g raw = rankWord (s.rankIn (tableEntries g raw)) := by
    intro g raw
    rw [State.rankIn_tableEntries]
    rfl
  simp only [hrank]
  refine ⟨fun g n hx hal hn hpos hmax => ?_, fun g hal hin hdr hbad hx hfree => ?_, fun w hw => ?_⟩
  · subst hn
    refine ⟨fun hin hdr hfree => completes_crank hal d hx hpos hmax hin hdr hfree, fun hdr hhead hreach hclean => ?_⟩
    obtain ⟨u, hu, hdone⟩ := completes_crankg hal d hpos hmax hdr hhead hreach hclean
    refine ⟨_, hdone, ?_⟩
    rcases hu with rfl | rfl <;> exact ⟨⟨rfl, rfl, rfl, rfl, rfl, rfl, rfl, rfl, rfl, rfl, rfl, rfl⟩, rfl⟩
  · exact completes_crank_malformed hal d hx hin hdr hbad hfree
  · have hword : w = s.planWord := hw
    subst hword
    exact ⟨completes_cplan_of_no_pause d, completes_cplan_of_pause d⟩

end Sys2Proof
end
